-- ==== Sys2Proof/Word.lean ====
section
/-! DEFINITION. The word types of the machine: every register, address and memory unit is one of these (R2, R21, R24).
Bytes are numbered from the lowest address, and every multi-byte value is little-endian (R2). -/

namespace Sys2Proof

/-- A byte of memory, of a buffer region or of a record (R2). -/
abbrev Byte := BitVec 8

/-- A 16-bit field: MODE (R27), an IMM16 (R22). -/
abbrev Half := BitVec 16

/-- A 32-bit word: an instruction (R21), a scalar, one lane of a vector register (R24). -/
abbrev Word := BitVec 32

/-- A word of four bytes, the byte at the lowest address first (R2). -/
def Word.ofBytes (b0 b1 b2 b3 : Byte) : Word := b3 ++ b2 ++ b1 ++ b0

/-- A half word of two bytes, the byte at the lowest address first (R2). -/
def Half.ofBytes (b0 b1 : Byte) : Half := b1 ++ b0

end Sys2Proof
end

