-- ==== Sys2Proof/Config.lean ====
section
/-! DEFINITION. What the spec leaves to the implementation or does not give as a function: free values, each an opaque
constant with no body, so that no proof can rest on a value of it (log entries 5, 11, 12, 34, 37). -/

namespace Sys2Proof.Config

/-- The edges of core `core`'s island clock during step `tick` (R31: the exact count is not promised). -/
opaque edges : (core tick : Nat) → Nat

/-- The 64-byte beats a command has written when CCAN stops it, before the bound of its own length (R238). -/
opaque beatsAtStop : (tick command : Nat) → Nat

/-- Whether the values of the CSR blocks that command `command` copies take two bytes each (R235 does not say of which
format they are). -/
opaque wideValues : (command : Nat) → Bool

/-- The bits a reduction writes to an integer element to which a NaN was contributed (R236 names no integer NaN): of the types field and
the entered sums, none for such an element, so that a deterministic launch writes the same on every run (R304). -/
opaque nanElement : (types : Nat) → (sums : List (Option Int)) → (element : Nat) → Nat

/-- The contributions of each round of a partition's group that reach this module on their way to a root: what the routes of the modules
make of it (R349, R353). -/
opaque hopShare : (partition group root : Nat) → Nat

/-- The 512 bits of a memory key, which the security block draws from its random-bit generator (R374). -/
opaque keyBits : (key : Nat) → Nat

/-- The code of the ROM itself, which stage 2 measures (R369). -/
opaque romImage : List Byte

/-- The steps that the security block takes to form the response of an SPDM exchange (R373 gives no time). -/
opaque spdmTime : (exchange : Nat) → Nat

/-- 256 bits of the random-bit generator for an SPDM exchange. -/
opaque nonce : (exchange : Nat) → Nat

/-- The signature of a message by a device key, 0 the identity key and 1 the attestation key, in an SPDM exchange (R373). -/
opaque signature : (key : Nat) → (message : List Byte) → (exchange : Nat) → Nat

/-- The certificate chain of an SPDM slot: 0 the identity key's chain to the vendor root, 1 the attestation key's certificate (R373). -/
opaque certificate : (slot : Nat) → List Byte

/-- The timing exponent and the two message sizes that CAPABILITIES names. -/
opaque spdmLimit : Nat → Nat

/-- The value type of a measurement block (R373 gives none). -/
opaque measurementType : (block : Nat) → Nat

/-- The memory configuration that training finds, as it is measured into MEAS2 (R369). -/
opaque memoryConfiguration : List Byte

/-- The form in which the fuses and the ageing state, each core's floor and offset code, are measured into MEAS3 (R369). -/
opaque fuseState : (keyDigest : List Byte) → (rollback : Nat) → (cores : List (Nat × Nat)) → List Byte

end Sys2Proof.Config
end

