-- ==== Sys2Proof/Machine/Map.lean ====
section
/-! DEFINITION. Sparse maps: lists of (key, value) pairs with keys strictly rising, the one representation of memory,
buffer regions, registers and tables. Everything that writes one goes through `alter`, so the canonical form is kept in
one place. A map with a default lists no entry equal to the default (`put`). -/

namespace Sys2Proof.Machine

/-- The value at key k. -/
def find (m : List (Nat × α)) (k : Nat) : Option α :=
  match m with
  | [] => none
  | (j, v) :: r => if j = k then some v else find r k

/-- The map with key k holding x, in its place among rising keys. -/
def setKey (m : List (Nat × α)) (k : Nat) (x : α) : List (Nat × α) :=
  match m with
  | [] => [(k, x)]
  | (j, w) :: r =>
    if j = k then (k, x) :: r
    else if k < j then (k, x) :: (j, w) :: r
    else (j, w) :: setKey r k x

/-- The map with key k holding `v`, or not listed when `v` is none. -/
def alter (m : List (Nat × α)) (k : Nat) (v : Option α) : List (Nat × α) :=
  match v with
  | some x => setKey m k x
  | none => m.filter fun e => e.1 ≠ k

/-- The map with key k holding x. -/
def insert (m : List (Nat × α)) (k : Nat) (x : α) : List (Nat × α) := alter m k (some x)

/-- The map without key k. -/
def remove (m : List (Nat × α)) (k : Nat) : List (Nat × α) := alter m k none

/-- The value at key k, or the default d. -/
def findD (m : List (Nat × α)) (k : Nat) (d : α) : α := (find m k).getD d

/-- The map with key k reading x, where an unlisted key reads d: writing d removes the entry. -/
def put [DecidableEq α] (d : α) (m : List (Nat × α)) (k : Nat) (x : α) : List (Nat × α) :=
  alter m k (if x = d then none else some x)

/-- The keys rise strictly. -/
def rising (m : List (Nat × α)) : Bool :=
  match m with
  | [] => true
  | [_] => true
  | (j, _) :: (k, w) :: r => decide (j < k) && rising ((k, w) :: r)

/-- The canonical form of a map with default d: rising keys and no entry equal to the default. -/
def canonical [DecidableEq α] (d : α) (m : List (Nat × α)) : Bool :=
  rising m && m.all fun e => decide (e.2 ≠ d)

/-- Change the value at key k where there is one. -/
def adjust (m : List (Nat × α)) (k : Nat) (f : α → α) : List (Nat × α) :=
  match find m k with
  | some x => insert m k (f x)
  | none => m

/-- The lowest key from `lo` up, below `lo + n`, that the map does not list. -/
def freeKey (m : List (Nat × α)) (lo n : Nat) : Option Nat :=
  ((List.range n).map (lo + ·)).find? fun k => (find m k).isNone

/-- A sorted set of numbers with k in it. -/
def setAdd (m : List Nat) (k : Nat) : List Nat :=
  match m with
  | [] => [k]
  | j :: r => if j = k then m else if k < j then k :: m else j :: setAdd r k

/-- A sorted set of numbers without k. -/
def setDrop (m : List Nat) (k : Nat) : List Nat := m.filter (· ≠ k)

/-- The list with element number i changed. -/
def changeAt (l : List α) (i : Nat) (f : α → α) : List α :=
  match l, i with
  | [], _ => []
  | x :: r, 0 => f x :: r
  | x :: r, i + 1 => x :: changeAt r i f

end Sys2Proof.Machine
end

