-- ==== Sys2Proof/Machine/Bits.lean ====
section
/-! DEFINITION. Bit fields, sign extension and byte order: the one place where a multi-byte value is split into bytes or
built from them (R2), and where lanes are counted in a mask (R28). Values computed with are `Nat` or `Int`; a `BitVec` is
what software sees as a word. -/

namespace Sys2Proof.Machine

/-- Bits [hi:lo] of a natural number. -/
def bits (x hi lo : Nat) : Nat := x / 2 ^ lo % 2 ^ (hi + 1 - lo)

/-- Bit n of a natural number. -/
def bit (x n : Nat) : Bool := x / 2 ^ n % 2 == 1

/-- 1 for true, 0 for false. -/
def boolNat (b : Bool) : Nat := if b then 1 else 0

/-- The integer that the low w bits of x stand for in two's complement (R40). -/
def signedOf (w x : Nat) : Int :=
  let y := x % 2 ^ w
  if y < 2 ^ (w - 1) then (y : Int) else (y : Int) - (2 ^ w : Nat)

/-- The w-bit pattern of an integer, modulo 2^w (R40). -/
def wrapTo (w : Nat) (x : Int) : Nat := (x % ((2 ^ w : Nat) : Int)).toNat

/-- `n` bytes of `x`, least significant first (R2). -/
def leBytes : (n x : Nat) → List Byte
  | 0, _ => []
  | n + 1, x => BitVec.ofNat 8 x :: leBytes n (x / 256)

/-- The value of bytes stored least significant first (R2). -/
def leNat : List Byte → Nat
  | [] => 0
  | b :: bs => b.toNat + 256 * leNat bs

/-- The little-endian value of `n` bytes at offset `o` of a byte string (R2). -/
def leAt (bs : List Byte) (o n : Nat) : Nat := leNat ((bs.drop o).take n)

/-- `n` zero bytes. -/
def zeros (n : Nat) : List Byte := List.replicate n 0

/-- `n` rounded up to a multiple of `k`. -/
def roundUp (n k : Nat) : Nat := (n + k - 1) / k * k

/-- Floor((a + b - 1) / b): the ceiling of a quotient (R8). -/
def ceilDiv (a b : Nat) : Nat := (a + b - 1) / b

/-- The lane numbers of a wave, in ascending order. -/
def lanes : List Nat := List.range 32

/-- Lane l is in the mask. -/
def hasLane (m : Word) (l : Nat) : Bool := m.getLsbD l

/-- The lanes of a mask, lowest first. -/
def lanesOf (m : Word) : List Nat := lanes.filter fun l => m.getLsbD l

/-- The mask that holds exactly the lanes where `p` is true. -/
def maskOf (p : Nat → Bool) : Word :=
  BitVec.ofNat 32 ((lanes.map fun l => if p l then 2 ^ l else 0).sum)

/-- The lowest lane of a mask; 32 when it is empty. -/
def lowestLane (m : Word) : Nat := ((lanesOf m).head?).getD 32

/-- The mask of one lane. -/
def laneBit (l : Nat) : Word := BitVec.ofNat 32 (2 ^ l)

/-- The number of set bits of the low w bits. -/
def popCount (w x : Nat) : Nat := ((List.range w).filter fun i => bit x i).length

/-- `x` rotated left by `k` in 32 bits (R68). -/
def rotl32 (x k : Nat) : Nat := (x * 2 ^ k % 2 ^ 32) ||| (x % 2 ^ 32 / 2 ^ (32 - k))

/-- The number of binary digits of `x`. -/
def numBits (x : Nat) : Nat := if x = 0 then 0 else Nat.log2 x + 1

/-- Bring the elements of `xs` together, each list in order. -/
def flatten (xs : List (List α)) : List α := xs.foldr (· ++ ·) []

end Sys2Proof.Machine
end

