-- ==== Sys2Proof/Syntax.lean ====
section
/-! DEFINITION. The instructions as data: operands, and the one inductive `Instr` with a constructor for each row of
the opcode table. The 157 words of R30 carry the fields of their format (R22). The other rows are the steps of the
device, the host and the fabric; their operands name the agent and carry what comes from outside the model (a record's
bytes, a temperature, a message). -/

namespace Sys2Proof

/-- The special operands, codes 0xE0 to 0xE7 (R24). -/
inductive Special where
  | zero | lane | wave | blkx | blky | blkz | glid | one
  deriving DecidableEq, Repr

/-- An operand code of a D, A, B or O field (R24). -/
inductive Reg where
  /-- v0 to v191, a vector register of 32 lanes. -/
  | v (n : Fin 192)
  /-- s0 to s31, a scalar register of the issuing slot. -/
  | s (n : Fin 32)
  /-- A read-only special. -/
  | sp (x : Special)
  deriving DecidableEq, Repr

/-- The FLAGS field of format C (R22). -/
structure CopyFlags where
  /-- [7] RING. -/
  ring : Bool
  /-- [6] CMPX. -/
  cmpx : Bool
  /-- [5] CHK. -/
  chk : Bool
  /-- [4:2] scope, coded as SCOPE. -/
  scope : BitVec 3
  /-- [1] REL. -/
  rel : Bool
  /-- [0] ACQ. -/
  acq : Bool
  deriving DecidableEq, Repr

/-- The place of one thread: its core, its block's residency slot (0 to 31), and %wave, or 32 for the block's CCP
thread (R20, R218). -/
structure ThreadRef where
  core : Nat
  block : Nat
  thread : Nat
  deriving DecidableEq, Repr

/-- What a read of memory finds in the array it reads (R359): an input, since errors come from outside the model. -/
inductive Ecc where
  | clean | corrected | uncorrectable
  deriving DecidableEq, Repr

/-- An entry of a core's value store that a step reads, and what ECC finds in its bytes (R280, R283). -/
structure EntryRead where
  entry : Nat
  ecc : Ecc
  deriving DecidableEq, Repr

/-- What the management core learns and decides for one core at a 10 µs boundary (R326, R328, R366): the cap level it
sets, the stall counts m and q of the window, and the die temperature at the core. -/
structure CoreSample where
  core : Nat
  cap : Nat
  stalled : Nat
  cycles : Nat
  celsius : Nat
  deriving DecidableEq, Repr

/-- An entry of a partition's operating-point table that the governor writes (R329): the key's KERNEL and marker, and the
bake level. -/
structure PointWrite where
  partition : Nat
  kernel : Nat
  marker : Nat
  level : Nat
  deriving DecidableEq, Repr

/-- One Mbasin record as it arrives: whether its sender is the hypervisor's own job ID, else the Ultra Ethernet job ID it comes
from (R335) and whether the hypervisor has granted that one queue 129 (R338), whether the packet was secured (R334, TSS) and
its bytes, the 32-byte header of R337 first. -/
structure HostRecord where
  hypervisor : Bool
  job : Nat
  granted : Bool
  secured : Bool
  bytes : List Byte
  deriving DecidableEq, Repr

/-- An Ultra Ethernet packet that carries no Mbasin record and no RMA operation of the model (R334, R335). -/
inductive Packet where
  /-- A packet that uses an option R334 marks as not supported. -/
  | unsupported
  /-- A packet of a job ID that is not the hypervisor's, secured or not. -/
  | job (id : Nat) (secured : Bool)
  deriving DecidableEq, Repr

/-- What a remote access asks of the home module (R350). -/
inductive RemoteOp where
  /-- Read `size` bytes. -/
  | read (size : Nat)
  /-- Write the bytes, in address order. -/
  | write (bytes : List Byte)
  /-- An atomic of `size` bytes with operation code W (R183). -/
  | atomic (op : BitVec 3) (float : Bool) (signed : Bool) (size : Nat) (operand : Nat)
  /-- Compare and swap of 4 bytes (R183). -/
  | cas (compare new : Nat)
  /-- Raise, or lower, the sealed-frame counts of consecutive frames from the address on (R182). -/
  | seals (up : Bool) (frames : Nat)
  deriving DecidableEq, Repr

/-- A request message between modules (R347, R350): source module, end-to-end number, tenancy and the access. -/
structure RemoteMsg where
  source : Nat
  home : Nat
  number : Nat
  tenancy : Nat
  addr : Nat
  poison : Bool
  op : RemoteOp
  deriving DecidableEq, Repr

/-- The answer to a request message (R347, R350): `refused` is the window check's refusal, `sealed` the refusal of a write
to a sealed frame (R182), `bytes` what a read or an atomic returns, `poison` the poison that travels with it. -/
structure RemoteReply where
  home : Nat
  number : Nat
  refused : Bool
  sealed : Bool
  poison : Bool
  bytes : List Byte
  deriving DecidableEq, Repr

/-- How a message comes to this module (R344, R345): its port, and the headers of the flits that came on it since the last
such step, in order, the message's last flit being the last of them. -/
structure Landing where
  port : Nat
  flits : List Word
  deriving DecidableEq, Repr

/-- A reduction contribution as it reaches a hop or the root (R353): the modules it comes from, the partition, group and round, the
contributor count and root its sender holds, how many contributions it sums, the types and window as s[A+3] gives them
(R236), the summed elements entered in the window (none where a NaN entered), and their status and poison. -/
structure Contribution where
  modules : List Nat
  partition : Nat
  group : Nat
  round : Nat
  contributors : Nat
  root : Nat
  count : Nat
  types : Nat
  sums : List (Option Int)
  status : Nat
  poison : Bool
  deriving DecidableEq, Repr

/-- The root's result of one round as it reaches this module (R236, R353): its status code and bits, and its bytes. -/
structure ReductionResult where
  partition : Nat
  group : Nat
  round : Nat
  status : Nat
  poison : Bool
  bytes : List Byte
  deriving DecidableEq, Repr

/-- A contribution as Yarrow brings it: how it comes, the module that sent it, its end-to-end number (R347), and itself. -/
structure ContributionIn where
  via : Landing
  source : Nat
  number : Nat
  sum : Contribution
  deriving DecidableEq, Repr

/-- A result as it reaches this module: how it comes, none from this module's own root, and itself. -/
structure ResultIn where
  via : Option Landing
  result : ReductionResult
  deriving DecidableEq, Repr

/-- The sensors of R375, in the order of its table. -/
inductive Sensor where
  | tamper | voltage | clock | temperature
  deriving DecidableEq, Repr


/-- Every instruction of the device (R30) and every step the device, its host and its peers take between
instructions, one constructor for each row of the opcode table. Word operands are the fields of R22 and R30; a `Reg` is
an operand code of R24, in any of the three kinds, and `WellFormed` says which kinds a row admits. -/
inductive Instr where
  /-- BRA (R158): sets the slot's PC to the target for all of its lanes. -/
  | bra (o : BitVec 20)
  /-- BRP (R151): branches the lanes where the predicate holds, splitting the slot into two halves when the lanes are mixed. -/
  | brp (p : BitVec 3) (n : Bool) (o : BitVec 20)
  /-- JOINAT (R158): sets the slot's JPC to the target. -/
  | joinat (o : BitVec 20)
  /-- CALL (R159): writes the return PC to s31 and branches to the target. -/
  | call (o : BitVec 20)
  /-- CALLX (R159): writes the return PC to s31 and branches to the 64-bit target in a scalar pair. -/
  | callx (a : Reg)
  /-- LOOP (R158): decrements a scalar counter and branches while the counter is nonzero. -/
  | loop (d : Reg) (i : BitVec 16)
  /-- BRX (R159): branches to the 64-bit target in a scalar pair without writing s31. -/
  | brx (a : Reg)
  /-- SLEEP (R161): holds the issuing slot for at least n core cycles. -/
  | sleep (i : BitVec 16)
  /-- BKPT (R162): raises cause 0x0C, or halts the block when breakpoint halts are armed. -/
  | bkpt (i : BitVec 16)
  /-- TRAP (R162): raises the software trap, cause 0x0B, with IMM16 copied to SYND. -/
  | trap (i : BitVec 16)
  /-- ILLEGAL_INSTRUCTION (R34): A fetched word with opcode 0x00 or an unlisted opcode raises cause 0x01 as a deferred trap. -/
  | illegalInstruction (w : Word)
  /-- IADD (R81): integer add, wrapped or saturated to MODE.T. -/
  | iadd (d a b : Reg)
  /-- ISUB (R81): integer subtract, wrapped or saturated to MODE.T. -/
  | isub (d a b : Reg)
  /-- IMUL (R81): integer multiply, wrapped or saturated to MODE.T. -/
  | imul (d a b : Reg)
  /-- IMULH (R82): writes the upper half of the exact integer product. -/
  | imulh (d a b : Reg)
  /-- IMAD (R81): computes A·B + D exactly and reduces the result once. -/
  | imad (d a b : Reg)
  /-- IMIN (R81): integer minimum, compared by the signedness of T. -/
  | imin (d a b : Reg)
  /-- IMAX (R81): integer maximum, compared by the signedness of T. -/
  | imax (d a b : Reg)
  /-- IABS (R83): integer absolute value, then Reduce. -/
  | iabs (d a : Reg)
  /-- INEG (R83): integer negation, then Reduce. -/
  | ineg (d a : Reg)
  /-- IADDI (R84): adds the sign-extended IMM16 to D. -/
  | iaddi (d : Reg) (i : BitVec 16)
  /-- MOVI (R84): writes the sign-extended IMM16 to D, reduced to MODE.T. -/
  | movi (d : Reg) (i : BitVec 16)
  /-- MOVHI (R84): writes IMM16 into D[31:16] and keeps D[15:0]. -/
  | movhi (d : Reg) (i : BitVec 16)
  /-- AND (R85): bitwise AND over w bits. -/
  | and (d a b : Reg)
  /-- OR (R85): bitwise OR over w bits. -/
  | or (d a b : Reg)
  /-- XOR (R85): bitwise XOR over w bits. -/
  | xor (d a b : Reg)
  /-- NOT (R85): writes the bitwise complement of A. -/
  | not (d a : Reg)
  /-- SHL (R86): logical shift left by the count in B. -/
  | shl (d a b : Reg)
  /-- SHR (R86): logical shift right by the count in B. -/
  | shr (d a b : Reg)
  /-- SAR (R86): arithmetic shift right by the count in B. -/
  | sar (d a b : Reg)
  /-- ROL (R86): rotates left by the count in B modulo w. -/
  | rol (d a b : Reg)
  /-- POPC (R87): writes the number of set bits of A. -/
  | popc (d a : Reg)
  /-- CLZ (R87): writes the number of leading zero bits of A. -/
  | clz (d a : Reg)
  /-- BREV (R85): reverses the bit order of A over w bits. -/
  | brev (d a : Reg)
  /-- BFE (R88): extracts a bit field, sign- or zero-extended. -/
  | bfe (d a b : Reg)
  /-- BFI (R88): inserts a bit field of A into D. -/
  | bfi (d a b : Reg)
  /-- PRMT (R89): selects four bytes from A and the old D, with optional sign fill. -/
  | prmt (d a b : Reg)
  /-- FADD (R101): floating-point add, correctly rounded. -/
  | fadd (d a b : Reg)
  /-- FSUB (R101): floating-point subtract, correctly rounded. -/
  | fsub (d a b : Reg)
  /-- FMUL (R101): floating-point multiply, correctly rounded. -/
  | fmul (d a b : Reg)
  /-- FMA (R101): computes A·B + D exactly and rounds once. -/
  | fma (d a b : Reg)
  /-- FMIN (R102): IEEE minimumNumber under the device NaN rule. -/
  | fmin (d a b : Reg)
  /-- FMAX (R102): IEEE maximumNumber under the device NaN rule. -/
  | fmax (d a b : Reg)
  /-- FABS (R103): clears the sign bit of A. -/
  | fabs (d a : Reg)
  /-- FNEG (R103): flips the sign bit of A. -/
  | fneg (d a : Reg)
  /-- RCP (R105): correctly rounded reciprocal of A. -/
  | rcp (d a : Reg)
  /-- RSQ (R105): correctly rounded reciprocal square root of A. -/
  | rsq (d a : Reg)
  /-- SQRT (R105): correctly rounded square root of A. -/
  | sqrt (d a : Reg)
  /-- EX2 (R105): correctly rounded 2 to the power A. -/
  | ex2 (d a : Reg)
  /-- LG2 (R105): correctly rounded base-2 logarithm of A. -/
  | lg2 (d a : Reg)
  /-- SIN (R105): correctly rounded sin(2π·a). -/
  | sin (d a : Reg)
  /-- COS (R105): correctly rounded cos(2π·a). -/
  | cos (d a : Reg)
  /-- FRND (R104): rounds A to an integral value in the direction of MODE.RND. -/
  | frnd (d a : Reg)
  /-- CVT (R106): converts A from the source type in B to MODE.T. -/
  | cvt (d a : Reg) (t : BitVec 4)
  /-- CMP (R107): compares A and B per lane and writes a predicate. -/
  | cmp (c : BitVec 4) (p : BitVec 3) (a b : Reg)
  /-- SEL (R108): writes A or B into each active lane according to the guard predicate. -/
  | sel (d a b : Reg)
  /-- PK2 (R109): converts two sources to a 16-bit type and packs them into one lane. -/
  | pk2 (d a b : Reg)
  /-- PK4 (R109): converts four sources to an 8-bit or 4-bit type and packs them into one lane. -/
  | pk4 (d a b : Reg)
  /-- UPK (R110): widens one packed part of A exactly. -/
  | upk (d a : Reg) (p : BitVec 2)
  /-- BSCL (R111): computes the E8M1 block scale for max(|a|, |b|). -/
  | bscl (d a b : Reg)
  /-- SHFL (R113): reads each lane's value from an indexed source lane. -/
  | shfl (d a b : Reg)
  /-- SHFLU (R113): shuffles values up by a distance. -/
  | shflu (d a b : Reg)
  /-- SHFLD (R113): shuffles values down by a distance. -/
  | shfld (d a b : Reg)
  /-- SHFLX (R113): shuffles values by XOR of the lane index. -/
  | shflx (d a b : Reg)
  /-- RDLANE (R114): reads one lane of a vector register into D. -/
  | rdlane (d a b : Reg)
  /-- WRLANE (R114): writes a uniform value into one lane and 0 into the other masked lanes. -/
  | wrlane (d a b : Reg)
  /-- VOTE (R115): computes a ballot, all or any over a predicate into a scalar. -/
  | vote (d : Reg) (p : BitVec 3) (k : BitVec 2)
  /-- REDADD (R117): sums the active lanes in the fixed pairwise tree. -/
  | redadd (d a : Reg)
  /-- REDMIN (R117): takes the minimum of the active lanes in the tree. -/
  | redmin (d a : Reg)
  /-- REDMAX (R117): takes the maximum of the active lanes in the tree. -/
  | redmax (d a : Reg)
  /-- SCAN (R118): forms an inclusive or exclusive running combination in lane order. -/
  | scan (d a : Reg) (x : Bool) (o : BitVec 2)
  /-- PMOV_TO_SCALAR (R116): writes all 32 bits of a predicate into a scalar. -/
  | pmovToScalar (d : Reg) (p : BitVec 3)
  /-- PMOV_TO_PREDICATE (R116): sets the predicate bits of the effective mask from a scalar. -/
  | pmovToPredicate (p : BitVec 3) (a : Reg)
  /-- MOV (R90): copies a register, joining the source's value-store entry under lineage. -/
  | mov (d a : Reg)
  /-- LIW (R91): writes the literal word that follows into D. -/
  | liw (d : Reg) (literal : Word)
  /-- LDK (R92): writes a launch constant from the snapshot into D. -/
  | ldk (d : Reg) (i : BitVec 8)
  /-- MODE (R94): writes IMM16 into the slot's MODE register. -/
  | mode (i : BitVec 16)
  /-- SETF (R95): copies sA[23:0] into the slot's FMT register. -/
  | setf (a : Reg)
  /-- MFS (R96): reads a special register into D. -/
  | mfs (d : Reg) (i : BitVec 16)
  /-- MTS (R97): writes a uniform value to a special register with that register's effect. -/
  | mts (d : Reg) (i : BitVec 16)
  /-- TAGOF (R77): reports a register's value-store binding. -/
  | tagof (d a : Reg)
  /-- VSDROP (R78): makes a bound register private with unchanged contents. -/
  | vsdrop (d : Reg)
  /-- XLAT (R170): loads a translation register with a base, its frame and a fast limit. -/
  | xlat (t : BitVec 3) (a b : Reg)
  /-- GRAISE (R300): atomically raises the launch's block count and queues the added blocks. -/
  | graise (d a : Reg)
  /-- PHASE (R301): sets the block's phase marker. -/
  | phase (i : BitVec 16)
  /-- GEAR (R322): requests a gear and level for the block and reports a status. -/
  | gear (d a : Reg)
  /-- LDG (R178): loads from global memory through a translation register. -/
  | ldg (d o : Reg) (x w : BitVec 3) (h : BitVec 2)
  /-- STG (R178): enqueues a global store in the wave's store queue. -/
  | stg (d o : Reg) (x w : BitVec 3) (h : BitVec 2)
  /-- LDGK (R180): loads from global memory and may bind a lineage leaf on sealed pages. -/
  | ldgk (d o : Reg) (x w : BitVec 3) (h : BitVec 2)
  /-- LDS (R178): loads from the block's shared memory. -/
  | lds (d o : Reg) (w : BitVec 3)
  /-- STS (R178): stores to the block's shared memory through the store queue. -/
  | sts (d o : Reg) (w : BitVec 3)
  /-- LDB (R178): loads from the block's AB or CB region. -/
  | ldb (d o : Reg) (x w : BitVec 3)
  /-- STB (R178): stores to the block's AB or CB region. -/
  | stb (d o : Reg) (x w : BitVec 3)
  /-- PRF (R181): starts a cache fill of the touched lines without faulting. -/
  | prf (o : Reg) (x : BitVec 3) (h : BitVec 2)
  /-- ATOMG (R184): performs a 4-byte global atomic at the named scope. -/
  | atomg (d o : Reg) (x w : BitVec 3) (h : BitVec 2)
  /-- ATOMG64 (R184): performs an 8-byte global atomic at the named scope. -/
  | atomg64 (d o : Reg) (x w : BitVec 3) (h : BitVec 2)
  /-- CASG (R184): performs a global 32-bit compare-and-swap. -/
  | casg (d o : Reg) (x : BitVec 3) (h : BitVec 2)
  /-- ATOMS (R184): performs a 4-byte atomic on shared memory. -/
  | atoms (d o : Reg) (w : BitVec 3)
  /-- CASS (R184): performs a compare-and-swap on shared memory. -/
  | cass (d o : Reg)
  /-- FENCE (R196): holds until the predecessor accesses are performed at scope and orders the successor accesses after them. -/
  | fence (p s : BitVec 4) (c : BitVec 3)
  /-- BAR (R205): arrives at a block barrier and holds until every non-exited wave has arrived. -/
  | bar (n : BitVec 4)
  /-- ARRIVE (R207): arrives in the next phase of a cluster barrier and returns that phase. -/
  | arrive (d : Reg) (n : BitVec 3)
  /-- WAITB (R208): holds the slot until the named cluster phase is reached, then acquires. -/
  | waitb (n : BitVec 3) (a : Reg)
  /-- TESTB (R208): reports whether a cluster phase has been reached, without waiting. -/
  | testb (d a : Reg) (n : BitVec 3)
  /-- WAITC (R210): holds the slot until an in-flight counter is at or below a limit. -/
  | waitc (p : BitVec 3) (a : Reg)
  /-- GANG (R211): writes the wave's gang mask. -/
  | gang (a : Reg)
  /-- RAWAIT (R215): waits for a filled ring slot and returns its offset. -/
  | rawait (d : Reg) (n : BitVec 4)
  /-- RREL (R216): releases the head ring slot and schedules its operands-consumed event. -/
  | rrel (n : BitVec 4)
  /-- RPOST (R217): queues a 32-bit word for a post ring and raises path 4. -/
  | rpost (a : Reg) (n : BitVec 4)
  /-- RINIT (R213): initialises a ring descriptor and its pointers. -/
  | rinit (n : BitVec 4) (a : Reg)
  /-- MMA (R128): accumulates a matrix product into a C tile, with optional row sums. -/
  | mma (a : Reg)
  /-- MMAZ (R128): clears the C tile and accumulates a matrix product into it. -/
  | mmaz (a : Reg)
  /-- MMAS (R139): accumulates a sparse CSR weight product, skipping zero steps. -/
  | mmas (a : Reg)
  /-- EPI (R136): applies column scale and zero point to a raw tile. -/
  | epi (a : Reg)
  /-- ROWSUM (R137): sums the activations of each row into a CB vector. -/
  | rowsum (a : Reg)
  /-- CMPR (R141): compresses lines into 2:4 sparse form. -/
  | cmpr (a : Reg)
  /-- CBLD (R145): loads the core's cb2 table from SM. -/
  | cbld (a : Reg)
  /-- QACC (R142): quantises an f32 CB tile into an A tile in AB. -/
  | qacc (a : Reg)
  /-- CLRT (R143): writes +0 to 4 KiB of CB. -/
  | clrt (a : Reg)
  /-- MTRN (R144): transposes a 32 × 32 tile in AB. -/
  | mtrn (a : Reg)
  /-- LDEF (R245): defines a ladder's rungs, decay and weights and zeroes its step counter. -/
  | ldef (a : Reg) (l : BitVec 2)
  /-- LPUSH (R246): merges a tile into the ladder with binary-counter carries. -/
  | lpush (a : Reg) (l : BitVec 2)
  /-- LREAD (R247): writes the weighted blend of the occupied rungs to a tile. -/
  | lread (a : Reg) (l : BitVec 2)
  /-- LRUNG (R248): copies a rung to a tile and reports its occupancy. -/
  | lrung (d a : Reg) (l : BitVec 2)
  /-- LSETR (R248): copies a tile into a rung. -/
  | lsetr (a : Reg) (l : BitVec 2)
  /-- LSTEP (R249): reads the ladder's step counter. -/
  | lstep (d : Reg) (l : BitVec 2)
  /-- LSTEPW (R249): sets the ladder's step counter. -/
  | lstepw (a : Reg) (l : BitVec 2)
  /-- LCLR (R249): sets the ladder's step counter to 0. -/
  | lclr (l : BitVec 2)
  /-- CPY (R227): starts a linear local copy command. -/
  | cpy (d a : Reg) (f : CopyFlags)
  /-- CPY2 (R232): starts a two-dimensional strided copy command. -/
  | cpy2 (d a : Reg) (f : CopyFlags)
  /-- CPYX (R232): starts a copy carried over Yarrow to or from another module. -/
  | cpyx (d a : Reg) (f : CopyFlags)
  /-- CPYM (R233): starts an acknowledged multicast copy into rings of several cluster blocks. -/
  | cpym (d a : Reg) (f : CopyFlags)
  /-- CPYE (R234): starts a copy that expands 2:4 sparse lines. -/
  | cpye (d a : Reg) (f : CopyFlags)
  /-- CPYG (R235): starts a copy of a sparse weight image and its step table into WB. -/
  | cpyg (d a : Reg) (f : CopyFlags)
  /-- REDX (R236): contributes elements to a fabric reduction group. -/
  | redx (d a : Reg) (f : CopyFlags)
  /-- CWAIT (R237): waits for the commands of a tag and returns a status word. -/
  | cwait (d a : Reg)
  /-- CSTAT (R237): returns the status of the commands of a tag without waiting. -/
  | cstat (d a : Reg)
  /-- CCAN (R238): cancels the outstanding commands of a tag. -/
  | ccan (a : Reg)
  /-- RFILL (R239): claims the next fill-ring slot and marks it filled at once. -/
  | rfill (a : Reg)
  /-- FLTQ (R260): reads and removes the wave's oldest fault record. -/
  | fltq (d : Reg)
  /-- MAPFT (R262): maps a zeroed pool frame into a first-touch page. -/
  | mapft (d a : Reg)
  /-- CANCEL (R265): cancels logged lanes and parks them as address faults. -/
  | cancel (a : Reg)
  /-- HALTB (R272): halts the blocks named by a residency-slot mask. -/
  | haltb (a : Reg)
  /-- TLBINV (R274): removes the partition's translations that cover an address at a scope. -/
  | tlbinv (a b : Reg)
  /-- MFSV (R271): reads a special or supervisor register. -/
  | mfsv (d : Reg) (i : BitVec 16)
  /-- MTSV (R271): writes a special or supervisor register. -/
  | mtsv (d : Reg) (i : BitVec 16)
  /-- ERRINJ (R364): arms one error injection of the chosen kind. -/
  | errinj (a : Reg)
  /-- RESUMEB (R272): restarts the halted blocks named by a mask. -/
  | resumeb (a : Reg)
  /-- VALUE_PUBLISH (R71): when a pending computation passes its checks, its entry is published VALID or COLD; with the
  error then found in its bytes (R283). -/
  | valuePublish (core : Nat) (entry : EntryRead)
  /-- ACTIVE_SET_EXCHANGE (R149): A wave whose live slots are all held long-latency is exchanged with the longest-waiting ready pending wave. -/
  | activeSetExchange (core quad : Nat)
  /-- PENDING_PROMOTION (R150): A pending wave ready for 4,096 cycles replaces the least recently issuing active wave. -/
  | pendingPromotion (core quad : Nat)
  /-- JOIN_MERGE (R152): when both frame slots are at the join or empty, the wave merges and pops the stack. -/
  | joinMerge (t : ThreadRef)
  /-- SLEEP_EXPIRY (R161): A sleeping slot becomes ready after its cycle count. -/
  | sleepExpiry (t : ThreadRef) (slot : Bool)
  /-- BLOCK_DEADLOCK (R156): after 8,192 cycles with every wave stuck, each stuck slot takes cause 0x09. -/
  | blockDeadlock (core block : Nat)
  /-- LOAD_COMPLETE (R179): A load's data is written and path 0 is lowered in issue order. -/
  | loadComplete (t : ThreadRef) (ecc : Ecc)
  /-- STORE_PERFORMED (R179): A store drains from the queue, is performed and lowers path 1. -/
  | storePerformed (t : ThreadRef)
  /-- ATOMIC_COMPLETE (R179): an atomic's old value is written and its store performed, lowering path 5. -/
  | atomicComplete (t : ThreadRef) (ecc : Ecc)
  /-- POST_WRITE (R217): A queued RPOST word is written to a claimable post slot, advancing the ring and lowering path 4. -/
  | postWrite (t : ThreadRef)
  /-- MATRIX_COMPLETE (R120): A matrix instruction completes, ORs its flags and lowers path 2. -/
  | matrixComplete (core : Nat)
  /-- LADDER_COMPLETE (R243): A ladder operation completes, writes its results and lowers path 3. -/
  | ladderComplete (core : Nat)
  /-- OPERANDS_CONSUMED (R216): once queued engine reads of a released slot have fetched, FP advances and a CPYM acknowledgement is sent. -/
  | operandsConsumed (core block ring : Nat)
  /-- COPY_COMPLETE (R227): A copy's last write is performed; its result and status are set and a ring slot is marked filled. -/
  | copyComplete (core block cmd : Nat)
  /-- COPY_STOP (R229): A copy meets a translation, permission, seal, ECC or fabric failure at a beat and stops with that code. -/
  | copyStop (core block cmd : Nat) (fabric : Bool)
  /-- PAGE_FAULT_LOG (R254): after a walk finds a first-touch page, the faulted lanes enter the operand log and issue stops. -/
  | pageFaultLog (t : ThreadRef)
  /-- FAULT_RECORD_ENQUEUE (R256): A wave's fault records enter the core's fault queue as space frees. -/
  | faultRecordEnqueue (t : ThreadRef)
  /-- TRAP_ENTRY (R255): A parked or due trap is entered: DEPTH rises, state is saved and the handler vector is fetched. -/
  | trapEntry (t : ThreadRef)
  /-- TRAP_WAIT_LIMIT (R253): another slot that has issued 4,096 words since the parking is stopped so the trap can be taken. -/
  | trapWaitLimit (t : ThreadRef)
  /-- REGION_RESTART (R362): after a poison consumption in an open region, the wave drains and restarts after the RGN. -/
  | regionRestart (t : ThreadRef)
  /-- WAVE_END (R160): an ended wave's registers and place return to the core once its counters reach zero. -/
  | waveEnd (t : ThreadRef)
  /-- CONSTANT_SNAPSHOT (R93): A head launch with its dependences met reads its constant bank and enters DISPATCHING, or FAILED. -/
  | constantSnapshot (launch : Nat)
  /-- BLOCK_PLACEMENT (R296): the dispatcher places a ready block on a core that passes every resource and power test. -/
  | blockPlacement (launch core : Nat)
  /-- LAUNCH_RETIRE (R298): after the last block and CCP end, writes are performed, entries killed, DONE counters raised and LAUNCHDONE sent. -/
  | launchRetire (launch : Nat)
  /-- TIME_SLICE_EXPIRY (R311): after SLICE µs of residence, an expiry reaches each wave of the block. -/
  | timeSliceExpiry (core block : Nat)
  /-- WAVE_EVICTION (R307): chosen waves stop, drain and save their contexts to make room. -/
  | waveEviction (launch core : Nat)
  /-- EVICTION_ABANDON (R307): A wave that has not drained within 65,536 cycles issues again. -/
  | evictionAbandon (t : ThreadRef)
  /-- BLOCK_EVICTION (R305): an expired block is saved whole with its regions, rings, ladders and CCP. -/
  | blockEviction (core block : Nat)
  /-- RESTORE (R312): an evicted wave or block is read back, private and with zero counters, and resumes. -/
  | restore (partition core : Nat)
  /-- MIGRATION (R314): the management core moves a block to a cooler core on the same die. -/
  | migration (core block target : Nat)
  /-- POWER_INTERVAL (R328): every 10 µs, cap levels and budgets are set and STALLR is updated. -/
  | powerInterval (samples : List CoreSample) (points : List PointWrite)
  /-- GEAR_SHIFT_START (R323): A re-resolved point begins a shift: issue stops and voltage or clock moves first. -/
  | gearShiftStart (core : Nat)
  /-- GEAR_SHIFT_END (R323): the shift ends; the FIFO drains in order and issue resumes. -/
  | gearShiftEnd (core : Nat)
  /-- AUTO_PROOF (R325): A core whose resident waves all wait at cluster barriers drops to the slowest proof level. -/
  | autoProof (core : Nat)
  /-- THERMAL_LIMIT (R331): A core's temperature crossing a threshold offers migration, forces bake 2 or holds proof. -/
  | thermalLimit (core celsius : Nat)
  /-- LAUNCH (R290): an Mbasin launch record is checked, queued or refused. -/
  | launch (r : HostRecord)
  /-- MBASIN_CANCEL (R299): sets CANC of a counter and cancels the launches that name it. -/
  | mbasinCancel (r : HostRecord)
  /-- CTRREAD (R297): returns a completion counter. -/
  | ctrread (r : HostRecord)
  /-- CTRWRITE (R297): writes a completion counter. -/
  | ctrwrite (r : HostRecord)
  /-- SEAL (R182): seals a segment's leaves and raises its frames' seal counts. -/
  | sealSegment (r : HostRecord)
  /-- UNSEAL (R182): unseals a segment and kills every LDGK-derived entry. -/
  | unsealSegment (r : HostRecord)
  /-- STATSREAD (R285): reads and clears a core's value-store statistics. -/
  | statsread (r : HostRecord)
  /-- REDGRP (R353): defines or removes a reduction group. -/
  | redgrp (r : HostRecord)
  /-- SPDM (R373): carries one SPDM request to the security block and returns its response. -/
  | spdm (r : HostRecord)
  /-- PARTCFG (R341): configures a partition's job IDs, tenancy, page-table root, pool and TRAPBASE. -/
  | partcfg (r : HostRecord)
  /-- RAILMAP (R341): sets each core's proof and bake rail choice. -/
  | railmap (r : HostRecord)
  /-- BUDGET (R293): sets a partition's refill, cap and slew rate. -/
  | budget (r : HostRecord)
  /-- CTXAREA (R308): gives the partition's context area. -/
  | ctxarea (r : HostRecord)
  /-- RACKCAP (R330): accepts a newer module power cap with a lease. -/
  | rackcap (r : HostRecord)
  /-- MODID (R349): sets the module number before any link trains. -/
  | modid (r : HostRecord)
  /-- ROUTE (R349): sets or removes the ports of a route to a module. -/
  | route (r : HostRecord)
  /-- WINDOW (R350): sets or removes a remote-access window. -/
  | window (r : HostRecord)
  /-- LIFEREAD (R367): returns a core's live lifetime record. -/
  | liferead (r : HostRecord)
  /-- MAINT (R365): opens a core's maintenance window for ageing measurement. -/
  | maint (r : HostRecord)
  /-- MAINT_WINDOW_CLOSE (R365): the measurement ends; offset and floor are re-planned and a RESPONSE is sent. -/
  | maintWindowClose (core ppm : Nat)
  /-- SECCFG (R375): raises the alarm levels of the sensors. -/
  | seccfg (r : HostRecord)
  /-- EXTEND (R372): extends measurement register 5, 6 or 7 with a digest. -/
  | extend (r : HostRecord)
  /-- DHALT (R315): halts named blocks of a launch for debugging. -/
  | dhalt (r : HostRecord)
  /-- DREAD (R316): reads bytes of a halted block's context image. -/
  | dread (r : HostRecord)
  /-- DWRITE (R316): writes permitted fields of a halted block's image. -/
  | dwrite (r : HostRecord)
  /-- DRESUME (R317): resumes halted blocks, delivering or skipping a pending breakpoint. -/
  | dresume (r : HostRecord)
  /-- DARM (R341): arms or disarms breakpoint halts for the partition. -/
  | darm (r : HostRecord)
  /-- SYNC (R343): returns queue and stream state in a SYNCREPLY and resends held events. -/
  | sync (r : HostRecord)
  /-- UNKNOWN_RECORD (R340): A record of an unlisted TYPE is refused with MALFORMED. -/
  | unknownRecord (r : HostRecord)
  /-- RMA_PUT (R336): A host RMA put is translated and performed at package scope, then completed. -/
  | rmaPut (job : Nat) (secured : Bool) (va : Nat) (bytes : List Byte)
  /-- RMA_GET (R336): A host RMA get is translated and returns bytes. -/
  | rmaGet (job : Nat) (secured : Bool) (va length : Nat)
  /-- FLIT_NAK (R346): A received nak makes the sender replay from the named sequence. -/
  | flitNak (port : Nat) (header : Word)
  /-- FLIT_ACK (R346): A received ack frees replay-buffer entries. -/
  | flitAck (port : Nat) (header : Word)
  /-- LINK_DOWN (R346): after 8 replays or 1 ms without an ack, the link retrains and its messages are resent elsewhere. -/
  | linkDown (port : Nat)
  /-- REMOTE_REQUEST (R350): A home module checks a remote access against its windows and performs it at most once. -/
  | remoteRequest (via : Landing) (m : RemoteMsg)
  /-- REMOTE_RESPONSE (R350): A response to a remote access arrives at the issuing module. -/
  | remoteResponse (via : Landing) (r : RemoteReply)
  /-- REMOTE_TIMEOUT (R351): A remote access without a response in 2 ms fails, parks its lanes and sends a FABRIC event. -/
  | remoteTimeout (home number : Nat)
  /-- REDUCTION_CONTRIBUTION (R353): A contribution reaches a switch or the root and is added exactly. -/
  | reductionContribution (c : ContributionIn)
  /-- REDUCTION_RESULT (R236): the root's rounded result is written to every participant and each REDX completes. -/
  | reductionResult (r : ResultIn)
  /-- BOOT_ROM (R369): the ROM self-tests, reads the fuses and clears and extends the measurements. -/
  | bootRom (selfTest : Bool)
  /-- BOOT_MEMORY_TRAIN (R369): firmware trains the memory interfaces and extends MEAS2 and MEAS3. -/
  | bootMemoryTrain (trained : Bool) (memoryDigest fuseDigest : List Byte)
  /-- BOOT_COMPUTE_RAILS (R369): once the inlet is below 45 °C, firmware brings up the compute-die rails. -/
  | bootComputeRails (celsius : Nat)
  /-- BOOT_TEMP_ALARM (R369): while stage 5 waits for coolant, an ALARM event is sent every second. -/
  | bootTempAlarm (celsius : Nat)
  /-- RECOVERY_IMAGE (R371): an image written over I3C in recovery is verified and boot restarts at stage 3. -/
  | recoveryImage (image : List Byte)
  /-- SECURITY_ALARM (R376): A sensor trips and acts at its level: log, halt or erase. -/
  | securityAlarm (sensors : List Sensor) (time : Nat)
  /-- PAGE_WALK_COMPLETE (R172): A page-table walk ends: XLAT's translation register receives its frame, bits and fast limit, or an access learns its address, permission or seal fault. -/
  | pageWalkComplete (core walk : Nat)
  /-- UNCORRECTABLE_CODEWORD (R346): A Yarrow receiver meets a codeword that FEC cannot correct, discards its flits and every later flit until the replay, and sends a nak naming the next expected SEQ. -/
  | uncorrectableCodeword (port : Nat)
  /-- LINK_TRAINING_COMPLETE (R340): A Yarrow link completes training and comes up, after which MODID is refused with BUSY. -/
  | linkTrainingComplete (port : Nat)
  /-- LDO_DROOP (R366): A core's LDO droops and the droop-event counter of its lifetime record rises. -/
  | ldoDroop (core : Nat)
  /-- DROPPED_PACKET (R334): an Ultra Ethernet packet that uses an unsupported option, or whose job ID maps to no partition, is dropped and counted in the port's error counters. -/
  | droppedPacket (port : Nat) (p : Packet)
  /-- NOP (R158): advances the PC and changes nothing else. -/
  | nop
  /-- RET (R159): branches to the address in s31. -/
  | ret
  /-- EXIT (R160): removes the lanes of the effective mask from the slot and ends the wave when no lanes remain. -/
  | exit
  /-- YIELD (R161): exchanges the wave with the longest-waiting ready pending wave, if one exists. -/
  | yield
  /-- RGN (R361): closes any open region and opens an idempotent region. -/
  | rgn
  /-- RGNEND (R361): closes the region after draining paths 0, 2, 3 and 5. -/
  | rgnend
  /-- RFT (R266): returns from the current trap depth. -/
  | rft
  /-- REPLAY (R263): re-issues the logged page-fault accesses of the depth below. -/
  | replay
  /-- DRAIN (R273): waits until every halted block's work in flight has ended, then acquires. -/
  | drain
  /-- VSFLUSH (R275): makes every value-store entry of the core DEAD once pending entries settle. -/
  | vsflush
  /-- TOKEN_CHARGE (R293): each microsecond, every core holding blocks of a partition charges it, borrowing when needed. -/
  | tokenCharge
  /-- TOKEN_REFILL (R294): every 100 µs, each partition is refilled and repays debts. -/
  | tokenRefill
  /-- RACKCAP_LEASE_EXPIRY (R330): A cap lease that expires without renewal applies the safe budget. -/
  | rackcapLeaseExpiry
  /-- LIFETIME_SAVE (R367): each hour, the lifetime records are copied to non-volatile storage. -/
  | lifetimeSave
  /-- POWER_ON (R369): 48 V input starts the boot sequence. -/
  | powerOn
  /-- MODULE_RESET (R369): module reset restarts the boot sequence and clears volatile state. -/
  | moduleReset
  /-- BOOT_IMAGE_LOAD (R370): the ROM loads and verifies an image slot, then extends MEAS1. -/
  | bootImageLoad
  /-- BOOT_PORTS_UP (R369): firmware brings up the Ultra Ethernet ports, raises EPOCH and accepts records. -/
  | bootPortsUp
  /-- RECOVERY_STATUS_READ (R371): an I3C read returns the recovery status. -/
  | recoveryStatusRead
  /-- POWER_LOSS (R367): the 48 V input is lost, and the module stops with counts since the last hourly lifetime save lost. -/
  | powerLoss
  deriving DecidableEq, Repr

end Sys2Proof
end

