-- ==== Sys2Proof/Machine/Operands.lean ====
section
/-! DEFINITION. The operand forms of R22 to R30: operand codes, MODE's fields, the element types, and for every word which
operands it reads and writes, of which kind and width, which MODE.T values it accepts, its opcode and its checker unit.
Decoding, the field checks of R34, the scoreboard, poison and lineage all read these tables. -/

namespace Sys2Proof.Machine
open Sys2Proof

/-! ### Operand codes (R24) -/

/-- The code of a special (R24). -/
def specialCode : Special → Nat
  | .zero => 0xE0 | .lane => 0xE1 | .wave => 0xE2 | .blkx => 0xE3
  | .blky => 0xE4 | .blkz => 0xE5 | .glid => 0xE6 | .one => 0xE7

/-- The 8-bit code of an operand (R24). -/
def regCode : Reg → Byte
  | .v n => BitVec.ofNat 8 n.val
  | .s n => BitVec.ofNat 8 (0xC0 + n.val)
  | .sp x => BitVec.ofNat 8 (specialCode x)

/-- The operand a code names; none for the reserved codes 0xE8 to 0xFF (R24). -/
def regOfCode (c : Byte) : Option Reg :=
  let n := c.toNat
  if h : n < 192 then some (.v ⟨n, h⟩)
  else if h : n - 192 < 32 then some (.s ⟨n - 192, h⟩)
  else match n - 224 with
    | 0 => some (.sp .zero) | 1 => some (.sp .lane) | 2 => some (.sp .wave) | 3 => some (.sp .blkx)
    | 4 => some (.sp .blky) | 5 => some (.sp .blkz) | 6 => some (.sp .glid) | 7 => some (.sp .one)
    | _ => none

/-- A vector register code. -/
def isVec : Reg → Bool
  | .v _ => true | _ => false

/-- A scalar register code. -/
def isScalar : Reg → Bool
  | .s _ => true | _ => false

/-- A special code. -/
def isSpecial : Reg → Bool
  | .sp _ => true | _ => false

/-- The uniform sources of R26: s registers, %zero, %one, %wave and the block coordinates. -/
def isUniform : Reg → Bool
  | .s _ => true
  | .sp .lane | .sp .glid => false
  | .sp _ => true
  | .v _ => false

/-- The number of a register within its file; 0 for a special. -/
def regNum : Reg → Nat
  | .v n => n.val | .s n => n.val | .sp _ => 0

/-- The register `k` places above `r` in its own file; none past the end of the file, and none for a special. -/
def regPlus (r : Reg) (k : Nat) : Option Reg :=
  match r with
  | .v n => if h : n.val + k < 192 then some (.v ⟨n.val + k, h⟩) else none
  | .s n => if h : n.val + k < 32 then some (.s ⟨n.val + k, h⟩) else none
  | .sp _ => none

/-- Scalar number n, taken modulo 32. -/
def sreg (n : Nat) : Reg := .s ⟨n % 32, Nat.mod_lt _ (by decide)⟩

/-! ### MODE (R27) and the element types -/

/-- MODE.FTZ. -/
def modeFtz (m : Half) : Bool := m.getLsbD 11
/-- MODE.SAT. -/
def modeSat (m : Half) : Bool := m.getLsbD 10
/-- MODE.RND: 0 nearest-even, 1 toward zero, 2 toward −∞, 3 toward +∞. -/
def modeRnd (m : Half) : Nat := (m.extractLsb' 8 2).toNat
/-- MODE.T. -/
def modeT (m : Half) : BitVec 4 := m.extractLsb' 4 4
/-- MODE.GN. -/
def modeGn (m : Half) : Bool := m.getLsbD 3
/-- MODE.G. -/
def modeG (m : Half) : Nat := (m.extractLsb' 0 3).toNat

/-- The element types of MODE.T (R27). -/
inductive Ty where
  | i32 | n32 | i64 | n64 | f32 | f64 | f16 | bf16 | e4m3 | e5m2 | e2m1 | i16 | n16 | i8 | n8
  deriving DecidableEq, Repr

/-- The type of a code of R27; 15 is reserved. -/
def tyOfCode (c : BitVec 4) : Option Ty :=
  match c.toNat with
  | 0 => some .i32 | 1 => some .n32 | 2 => some .i64 | 3 => some .n64 | 4 => some .f32
  | 5 => some .f64 | 6 => some .f16 | 7 => some .bf16 | 8 => some .e4m3 | 9 => some .e5m2
  | 10 => some .e2m1 | 11 => some .i16 | 12 => some .n16 | 13 => some .i8 | 14 => some .n8
  | _ => none

/-- MODE.T as a type; a code of 15 counts as i32 here, and no instruction that reads a type accepts it (R27). -/
def tyOf (m : Half) : Ty := (tyOfCode (modeT m)).getD .i32

/-- The width w of a type in bits (R38, R40, R41). -/
def tyBits : Ty → Nat
  | .i32 | .n32 | .f32 => 32
  | .i64 | .n64 | .f64 => 64
  | .f16 | .bf16 | .i16 | .n16 => 16
  | .e4m3 | .e5m2 | .i8 | .n8 => 8
  | .e2m1 => 4

/-- The signed integer types (R80). -/
def tySigned : Ty → Bool
  | .i32 | .i64 | .i16 | .i8 => true | _ => false

/-- Int of R80. -/
def tyInt : Ty → Bool
  | .i32 | .n32 | .i64 | .n64 | .i16 | .n16 | .i8 | .n8 => true | _ => false

/-- Fl of R100: f32, f64, f16 and bf16. -/
def tyFl : Ty → Bool
  | .f32 | .f64 | .f16 | .bf16 => true | _ => false

/-- A 64-bit type, whose elements occupy register pairs (R26). -/
def tyWide (t : Ty) : Bool := tyBits t == 64

/-! ### Operand uses -/

/-- How a word uses an operand. -/
inductive Role where
  | src | dst | both
  deriving DecidableEq, Repr

/-- The kinds of operand a position admits (R26, R30). -/
inductive Kind where
  /-- Any code; a special only as a source. -/
  | reg
  /-- A scalar code. -/
  | sc
  /-- A scalar code, %zero or %one (R202). -/
  | scz
  /-- A vector code. -/
  | vec
  /-- A uniform source (R26). -/
  | uni
  deriving DecidableEq, Repr

/-- How many registers an operand names (R26, R80, R168). -/
inductive Width where
  /-- One register, of either parity. -/
  | one
  /-- An even pair under a 64-bit MODE.T, else one register. -/
  | byT
  /-- As `byT`, for the source type of a CVT. -/
  | byType (t : BitVec 4)
  /-- An even pair. -/
  | pair
  /-- The data of a load or store of width code W (R168). -/
  | mem (w : BitVec 3)
  /-- The first of n consecutive registers. -/
  | run (n : Nat)
  deriving DecidableEq, Repr

/-- One operand of a word. -/
structure Use where
  reg : Reg
  role : Role
  kind : Kind
  width : Width
  deriving DecidableEq, Repr

/-- How many registers the operand names under type T, and of what number its first must be a multiple (R26, R168). -/
def widthOf (w : Width) (t : Ty) : Nat × Nat :=
  match w with
  | .one => (1, 1)
  | .byT => if tyWide t then (2, 2) else (1, 1)
  | .byType c => if ((tyOfCode c).map tyWide).getD false then (2, 2) else (1, 1)
  | .pair => (2, 2)
  | .mem w => match w.toNat with
    | 3 => (2, 2)
    | 4 => (4, 4)
    | _ => (1, 1)
  | .run n => (n, 1)

/-- The registers an operand names under type T, first to last. A special names only itself (R26). -/
def useRegs (u : Use) (t : Ty) : List Reg :=
  match u.reg with
  | .sp _ => [u.reg]
  | r => (List.range (widthOf u.width t).1).filterMap (regPlus r)

/-- A source, a destination and an operand that is both, in the pipes of R79. -/
def srcR (r : Reg) (w : Width := .byT) : Use := ⟨r, .src, .reg, w⟩
/-- See `srcR`. -/
def dstR (r : Reg) (w : Width := .byT) : Use := ⟨r, .dst, .reg, w⟩
/-- See `srcR`. -/
def bothR (r : Reg) (w : Width := .byT) : Use := ⟨r, .both, .reg, w⟩
/-- A scalar source, `n` registers wide. -/
def srcS (r : Reg) (n : Nat := 1) : Use := ⟨r, .src, .sc, .run n⟩
/-- A scalar destination, `n` registers wide. -/
def dstS (r : Reg) (n : Nat := 1) : Use := ⟨r, .dst, .sc, .run n⟩
/-- An even scalar pair. -/
def pairS (r : Reg) : Use := ⟨r, .src, .sc, .pair⟩
/-- A uniform source. -/
def srcU (r : Reg) (w : Width := .one) : Use := ⟨r, .src, .uni, w⟩

/-- The operands of each word (R30 and the entry of each instruction), in the order A, B, D of R67 where an instruction
reads D; the steps that are not words have none. -/
def usesOf : Instr → List Use
  | .callx a => [pairS a, dstS (sreg 31)]
  | .brx a => [pairS a]
  | .call _ => [dstS (sreg 31)]
  | .ret => [srcS (sreg 31)]
  | .loop d _ => [⟨d, .both, .sc, .one⟩]
  | .iadd d a b | .isub d a b | .imul d a b | .imulh d a b | .imin d a b | .imax d a b
  | .and d a b | .or d a b | .xor d a b
  | .fadd d a b | .fsub d a b | .fmul d a b | .fmin d a b | .fmax d a b
  | .sel d a b => [srcR a, srcR b, dstR d]
  | .imad d a b | .fma d a b => [srcR a, srcR b, bothR d]
  | .iabs d a | .ineg d a | .not d a | .brev d a
  | .fabs d a | .fneg d a | .rcp d a | .rsq d a | .sqrt d a | .ex2 d a | .lg2 d a | .sin d a | .cos d a
  | .frnd d a | .mov d a => [srcR a, dstR d]
  | .iaddi d _ => [bothR d]
  | .movi d _ => [dstR d]
  | .movhi d _ => [bothR d .one]
  | .shl d a b | .shr d a b | .sar d a b | .rol d a b | .bfe d a b => [srcR a, srcR b .one, dstR d]
  | .bfi d a b => [srcR a, srcR b .one, bothR d]
  | .prmt d a b => [srcR a .one, srcR b .one, bothR d .one]
  | .popc d a | .clz d a => [srcR a, dstR d .one]
  | .cvt d a t => [srcR a (.byType t), dstR d]
  | .cmp _ _ a b => [srcR a, srcR b]
  | .pk2 d a b | .bscl d a b => [srcR a .one, srcR b .one, dstR d .one]
  | .pk4 d a b => [srcR a .pair, srcR b .pair, dstR d .one]
  | .upk d a _ => [srcR a .one, dstR d .one]
  | .shfl d a b | .shflu d a b | .shfld d a b | .shflx d a b => [srcR a, srcR b .one, ⟨d, .dst, .vec, .byT⟩]
  | .rdlane d a b => [⟨a, .src, .vec, .byT⟩, srcU b, dstR d]
  | .wrlane d a b => [srcU a .byT, srcU b, ⟨d, .dst, .vec, .byT⟩]
  | .vote d _ _ => [dstS d]
  | .redadd d a | .redmin d a | .redmax d a => [⟨a, .src, .vec, .byT⟩, dstR d]
  | .scan d a _ _ => [⟨a, .src, .vec, .byT⟩, ⟨d, .dst, .vec, .byT⟩]
  | .pmovToScalar d _ => [dstS d]
  | .pmovToPredicate _ a => [srcS a]
  | .liw d _ | .ldk d _ | .mfs d _ | .mfsv d _ => [dstR d .one]
  | .mts d _ | .mtsv d _ => [srcU d]
  | .setf a => [srcS a]
  | .tagof d a => [⟨a, .src, .vec, .one⟩, dstR d .one]
  | .vsdrop d => [⟨d, .dst, .vec, .one⟩]
  | .xlat _ a b => [pairS a, srcS b]
  | .graise d a | .gear d a => [srcS a, dstS d]
  | .ldg d o _ w _ | .ldgk d o _ w _ | .lds d o w | .ldb d o _ w => [srcR o .one, dstR d (.mem w)]
  | .stg d o _ w _ | .sts d o w | .stb d o _ w => [srcR o .one, srcR d (.mem w)]
  | .prf o _ _ => [srcR o .one]
  | .atomg d o _ _ _ | .atoms d o _ => [srcR o .one, bothR d .one]
  | .atomg64 d o _ _ _ | .casg d o _ _ | .cass d o => [srcR o .one, bothR d .pair]
  | .arrive d _ | .rawait d _ | .lstep d _ => [dstS d]
  | .waitc _ a | .gang a => [⟨a, .src, .scz, .one⟩]
  | .waitb _ a | .rpost a _ => [srcS a]
  | .testb d a _ => [srcS a, dstS d]
  | .rinit _ a => [srcS a 3]
  | .mma a | .mmaz a | .mmas a | .epi a => [srcS a 4]
  | .rowsum a | .cmpr a | .qacc a => [srcS a 3]
  | .mtrn a => [srcS a 2]
  | .cbld a | .clrt a => [srcS a]
  | .ldef a _ => [srcS a 4]
  | .lpush a _ | .lread a _ | .lstepw a _ => [srcS a]
  | .lrung d a _ => [srcS a 2, dstS d]
  | .lsetr a _ => [srcS a 2]
  | .cpy d a _ | .cpy2 d a _ | .cpyx d a _ | .cpym d a _ | .cpye d a _ | .cpyg d a _ | .redx d a _ =>
    [srcS a 6, dstS d]
  | .cwait d a | .cstat d a => [srcS a, dstS d]
  | .ccan a | .rfill a | .cancel a | .haltb a | .resumeb a => [srcS a]
  | .fltq d => [dstS d 4]
  | .mapft d a => [pairS a, dstS d]
  | .tlbinv a b => [pairS a, srcS b]
  | .errinj a => [srcS a 2]
  | _ => []

/-- The operands a word reads. -/
def sourcesOf (i : Instr) : List Use := (usesOf i).filter fun u => u.role != .dst

/-- The operands a word writes. -/
def destsOf (i : Instr) : List Use := (usesOf i).filter fun u => u.role != .src

/-- The destination register of a word that has one; none for the rest. -/
def destOf (i : Instr) : Option Reg := ((destsOf i).head?).map (·.reg)

/-! ### The checks of R26 and R34 on the fields of a word -/

/-- R26 on one operand, whatever MODE.T and the wave's allocation are. -/
def useOk (u : Use) : Bool :=
  let kindOk := match u.kind with
    | .reg => true
    | .sc => isScalar u.reg
    | .scz => isScalar u.reg || u.reg == .sp .zero || u.reg == .sp .one
    | .vec => isVec u.reg
    | .uni => isUniform u.reg
  let roleOk := u.role == .src || !isSpecial u.reg
  let widthOk := match u.width with
    | .pair => isSpecial u.reg || regNum u.reg % 2 == 0
    | .mem w => isSpecial u.reg || regNum u.reg % (widthOf (.mem w) .i32).2 == 0
    | .run n => regNum u.reg + n ≤ 32
    | _ => true
  kindOk && roleOk && widthOk

/-- The six opcodes exempt from the uniform-source rule, and PMOV (R26). -/
def uniformExempt : Instr → Bool
  | .rdlane .. | .vote .. | .redadd .. | .redmin .. | .redmax .. | .tagof .. | .pmovToScalar .. => true
  | _ => false

/-- The rule of R26 on scalar destinations: their sources are uniform. -/
def uniformOk (i : Instr) : Bool :=
  uniformExempt i || !(destsOf i).any (fun u => isScalar u.reg) || (sourcesOf i).all (fun u => isUniform u.reg)

/-- The indices of R31 that MFS and MTS reach. -/
def userIndex (i : BitVec 16) : Bool := i.toNat ≤ 0x1D

/-- The indices of R31 that MFSV and MTSV reach. -/
def superIndex (i : BitVec 16) : Bool := i.toNat ≤ 0x1D || (0x100 ≤ i.toNat && i.toNat ≤ 0x109)

/-- The FLAGS conditions of R223: CMPX needs CHK, and the scope is at most 4. -/
def copyFlagsOk (f : CopyFlags) : Bool := f.scope.toNat ≤ 4 && (!f.cmpx || f.chk)

/-- The reserved codes of R30 and R223 in the fields that are not operand codes. -/
def fieldsOk : Instr → Bool
  | .cvt _ _ t => t.toNat < 15
  | .cmp c _ _ _ => c.toNat < 8
  | .vote _ _ k => k.toNat < 3
  | .scan _ _ _ o => o.toNat < 3
  | .mode i => (i.extractLsb' 12 4).toNat = 0 && (modeT i).toNat < 15
  | .mfs _ i | .mts _ i => userIndex i
  | .mfsv _ i | .mtsv _ i => superIndex i
  | .ldg _ _ _ w _ | .stg _ _ _ w _ | .ldgk _ _ _ w _ | .lds _ _ w | .sts _ _ w => w.toNat ≤ 4
  | .ldb _ _ x w | .stb _ _ x w => x.toNat < 2 && w.toNat ≤ 4
  | .atomg _ _ _ _ h => h.toNat < 3
  | .atomg64 _ _ _ w h => w.toNat < 7 && h.toNat < 3
  | .casg _ _ _ h => h.toNat < 3
  | .fence p s c => p.toNat ≠ 0 && s.toNat ≠ 0 && c.toNat ≤ 4
  | .waitc p _ => p.toNat < 6
  | .cpy _ _ f | .cpy2 _ _ f | .cpyx _ _ f | .cpye _ _ f => copyFlagsOk f
  | .cpyg _ _ f => copyFlagsOk f && !f.ring
  | .cpym _ _ f => copyFlagsOk f && f.ring && f.scope.toNat ≠ 0
  | .redx _ _ f => copyFlagsOk f && !f.chk && !f.cmpx && !f.ring && f.scope.toNat = 4
  | _ => true

/-- Every check of R34's third step that depends on the word alone. -/
def staticOk (i : Instr) : Bool := fieldsOk i && (usesOf i).all useOk && uniformOk i

/-! ### The checks that depend on MODE.T, the allocation and the agent -/

/-- The integer types of an atomic operation code, and f32 where R183 lists it. -/
def atomTypeOk (op : BitVec 3) (t : Ty) : Bool :=
  match op.toNat with
  | 1 | 2 => t = .i32 || t = .n32 || t = .f32
  | 7 => t = .f32
  | _ => t = .i32 || t = .n32

/-- A type of the packed instructions (R109, R110). -/
def tyPack2 (t : Ty) : Bool := t = .f16 || t = .bf16 || t = .i16 || t = .n16
/-- See `tyPack2`. -/
def tyPack4 (t : Ty) : Bool := t = .e4m3 || t = .e5m2 || t = .i8 || t = .n8 || t = .e2m1

/-- The MODE.T values a word accepts (its entry; 0 to 14 where the entry gives no narrower set). -/
def acceptsTy (i : Instr) (t : Ty) : Bool :=
  match i with
  | .iadd .. | .isub .. | .imul .. | .imulh .. | .imad .. | .imin .. | .imax .. | .iaddi .. | .movi ..
  | .and .. | .or .. | .xor .. | .not .. | .brev .. | .shl .. | .shr .. | .sar .. | .rol .. | .popc .. | .clz ..
  | .bfe .. | .bfi .. => tyInt t
  | .iabs .. | .ineg .. => tySigned t
  | .movhi .. | .prmt .. => t = .i32 || t = .n32
  | .fadd .. | .fsub .. | .fmul .. | .fma .. | .fmin .. | .fmax .. | .fabs .. | .fneg .. | .rcp .. | .rsq ..
  | .sqrt .. | .frnd .. => tyFl t
  | .ex2 .. | .lg2 .. | .sin .. | .cos .. => t = .f32 || t = .f16 || t = .bf16
  | .cmp .. | .redadd .. | .redmin .. | .redmax .. | .scan .. => tyInt t || tyFl t
  | .pk2 .. => tyPack2 t
  | .pk4 .. => tyPack4 t
  | .upk _ _ p => (tyPack2 t && p.toNat < 2) || tyPack4 t
  | .bscl .. => t = .e4m3 || t = .e5m2 || t = .e2m1
  | .atomg _ _ _ w _ | .atoms _ _ w => atomTypeOk w t
  | .atomg64 .. => t = .i64 || t = .n64
  | .mtrn .. => t ≠ .e2m1
  | _ => true

/-- MODE and SETF read no MODE.T, so they alone accept the code 15 (R94). -/
def acceptsT (i : Instr) (t : BitVec 4) : Bool :=
  match i with
  | .mode .. | .setf .. => true
  | _ => match tyOfCode t with
    | some t => acceptsTy i t
    | none => false

/-- R26 on one operand under MODE.T and an allocation of `regs` vector registers. -/
def useFits (u : Use) (t : Ty) (regs : Nat) : Bool :=
  isSpecial u.reg ||
  let (n, align) := widthOf u.width t
  regNum u.reg % align == 0 &&
  (if isVec u.reg then regNum u.reg + n ≤ regs else regNum u.reg + n ≤ 32)

/-- The checks of R34's third step that read the slot's MODE and the wave's allocation. -/
def operandsFit (i : Instr) (m : Half) (regs : Nat) : Bool :=
  acceptsT i (modeT m) && (usesOf i).all fun u => useFits u (tyOf m) regs

/-- A CCP takes scalar codes, %zero and %one (R37). -/
def ccpOperand : Reg → Bool
  | .s _ | .sp .zero | .sp .one => true
  | _ => false

/-- The opcodes a CCP accepts (R220). ERRINJ is accepted where TESTEN enables it. -/
def ccpOpcode (i : Instr) (t : Ty) : Bool :=
  match i with
  | .nop | .bra .. | .brp .. | .call .. | .callx .. | .ret | .exit | .loop .. | .brx .. | .sleep .. | .bkpt .. | .trap ..
  | .iadd .. | .isub .. | .imul .. | .imulh .. | .imad .. | .imin .. | .imax .. | .iabs .. | .ineg ..
  | .iaddi .. | .movi .. | .movhi ..
  | .and .. | .or .. | .xor .. | .not .. | .shl .. | .shr .. | .sar .. | .rol .. | .popc .. | .clz .. | .brev ..
  | .bfe .. | .bfi .. | .prmt .. | .sel .. | .pmovToScalar .. | .pmovToPredicate ..
  | .mov .. | .liw .. | .ldk .. | .mode .. | .mfs .. | .mts .. | .xlat ..
  | .ldg .. | .stg .. | .ldgk .. | .lds .. | .sts .. | .prf .. | .atomg .. | .atomg64 .. | .casg .. | .atoms .. | .cass ..
  | .fence .. | .waitb .. | .testb .. | .rawait .. | .rrel .. | .rinit ..
  | .cpy .. | .cpy2 .. | .cpyx .. | .cpym .. | .cpye .. | .cpyg .. | .redx .. | .cwait .. | .cstat .. | .ccan .. | .rfill ..
  | .errinj .. => true
  | .cmp .. => tyInt t
  | .ldb _ _ x _ | .stb _ _ x _ => x.toNat = 0
  | _ => false

/-! ### Opcodes and units -/

/-- The opcode of each word (R30); none for the steps that are not words, and for `illegalInstruction`. -/
def opcodeOf : Instr → Option Nat
  | .nop => some 0x01 | .bra .. => some 0x02 | .brp .. => some 0x03 | .joinat .. => some 0x04
  | .call .. => some 0x05 | .callx .. => some 0x06 | .ret => some 0x07 | .exit => some 0x08
  | .loop .. => some 0x09 | .brx .. => some 0x0A | .yield => some 0x0B | .sleep .. => some 0x0C
  | .bkpt .. => some 0x0D | .trap .. => some 0x0E | .iadd .. => some 0x10 | .isub .. => some 0x11
  | .imul .. => some 0x12 | .imulh .. => some 0x13 | .imad .. => some 0x14 | .imin .. => some 0x15
  | .imax .. => some 0x16 | .iabs .. => some 0x17 | .ineg .. => some 0x18 | .iaddi .. => some 0x19
  | .movi .. => some 0x1A | .movhi .. => some 0x1B | .and .. => some 0x20 | .or .. => some 0x21
  | .xor .. => some 0x22 | .not .. => some 0x23 | .shl .. => some 0x24 | .shr .. => some 0x25
  | .sar .. => some 0x26 | .rol .. => some 0x27 | .popc .. => some 0x28 | .clz .. => some 0x29
  | .brev .. => some 0x2A | .bfe .. => some 0x2B | .bfi .. => some 0x2C | .prmt .. => some 0x2D
  | .fadd .. => some 0x30 | .fsub .. => some 0x31 | .fmul .. => some 0x32 | .fma .. => some 0x33
  | .fmin .. => some 0x34 | .fmax .. => some 0x35 | .fabs .. => some 0x36 | .fneg .. => some 0x37
  | .rcp .. => some 0x38 | .rsq .. => some 0x39 | .sqrt .. => some 0x3A | .ex2 .. => some 0x3B
  | .lg2 .. => some 0x3C | .sin .. => some 0x3D | .cos .. => some 0x3E | .frnd .. => some 0x3F
  | .cvt .. => some 0x40 | .cmp .. => some 0x41 | .sel .. => some 0x42 | .pk2 .. => some 0x43
  | .pk4 .. => some 0x44 | .upk .. => some 0x45 | .bscl .. => some 0x46 | .shfl .. => some 0x50
  | .shflu .. => some 0x51 | .shfld .. => some 0x52 | .shflx .. => some 0x53 | .rdlane .. => some 0x54
  | .wrlane .. => some 0x55 | .vote .. => some 0x56 | .redadd .. => some 0x57 | .redmin .. => some 0x58
  | .redmax .. => some 0x59 | .scan .. => some 0x5A | .pmovToScalar .. => some 0x5B
  | .pmovToPredicate .. => some 0x5B | .mov .. => some 0x60 | .liw .. => some 0x61 | .ldk .. => some 0x62
  | .mode .. => some 0x63 | .setf .. => some 0x64 | .mfs .. => some 0x65 | .mts .. => some 0x66
  | .tagof .. => some 0x67 | .vsdrop .. => some 0x68 | .xlat .. => some 0x69 | .graise .. => some 0x6A
  | .phase .. => some 0x6B | .gear .. => some 0x6C | .rgn => some 0x6D | .rgnend => some 0x6E
  | .ldg .. => some 0x70 | .stg .. => some 0x71 | .ldgk .. => some 0x72 | .lds .. => some 0x73
  | .sts .. => some 0x74 | .ldb .. => some 0x75 | .stb .. => some 0x76 | .prf .. => some 0x77
  | .atomg .. => some 0x78 | .atomg64 .. => some 0x79 | .casg .. => some 0x7A | .atoms .. => some 0x7B
  | .cass .. => some 0x7C | .fence .. => some 0x80 | .bar .. => some 0x81 | .arrive .. => some 0x82
  | .waitb .. => some 0x83 | .testb .. => some 0x84 | .waitc .. => some 0x85 | .gang .. => some 0x86
  | .rawait .. => some 0x87 | .rrel .. => some 0x88 | .rpost .. => some 0x89 | .rinit .. => some 0x8A
  | .mma .. => some 0x90 | .mmaz .. => some 0x91 | .mmas .. => some 0x92 | .epi .. => some 0x93
  | .rowsum .. => some 0x94 | .cmpr .. => some 0x95 | .cbld .. => some 0x96 | .qacc .. => some 0x97
  | .clrt .. => some 0x98 | .mtrn .. => some 0x99 | .ldef .. => some 0xA0 | .lpush .. => some 0xA1
  | .lread .. => some 0xA2 | .lrung .. => some 0xA3 | .lsetr .. => some 0xA4 | .lstep .. => some 0xA5
  | .lstepw .. => some 0xA6 | .lclr .. => some 0xA7 | .cpy .. => some 0xB0 | .cpy2 .. => some 0xB1
  | .cpyx .. => some 0xB2 | .cpym .. => some 0xB3 | .cpye .. => some 0xB4 | .cpyg .. => some 0xB5
  | .redx .. => some 0xB6 | .cwait .. => some 0xB7 | .cstat .. => some 0xB8 | .ccan .. => some 0xB9
  | .rfill .. => some 0xBA | .rft => some 0xC0 | .fltq .. => some 0xC1 | .mapft .. => some 0xC2
  | .replay => some 0xC3 | .cancel .. => some 0xC4 | .haltb .. => some 0xC5 | .drain => some 0xC6
  | .tlbinv .. => some 0xC7 | .mfsv .. => some 0xC8 | .mtsv .. => some 0xC9 | .errinj .. => some 0xCA
  | .vsflush => some 0xCB | .resumeb .. => some 0xCC
  | _ => none

/-- The copy opcodes, which only a CCP may issue (R34). -/
def isCopyOpcode (op : Nat) : Bool := 0xB0 ≤ op && op ≤ 0xBA

/-- The system opcodes, privileged but for RFT at DEPTH 1 (R34). -/
def isSystemOpcode (op : Nat) : Bool := 0xC0 ≤ op && op ≤ 0xCC

/-- The opcodes that R30 lists (R34). -/
def isListedOpcode (op : Nat) : Bool :=
  (0x01 ≤ op && op ≤ 0x0E) || (0x10 ≤ op && op ≤ 0x1B) || (0x20 ≤ op && op ≤ 0x2D) || (0x30 ≤ op && op ≤ 0x46) ||
  (0x50 ≤ op && op ≤ 0x5B) || (0x60 ≤ op && op ≤ 0x6E) || (0x70 ≤ op && op ≤ 0x7C) || (0x80 ≤ op && op ≤ 0x8A) ||
  (0x90 ≤ op && op ≤ 0x99) || (0xA0 ≤ op && op ≤ 0xA7) || isCopyOpcode op || isSystemOpcode op

/-- The checker unit of a word (R358 UNIT codes), under element type t; 0 where the word computes nothing that a checker
of R357 covers. The engines name their own unit (9 to 11). An arithmetic word with a scalar destination runs in the
scalar pipe (R79), unit 8, and so does a SEL with one (R98); reductions and scans of floats are the float adder's. R358 does not
name CMP, FABS and FNEG: CMP counts as an add of its type, FABS and FNEG as the float adder's (DESIGN CHOICE, log 16). -/
def unitOf (i : Instr) (t : Ty) : Nat :=
  let pipe (u : Nat) := if (destOf i).any isScalar then 8 else u
  match i with
  | .imul .. | .imulh .. | .imad .. => pipe 2
  | .and .. | .or .. | .xor .. | .not .. | .shl .. | .shr .. | .sar .. | .rol .. | .popc .. | .clz .. | .brev ..
  | .bfe .. | .bfi .. | .prmt .. => pipe 3
  | .iadd .. | .isub .. | .imin .. | .imax .. | .iabs .. | .ineg .. | .iaddi .. | .movi .. | .movhi .. => pipe 1
  | .loop .. | .bra .. | .brp .. | .joinat .. | .call .. => 1
  | .cmp .. => if tyInt t then 1 else 4
  | .sel .. => pipe 0
  | .fadd .. | .fsub .. | .fmin .. | .fmax .. | .fabs .. | .fneg .. | .frnd .. | .cvt ..
  | .pk2 .. | .pk4 .. | .upk .. | .bscl .. => pipe 4
  | .fmul .. | .fma .. => pipe 5
  | .rcp .. | .rsq .. | .sqrt .. | .ex2 .. | .lg2 .. | .sin .. | .cos .. => pipe 6
  | .shfl .. | .shflu .. | .shfld .. | .shflx .. | .rdlane .. | .wrlane .. | .vote ..
  | .pmovToScalar .. | .pmovToPredicate .. => 7
  | .redadd .. | .redmin .. | .redmax .. | .scan .. => if tyFl t then 4 else 7
  | .ldg .. | .stg .. | .ldgk .. | .lds .. | .sts .. | .ldb .. | .stb .. | .prf .. | .atomg .. | .atomg64 .. | .casg ..
  | .atoms .. | .cass .. => 12
  | _ => 0

end Sys2Proof.Machine
end

