-- ==== Sys2Proof/Machine/State.lean ====
section
/-! DEFINITION. The state of one BW-9400 module as plain data: every piece of state the spec gives the machine, from a
slot's PC to the module's boot registers, each under the rule that names it. A map is a list of pairs with rising keys
(`Machine/Map.lean`); what an unlisted key stands for is said at its field. Registers and tables the spec resets are at
that value in the `fresh` and `reset` definitions below; where it gives none the value is a log entry's. -/

namespace Sys2Proof.Machine
open Sys2Proof

/-- The causes of R33. -/
inductive Cause where
  | illegal | privileged | address | page | misaligned | pipeline | uncorrectable | gang | deadlock
  | orderDependent | trap | breakpoint | sealedWrite | storePoison | nested | format
  deriving DecidableEq, Repr

/-- A trap as it waits to be entered: what EXC, EXCMASK, SYND, UNIT, TILEXY and FAULTVA:FAULTVAH will hold (R255), and the
faulting word's PC and issue number (R253). -/
structure TrapInfo where
  cause : Cause
  lanes : Word
  synd : Word := 0
  unit : Word := 0
  tile : Word := 0
  va : Nat := 0
  pc : Word
  seq : Nat
  deriving DecidableEq, Repr

/-- What holds a slot that is not ready (R148, R149, R156). -/
inductive Hold where
  | free
  /-- A source of the next word is pending (R36). -/
  | operand
  /-- A unit or queue that the next word needs is full (R148, R179, R209, R227). -/
  | queue
  /-- A page walk the next word waits for (R175). -/
  | walk
  | bar (n : Nat)
  | latch
  | rawait (ring : Nat)
  /-- WAITB of barrier `n` for the handle `h` (R208). -/
  | waitb (n h : Nat)
  | arrive (n : Nat)
  | waitc (path : Nat)
  /-- Asleep for at least `cycles` core cycles (R161). -/
  | sleep (cycles : Nat)
  /-- A FENCE of issue number `seq` with its PRED and SUCC sets (R196). -/
  | fence (seq pred succ : Nat)
  | gear
  /-- RGN or RGNEND waits for paths 0, 2, 3 and 5 (R361). -/
  | region
  | drain
  /-- CWAIT, with the commands it covers (R237). -/
  | cwait (cmds : List Nat)
  /-- A ring claim that waits for a slot, or RINIT for its ring (R213, R214, R239). -/
  | claim
  /-- MFS or MTS of FLAGS waits for older flags (R49). -/
  | flags
  /-- FLTQ waits for a record that is due (R260). -/
  | records
  /-- REPLAY, TLBINV or VSFLUSH waits (R263, R274, R275). -/
  | system
  /-- The word issued and allocated value-store entry `e`; the slot, already at the next word, waits for its sources (R69). -/
  | sources (e : Nat)
  deriving DecidableEq, Repr

/-- One PC slot of a wave, or the one slot of a CCP thread (R147, R219). -/
structure Slot where
  pc : Word
  mask : Word
  mode : Half
  fmt : Word
  /-- s0 to s31; an unlisted scalar is 0. -/
  sregs : List (Nat × Word)
  /-- The poison bit of each scalar (R359). -/
  spois : Word
  jpc : Word
  /-- The shadow that CYCLEH returns (R31). -/
  cycleh : Word
  hold : Hold
  /-- The trap that parks this slot, if one does (R252). -/
  park : Option TrapInfo
  /-- Words issued since the wave's oldest parking (R253), and whether the limit of R253 has stopped the slot. -/
  since : Nat
  stopped : Bool
  /-- The PC of the word the slot issued last: where a fetch fault is raised (R23, R146). -/
  last : Word
  deriving DecidableEq, Repr

/-- A translation register (R169). -/
structure TReg where
  base : Nat
  frame : Nat
  r : Bool
  w : Bool
  sealed : Bool
  tier : Bool
  limit : Nat
  /-- The size exponent of the leaf that `frame` was taken from (R170, R171). -/
  log : Nat
  /-- XLAT's walk has not ended (R170). -/
  busy : Bool
  deriving DecidableEq, Repr

/-- The trap registers of R31 below 0x01D that an entry writes (R255). -/
structure ExcRegs where
  exc : Word
  excmask : Word
  synd : Word
  unit : Word
  tilexy : Word
  faultva : Word
  faultvah : Word
  deriving DecidableEq, Repr

/-- The split both slots of a wave belong to (R147, R151). -/
structure Frame where
  j : Word
  mode : Half
  fmt : Word
  deriving DecidableEq, Repr

/-- A slot whose stack entry has been spilled, beside its entry in memory (R153): the slot as it was spilled, with what has happened to
it since in its hold, trap and PC, the PC that was spilled, and the lanes that have ended since (R267). -/
structure Buried where
  slot : Slot
  spilledPc : Word
  gone : Word
  deriving DecidableEq, Repr

/-- Where a slot of some paths stands: one of the two slots, an on-chip stack entry from the newest, or a spilled one from the newest
(R147, R153). -/
inductive Place where
  | slot (n : Bool)
  | stack (i : Nat)
  | spilled (i : Nat)
  deriving DecidableEq, Repr

/-- A parked path on the reconvergence stack: a slot with its frame and number (R151, R153). -/
structure StackEntry where
  slot : Slot
  number : Bool
  frame : Frame
  deriving DecidableEq, Repr

/-- The slots and stack of a wave, as a trap suspends them (R255). -/
structure Paths where
  slot0 : Slot
  slot1 : Slot
  frame : Option Frame
  /-- On-chip entries, newest first: at most two (R153). -/
  stack : List StackEntry
  /-- The spill pointer, and the slots of the entries below it, newest first (R153, R154). -/
  spillPtr : Nat
  buried : List Buried
  deriving DecidableEq, Repr

/-- What a trap entry saved (R255): the suspended paths, which slot was parked, the trap, whether the handler runs in
supervisor mode, and t6 and t7 of a supervisor entry. -/
structure Saved where
  paths : Paths
  /-- Where the slot that the trap parked stands; for a page fault none. -/
  parked : Option Place
  info : TrapInfo
  supervisor : Bool
  t6 : TReg
  t7 : TReg
  /-- Lanes that EXIT has ended in a user handler (R267). -/
  exited : Word
  deriving DecidableEq, Repr

/-- The spaces an access reaches (R164): global memory, or a region of the block by the buffer codes of R121. -/
inductive Space where
  | global | ab | cb | wb | sm
  deriving DecidableEq, Repr

/-- One lane's access once translated: the lane, its first byte's virtual address (or buffer offset) and the physical
parts (address, length) it reaches, in ascending order (R167, R186). Remote parts carry the end-to-end number of the
message that asks for them (R347). -/
structure LaneAccess where
  lane : Nat
  va : Nat
  parts : List (Nat × Nat)
  remote : List (Nat × Nat)
  deriving DecidableEq, Repr

/-- A load in flight (R178, R179). -/
structure LoadOp where
  seq : Nat
  space : Space
  dest : Reg
  /-- Lanes whose offset was poisoned: their data is poisoned (R359). -/
  tainted : Word
  /-- The slot whose scalar file a scalar destination belongs to. -/
  slot : Bool
  size : Nat
  /-- Bits above the loaded bytes are sign-extended (R168). -/
  signed : Bool
  accesses : List LaneAccess
  /-- Lanes of this load that wait in the operand log (R254). -/
  logged : Word
  /-- The lanes that the one access of a scalar destination stands for; 0 for any other load. -/
  shared : Word
  /-- It counts on path 0 (R209). -/
  counted : Bool
  /-- A line it reads was not in L1 as it issued (R149, R326), and the cache hint H (R178). -/
  missed : Bool
  hint : Nat
  /-- The value-store entries an LDGK miss fills, by register; none for a register that was a hit. Empty for any other
  load (R180). -/
  entries : List (Option Nat)
  /-- PC and depth of the word, for a trap reported later (R351). -/
  pc : Word
  depth : Nat
  /-- Its place among the wave's accesses: the issue number, or a later one once lanes of it were replayed (R264). -/
  order : Nat
  deriving DecidableEq, Repr

/-- One lane's store data: the access and its bytes. -/
structure LaneStore where
  access : LaneAccess
  bytes : List Byte
  poison : Bool
  deriving DecidableEq, Repr

/-- An atomic of the store queue (R183, R184). -/
structure AtomicOp where
  op : BitVec 3
  cas : Bool
  ty : Nat
  size : Nat
  dest : Reg
  slot : Bool
  scope : Nat
  deriving DecidableEq, Repr

/-- An entry of the store queue (R179). -/
structure StoreOp where
  seq : Nat
  space : Space
  lanes : List LaneStore
  /-- Present for an atomic. -/
  atomic : Option AtomicOp
  /-- Lanes of this store that wait in the operand log (R193). -/
  waiting : Word
  /-- The lanes that the one access of a scalar stands for; 0 where each lane has its own. -/
  shared : Word
  /-- A spill write, which counts on no path (R154). -/
  spill : Bool
  /-- The issue number of the first load that its bytes have been returned to while it is queued (R178, R196). -/
  returned : Option Nat
  pc : Word
  depth : Nat
  deriving DecidableEq, Repr

/-- A post queued by RPOST (R217). -/
structure PostOp where
  seq : Nat
  ring : Nat
  word : Word
  deriving DecidableEq, Repr

/-- The kinds of access of a fault record (R260). -/
inductive AccessKind where
  | load | store | atomic | spillWrite | spillRead
  deriving DecidableEq, Repr

/-- One faulted lane of a log entry (R254): its offset, the lowest faulting byte's address on each page or block that faults with the
size exponent of that (R256), and its store or atomic operand bytes. -/
structure LogLane where
  lane : Nat
  offset : Nat
  vas : List (Nat × Nat)
  bytes : List Byte
  poison : Bool
  deriving DecidableEq, Repr

/-- An entry of the operand log (R254). `word` is the instruction logged, and `queued` the pages and blocks whose fault records have
entered the core's fault queue (R256). -/
structure LogEntry where
  number : Nat
  seq : Nat
  pc : Word
  word : Instr
  kind : AccessKind
  mode : Half
  slot : Bool
  depth : Nat
  base : Nat
  lanes : List LogLane
  /-- Lanes that one access of a scalar destination or data stands for; none where each lane has its own (R178). -/
  shared : Word
  queued : List (Nat × Nat)
  deriving DecidableEq, Repr

/-- A trap that waits for its depth: of a matrix or ladder operation, a replayed or cancelled lane, or a failed remote
access (R129, R243, R263, R265, R351), with the lanes it parks. -/
structure LateTrap where
  info : TrapInfo
  depth : Nat
  /-- The lanes are parked at the word the slot that carries them issues next (R351), not at `info.pc`. -/
  atNext : Bool
  deriving DecidableEq, Repr

/-- An armed error injection (R364). -/
inductive Arm where
  | residue (unit : Nat)
  | ecc (space : Space) (offset : Nat) (unc : Bool)
  | fabric (port : Nat)
  | copy (bit : Nat) (ordinal : Nat)
  deriving DecidableEq, Repr

/-- A copy command as issued (R223 to R227): its opcode, flags, the six descriptor scalars, the translation registers it
names and the ring slots it claimed as (core, block slot, ring, position), how far its beats have come, and its status once
it has completed. -/
structure Command where
  seq : Nat
  tag : Nat
  /-- The use of its tag it belongs to (R237). -/
  use : Nat
  opcode : Nat
  flags : CopyFlags
  desc : List Word
  d : Reg
  source : TReg
  dest : TReg
  claims : List (Nat × Nat × Nat × Nat)
  /-- Receivers of a CPYM whose acknowledgement has not come (R233). -/
  acks : List (Nat × Nat × Nat × Nat)
  /-- The data has been written; only acknowledgements are due (R233). -/
  moved : Bool
  /-- Beats written, the running checksum from its seed on, and whether a poisoned sector was carried (R228, R231). -/
  beats : Nat
  check : Word
  pois : Bool
  /-- Bytes whose words the checksum has not taken in yet, with their destination offsets (R231). -/
  unsummed : List (Nat × Byte)
  /-- CCAN stops the command once the beat in hand has ended (R238). -/
  cancelling : Bool
  /-- Messages of the beat in hand, the first byte of the beat that each carries, whether they carry its write, and the bytes it
  writes with their poison (R232). -/
  asked : List (Nat × Nat)
  askedAt : List Nat
  writing : Bool
  carried : List (Byte × Bool)
  /-- The contribution of a REDX has left the core, with its round (R236, R353). -/
  round : Option Nat
  /-- The status word of R228, none while outstanding. -/
  status : Option Word
  deriving DecidableEq, Repr

/-- Why a wave holds no place although its block is resident (R307): leaving since step `start`. -/
inductive Evict where
  | here
  | leaving (start : Nat)
  deriving DecidableEq, Repr

/-- A wave (R147), or the CCP thread of a block (R219), which is thread 32 and holds no vector register. -/
structure Thread where
  ccp : Bool
  wave : Nat
  quad : Nat
  /-- The slot that issued last (R148). -/
  turn : Bool
  /-- Allocated vector registers, 16 to 192 (R289); 0 on a CCP. -/
  regs : Nat
  paths : Paths
  saved : List Saved
  shadow : ExcRegs
  exc : ExcRegs
  rgnpc : Word
  trappc : Word
  strappc : Word
  utrapbase : Word
  flags : BitVec 5
  gang : Word
  /-- v0 to v191 by register × 32 + lane; an unlisted lane is 0. -/
  vregs : List (Nat × Word)
  /-- Poisoned lanes of a vector register; an unlisted register has none (R359). -/
  vpois : List (Nat × Word)
  /-- The value-store entry a register is bound to (R61). -/
  bound : List (Nat × Nat)
  /-- Lanes of a register whose old contents are those of an entry still PENDING when the register was bound or written anew:
  register, entry and lanes (R62, R71). -/
  behind : List (Nat × Nat × Word)
  /-- p1 to p7; an unlisted predicate is 0. p0 is not stored. -/
  preds : List (Nat × Word)
  /-- Poison bits of p1 to p7 (R359). -/
  ppois : List (Nat × Word)
  tregs : List (Nat × TReg)
  /-- Loads in issue order, until each has ended and every older one has (R179). Its length, and those of the other
  queues, are the in-flight counters of R209 (`pathCount`). -/
  loads : List LoadOp
  stores : List StoreOp
  /-- Stores (false) and atomics (true) already performed, by issue number, that an older one of their path keeps counted (R209). -/
  overtaken : List (Nat × Bool)
  posts : List PostOp
  log : List LogEntry
  /-- A page fault whose lanes have not entered the log yet (PAGE_FAULT_LOG). -/
  faulted : List LogEntry
  late : List LateTrap
  arms : List Arm
  /-- The wave or thread has ended (R160, R221). -/
  ended : Bool
  /-- Arrivals at cluster barriers that wait for the wave's older accesses: barrier and issue number (R200, R207). -/
  arriving : List (Nat × Nat)
  /-- A CCP that raised a cause has stopped (R221). -/
  stopped : Bool
  /-- A region restart waits for the paths of R362. -/
  restarting : Bool
  evict : Evict
  /-- A time-slice expiry has reached the wave, and the wave has accepted it (R269, R311). -/
  expired : Bool
  accepted : Bool
  /-- CCP: commands, oldest first (R219). -/
  cmds : List Command
  /-- CCP: the number of the current use of each tag (R237). -/
  uses : List (Nat × Nat)
  /-- The words that each command issued since the arm of a copy error carries, by the command's number; none for a CPYG that has not
  read its table (R364). -/
  copyWords : List (Nat × Option Nat)
  deriving DecidableEq, Repr

/-- A ring (R212). -/
structure Ring where
  base : Nat
  size : Nat
  count : Nat
  buffer : Nat
  post : Bool
  wp : Nat
  rp : Nat
  cp : Nat
  fp : Nat
  /-- Claimed slots already marked filled, as positions modulo 2 × count (R214). -/
  filled : List Nat
  /-- Operands-consumed events not yet fired, each with the engine and ladder operations it waits for (R216). -/
  waiting : List (List Nat)
  /-- The CPYM command each slot position was filled by: (core, block, command) to acknowledge (R216, R233). -/
  senders : List (Nat × Nat × Nat × Nat)
  deriving DecidableEq, Repr

/-- A ladder (R240). -/
structure Ladder where
  defined : Bool
  rung0 : Nat
  nr : Nat
  dec : Nat
  wgt : Nat
  n : Nat
  deriving DecidableEq, Repr

/-- A block resident on a core (R20). -/
structure Block where
  launch : Nat
  blklin : Nat
  waves : Nat
  /-- Waves and, at 32, the CCP thread. -/
  threads : List (Nat × Thread)
  /-- SM, AB, CB and WB by buffer code × 2^20 + offset; an unlisted byte is 0 (R165). -/
  regions : List Host.Cell
  /-- Poisoned 32-byte sectors of the regions, as key ÷ 32 (R359). -/
  rpois : List Nat
  rings : List (Nat × Ring)
  ladders : List (Nat × Ladder)
  marker : Nat
  /-- Bits [5:0] of the last granted GEAR request (R321). -/
  request : Nat
  halted : Bool
  /-- The wave whose HALTB named its own block: it is not stopped (R272). -/
  exempt : Option Nat
  /-- Halted by a breakpoint: the thread and slot whose cause 0x0C is pending (R162, R317). -/
  breaks : List (Nat × Bool × TrapInfo)
  /-- Evicted waves of the block (R307). -/
  out : List Nat
  /-- The place of each evicted wave's image in the context area (R308). -/
  images : List (Nat × Nat)
  /-- Steps at which the block was placed or restored last (R306). -/
  placedAt : Nat
  /-- The time slice has expired for every wave (R311). -/
  expired : Bool
  /-- An eviction of the whole block has begun (R307), with the core that a migration moves it to (R314). -/
  leaving : Option (Option Nat)
  aborted : Bool
  /-- The ABORT event of a deterministic launch's block, sent as the block retires (R303): its cause, wave and PC. -/
  report : Option (Nat × Nat × Nat)
  cluster : Nat
  /-- Writes of the debugger that take effect at resume (R316). -/
  edits : List (Nat × Nat × Nat × List Byte)
  deriving DecidableEq, Repr

/-- The states of a value-store entry (R276). VALID and COLD differ by the count alone (R277). -/
inductive EntryState where
  | pending | published | dead
  deriving DecidableEq, Repr

/-- An instruction bound to a PENDING entry (R73): its thread and register, and where and when it was issued. -/
structure Waiter where
  thread : ThreadRef
  reg : Nat
  pc : Word
  seq : Nat
  depth : Nat
  /-- The instruction ORs in the computation's flags (R73); MOV does not (R90). -/
  owes : Bool
  deriving DecidableEq, Repr

/-- The computation a PENDING entry stands for (R69, R71): the word, its MODE, its producer and the PC there, and whether
the producer's armed check fails. -/
structure Pending where
  word : Instr
  mode : Half
  producer : ThreadRef
  slot : Bool
  pc : Word
  seq : Nat
  /-- The half of a 64-bit result (R70). -/
  odd : Bool
  fails : Bool
  /-- Instructions bound to the entry that wait for its flags, the producer first (R73). -/
  waiters : List Waiter
  /-- A kill that reached it takes effect at publication (R282). -/
  killed : Bool
  /-- A kill whose readers trap reached a source before the computation read it (R76). -/
  dead : Bool
  deriving DecidableEq, Repr

/-- An entry of the value store (R276, R277, R280). -/
structure Entry where
  state : EntryState
  /-- The six words of R67, and for a sign-extended narrow LDGK a seventh of the model's own (log 57). -/
  key : List Nat
  bytes : List Word
  flags : BitVec 5
  recency : Nat
  sources : List Nat
  /-- The launch whose LDK leaf its key chain holds, and whether it holds an LDGK leaf (R280). -/
  launch : Option Nat
  ldgk : Bool
  comp : Option Pending
  /-- Reads of registers bound to a DEAD entry trap (R76). -/
  traps : Bool
  /-- Lanes of an abandoned entry that are poisoned or were never formed, and whether what names it must not be published
  (R72, R283). -/
  lost : Word
  spoiled : Bool
  deriving DecidableEq, Repr

/-- The value-store statistics record (R285). -/
structure StoreStats where
  hitv : Nat
  hitp : Nat
  missa : Nat
  missn : Nat
  recl : Nat
  kill : Nat
  aband : Nat
  eccc : Nat
  eccu : Nat
  deriving DecidableEq, Repr

/-- One wave's part of a matrix operation: where it came from and everything it read at issue (R120, R128). -/
structure EngineMember where
  thread : ThreadRef
  desc : List Word
  fmt : Word
  mode : Half
  /-- LUTR's 32 lanes. -/
  lut : List Word
  pc : Word
  lanes : Word
  depth : Nat
  seq : Nat
  /-- Armed units 9 and 11 (R364). -/
  failEngine : Bool
  failWeights : Bool
  deriving DecidableEq, Repr

/-- A queued operation of the matrix engine (R133), or an arrival at the latch (R130). -/
structure EngineOp where
  seq : Nat
  opcode : Nat
  members : List EngineMember
  deriving DecidableEq, Repr

/-- A held arrival at the rendezvous latch (R130). -/
structure Arrival where
  slot : Bool
  gang : Word
  opcode : Nat
  member : EngineMember
  deriving DecidableEq, Repr

/-- A queued ladder operation (R244). -/
structure LadderOp where
  seq : Nat
  thread : ThreadRef
  opcode : Nat
  ladder : Nat
  words : List Word
  dest : Option Reg
  slot : Bool
  pc : Word
  lanes : Word
  /-- MODE as it issued (R44). -/
  mode : Half
  depth : Nat
  wseq : Nat
  fails : Bool
  deriving DecidableEq, Repr

/-- A fault record in the core's fault queue (R256, R260). -/
structure FaultRecord where
  block : Nat
  thread : Nat
  va : Nat
  kind : AccessKind
  number : Nat
  lanes : Word
  depth : Nat
  deriving DecidableEq, Repr

/-- A cached leaf (R173, R175): partition, size exponent, virtual page and the leaf's fields. -/
structure TlbEntry where
  partition : Nat
  log : Nat
  page : Nat
  frame : Nat
  r : Bool
  w : Bool
  sealed : Bool
  tier : Bool
  deriving DecidableEq, Repr

/-- How a page walk ended (R172, R174). -/
inductive WalkResult where
  | leaf (e : TlbEntry)
  /-- An entry with V = 0, its FTE, and the size exponent of what it would map. -/
  | invalid (fte : Bool) (log : Nat)
  | malformed
  | uncorrectable
  deriving DecidableEq, Repr

/-- A page walk in flight (R175): whose it is, the address, and XLAT's register when XLAT asked for it (R170). A walk that
has ended keeps its result for the word that waits. -/
structure Walk where
  id : Nat
  thread : ThreadRef
  slot : Bool
  va : Nat
  xlat : Option Nat
  limit : Nat
  /-- DEPTH of the word that asked (R255). -/
  depth : Nat
  result : Option WalkResult
  deriving DecidableEq, Repr

/-- An operating point (R319): gear (true for bake) and level. -/
structure Point where
  bake : Bool
  level : Nat
  deriving DecidableEq, Repr

/-- A core's gear, rails and thermal state (R318 to R331). -/
structure Gear where
  point : Point
  /-- The shift in progress goes to this point (R323). -/
  shift : Option Point
  /-- The cap level that the management core has set: the fastest bake level the core may run (R321, R328). -/
  cap : Nat
  /-- The proof floor in mV (R319). -/
  floor : Nat
  /-- LDO offset code in 2.5 mV steps (R318, R365). -/
  offset : Nat
  /-- Proof rail PB, bake rail BB (R318). -/
  railPB : Bool
  railBB : Bool
  /-- A RAILMAP byte that the core takes when it next holds no block (R341). -/
  railNext : Option (Bool × Bool)
  stallr : Word
  /-- Thermal limits of R331: forced to bake 2, held at the slowest proof level, and offered for migration. -/
  hot : Bool
  held : Bool
  offered : Bool
  /-- Auto-proof holds (R325). -/
  auto : Bool
  /-- Auto-proof has ended and the core has not shifted back yet: nothing issues (R325). -/
  returning : Bool
  /-- The last temperature reported for the core, in °C (R331). -/
  celsius : Nat
  deriving DecidableEq, Repr

/-- A lifetime record (R366). -/
structure Life where
  gears : List (Nat × Nat)
  temps : List (Nat × Nat)
  volts : List (Nat × Nat)
  ecc : List (Nat × Nat)
  traps : Nat
  droops : Nat
  shifts : Nat
  binds : Nat
  misses : Nat
  slow : Nat
  deriving DecidableEq, Repr

/-- A quadrant's sets (R149): waves as block slot × 64 + thread, in set order, the waves that have issued, the most recent first
(R150), the active position at which the next search begins (R148), and the pending waves that were ready after the last step, those
that have been so longest first (R150). -/
structure Quadrant where
  active : List Nat
  pending : List Nat
  recent : List Nat
  start : Nat
  ready : List Nat
  deriving DecidableEq, Repr

/-- The waiting cluster that waves or blocks leave a core for (R305, R307): its launch and first block, the core it is to start at, the
waves passed over because their eviction was abandoned, and whether the core has been given up for it. -/
structure Room where
  launch : Nat
  first : Nat
  start : Nat
  passed : List Nat
  given : Bool
  deriving DecidableEq, Repr

/-- A line that a cache holds: its number, and the hint of the access that marked it last (R178, R181). -/
structure CacheLine where
  line : Nat
  hint : Nat
  deriving DecidableEq, Repr

/-- A core (R18). -/
structure Core where
  /-- The partition whose blocks it holds or held last (R281). -/
  partition : Option Nat
  blocks : List (Nat × Block)
  entries : List (Nat × Entry)
  /-- The directory: set × 4 + way to entry number (R278). -/
  ways : List (Nat × Nat)
  stats : StoreStats
  /-- The cb2 table, an unlisted row reading 0, and its loaded state (R53, R54). -/
  cb2 : List (Nat × Half)
  cb2Loaded : Bool
  engine : List EngineOp
  ladderQ : List LadderOp
  arrivals : List Arrival
  /-- Issue number of the core's engine and ladder operations, shared so that their order is one (R133, R244). -/
  engineSeq : Nat
  faultQ : List FaultRecord
  tlb : List TlbEntry
  walks : List Walk
  gear : Gear
  fltcnt : Nat
  /-- Responses in the clock-crossing FIFO of a shift, oldest first, each with the entries of 64 bytes that it takes (R323). -/
  fifo : List (Instr × Nat)
  quads : List (Nat × Quadrant)
  ccpLast : Nat
  life : Life
  /-- HSEQ of each MAINT record that names the core, oldest first: its window is open while the core holds no block (R365). -/
  maint : List Nat
  /-- Round counters of reduction groups: partition × 65,536 + group (R353). -/
  rounds : List (Nat × Nat)
  room : Option Room
  /-- The lines of the L1 data cache, the most recent first (R18, R181). -/
  l1 : List CacheLine
  deriving DecidableEq, Repr

/-- A completion counter (R297). -/
structure Counter where
  canc : Bool
  count : Nat
  deriving DecidableEq, Repr

/-- What travels beside a wave's image: the poison of its registers, its predicates and the scalars of its slots and stack (R359), and
the slots of its spilled entries (R153). -/
structure Beside where
  wave : Nat
  vpois : List (Nat × Word)
  ppois : List (Nat × Word)
  spois : List Word
  buried : List Buried
  deriving DecidableEq, Repr

/-- An image in a partition's context area (R308): a wave of a resident block, or a whole block with its waves. -/
structure SavedImage where
  launch : Nat
  blklin : Nat
  core : Nat
  /-- The wave of a wave eviction; none for a block. -/
  wave : Option Nat
  /-- Wave, offset and length of each image in the area: for a block, the block context first, then its waves. -/
  places : List (Nat × Nat × Nat)
  /-- What travels beside the images: of each wave, and the poison of a block's regions (R359). -/
  beside : List Beside
  rpois : List Nat
  /-- Its place in its cluster. -/
  rank : Nat
  cb2Loaded : Bool
  cb2 : List (Nat × Half)
  cluster : Nat
  deriving DecidableEq, Repr

/-- A reduction group of a partition (R353). -/
structure Group where
  contributors : Nat
  root : Nat
  deriving DecidableEq, Repr

/-- A partition (R271, R293, R341). -/
structure Partition where
  configured : Bool
  jobs : List Nat
  tenancy : Nat
  tss : Bool
  /-- The key its writes are encrypted under, as a number the security block drew it by (R374). -/
  key : Nat
  trapbase : Word
  ptroot : Word
  ptrooth : Word
  pool : Word
  dumpva : Word
  dumpvah : Word
  testen : Word
  /-- Token balance, refill and cap in core-µs, and the slew rate and allowance in mA (R293, R328). -/
  balance : Int
  refill : Nat
  cap : Nat
  slew : Nat
  allowance : Nat
  debts : List (Nat × Nat)
  counters : List (Nat × Counter)
  /-- Raised blocks in order, by raise: launch, first block and count (R300). -/
  raised : List (Nat × Nat × Nat)
  /-- Evicted waves and blocks, oldest first (R312). -/
  evicted : List SavedImage
  areaBase : Nat
  areaSize : Nat
  /-- Operating-point table: KERNEL × 65,536 + marker to bake level, with recency (R329). -/
  points : List (Nat × Nat × Nat)
  armed : Bool
  groups : List (Nat × Group)
  deriving DecidableEq, Repr

/-- The states of a launch (R292). -/
inductive LaunchState where
  | queued | waiting | dispatching | running | done | cancelled | failed
  deriving DecidableEq, Repr

/-- A launch (R289, R292). -/
structure Launch where
  partition : Nat
  queue : Nat
  hseq : Nat
  desc : List Byte
  state : LaunchState
  /-- Messages that read pages of the constant bank in another module (R93, R173). -/
  asked : List (Nat × Nat)
  /-- The constant snapshot (R93); an unlisted constant is 0. -/
  consts : List (Nat × Word)
  nblk : Nat
  /-- Clusters of the grid below this rank have been placed (R295). -/
  next : Nat
  /-- Blocks that have ended (R298), by index. -/
  ended : List Nat
  /-- The LAUNCHDONE event has been sent, and its reason (R394). -/
  reported : Bool
  reason : Nat
  deriving DecidableEq, Repr

/-- A cluster and its barriers (R206): the completed-phase count of each, and which members have arrived, as
rank of the block in the cluster × 64 + wave. -/
structure Cluster where
  launch : Nat
  /-- Each member block: rank in the cluster, core and residency slot; none once the block has ended. -/
  blocks : List (Nat × Option (Nat × Nat))
  counts : List (Nat × Nat)
  arrived : List (Nat × List Nat)
  deriving DecidableEq, Repr

/-- A queue of Mbasin records (R339): the last accepted sequence A, and the accepted sequences not yet completed. -/
structure HostQueue where
  accepted : Nat
  open_ : List Nat
  deriving DecidableEq, Repr

/-- An event stream (R342): its current DSEQ and the events held for resending, oldest first. -/
structure Stream where
  dseq : Nat
  held : List (Nat × List Byte)
  deriving DecidableEq, Repr

/-- A message on its way out (R344, R347, R348): its virtual lane, the module it goes to, its number and its flits. -/
structure Sending where
  vl : Nat
  home : Nat
  number : Nat
  count : Nat
  deriving DecidableEq, Repr

/-- A flit in a replay buffer (R345, R346): its SEQ, its KIND and the message it belongs to. -/
structure Flit where
  seq : Nat
  kind : Nat
  msg : Sending
  deriving DecidableEq, Repr

/-- A Yarrow port (R344 to R348). -/
structure Port where
  up : Bool
  nextSeq : Nat
  unacked : List Flit
  /-- Flits of messages that have begun on this port and wait for a credit or the window: KIND and message (R346, R348). -/
  outbox : List (Nat × Sending)
  /-- The headers of the flits sent on the port, acks and naks among them, newest last (R345). -/
  wire : List Word
  /-- The SEQ that the last nak named, and times it has been replayed without progress. -/
  replaySeq : Nat
  replays : Nat
  credits : List (Nat × Nat)
  /-- Receiver: the next expected SEQ, and whether flits are discarded until the replay. -/
  expected : Nat
  discarding : Bool
  /-- Flits taken of messages that have not come whole, by virtual lane (R344, R352). -/
  partials : List (Nat × Nat)
  /-- The SEQ of a flit that an injected error has made uncorrectable, until it has been replayed (R364, kind 2). -/
  injected : Option Nat
  errors : Nat
  deriving DecidableEq, Repr

/-- An outstanding message toward a home module (R347), with the partition of its access. -/
structure Outstanding where
  msg : RemoteMsg
  part : Nat
  deriving DecidableEq, Repr

/-- What this module keeps toward one home: the next end-to-end number, the messages without a response (R347), the numbers of the sums
passed on toward it whose round has not ended (R347, R353), the responses not yet used, and the numbers of messages that have
failed (R351). -/
structure Toward where
  next : Nat
  waiting : List Outstanding
  sums : List Nat
  replies : List RemoteReply
  failed : List Nat
  deriving DecidableEq, Repr

/-- The duplicate table of one source module (R347): the highest number applied, the numbers applied among the 1,024
below it, and the responses of its last 256 atomics. -/
structure DupTable where
  highest : Nat
  applied : List Nat
  atomics : List (Nat × RemoteReply)
  deriving DecidableEq, Repr

/-- A remote-access window (R350). -/
structure Window where
  r : Bool
  w : Bool
  tenancy : Nat
  base : Nat
  size : Nat
  deriving DecidableEq, Repr

/-- A reduction round at the root (R353): how many contributions it holds, the exact element sums (none where a NaN
entered), the status and poison gathered so far, the types and window of the first contribution, whether a later one
differed in them or in its length, and the modules that contributed. -/
structure Round where
  modules : List Nat
  count : Nat
  sums : List (Option Int)
  status : Nat
  poison : Bool
  types : Nat
  mismatch : Bool
  deriving DecidableEq, Repr

/-- The Yarrow side of the module (R344 to R353). -/
structure Fabric where
  module : Nat
  /-- MODID has been accepted since module reset (R349), and some link has completed training since (R340). -/
  named : Bool
  trained : Bool
  ports : List (Nat × Port)
  /-- Messages that wait for a port of their route: new ones, and those of a link that went down (R346, R348). -/
  resend : List Sending
  routes : List (Nat × Nat)
  windows : List (Nat × Window)
  toward : List (Nat × Toward)
  dups : List (Nat × DupTable)
  /-- Open rounds of this root: (partition × 65,536 + group) × 2^32 + round. -/
  rounds : List (Nat × Round)
  /-- Replies and messages sent, newest last: what leaves on the ports. -/
  sent : List RemoteReply
  sentMsgs : List RemoteMsg
  /-- Sums that this hop gathers for other roots (R353), and those passed on, by end-to-end number, newest last (R347). -/
  gathered : List Contribution
  contributions : List (Nat × Contribution)
  /-- The duplicate tables of this hop, by source × 2,048 + root: contributions are numbered toward their root (R347, R353). -/
  hopDups : List (Nat × DupTable)
  /-- Results sent, with the module each goes to, newest last (R353). -/
  results : List (Nat × ReductionResult)
  deriving DecidableEq, Repr

/-- The states of the security alarm (R376). -/
inductive Alarm where
  | clear | halted | erased
  deriving DecidableEq, Repr

/-- An SPDM request whose response is being formed (R373): the record that carries it, the measurement registers as they stood when it
was taken, its number, and the step in which the response is ready. -/
structure Exchange where
  queue : Nat
  part : Nat
  stream : Nat
  hseq : Nat
  request : List Byte
  meas : List (Nat × List Byte)
  number : Nat
  ready : Nat
  deriving DecidableEq, Repr

/-- Boot, measurement and security state (R369 to R377). -/
structure Boot where
  /-- Stage in progress, 1 to 6, where 1 may fail and leave the module unpowered; 7 once booted; 0 without power. Recovery is stage 3 with
  `recovery` set. -/
  stage : Nat
  meas : List (Nat × List Byte)
  keyDigest : List Byte
  rollback : Nat
  slotA : List Byte
  slotB : List Byte
  recovery : Bool
  recoveryStatus : Nat
  /-- What I3C reads of the recovery status have returned, newest last. -/
  i3c : List Nat
  identity : Bool
  attest : Bool
  /-- The module key (R374), as a number; 0 is the key of zeros that an erasure leaves. -/
  moduleKey : Nat
  levels : List (Nat × Nat)
  /-- SPDM requests taken so far, the one whose response is being formed, and the EXTEND records that wait for it, as sequence, register
  and digest (R373). -/
  exchanges : Nat
  forming : Option Exchange
  waiting : List (Nat × Nat × List Byte)
  /-- Images of later firmware updates that the management core has taken up and that are not yet measured, oldest first (R369). -/
  updates : List (List Byte)
  alarm : Alarm
  epoch : Nat
  /-- The lifetime records in non-volatile storage, each with the core's offset code and floor (R366, R367). -/
  saved : List (Nat × Life × Nat × Nat)
  /-- The count of `State.intervals` in non-volatile storage. -/
  savedIntervals : Nat
  deriving DecidableEq, Repr

/-- The management core, one RV64IMAC core with Zicsr and Zifencei (R14): whether it is out of reset (R369), its PC, its registers x1 to
x31, its control and status registers, its reservation, and its own memory. PRESUMED: the layout is that of RISC-V (log 121). -/
structure Management where
  running : Bool
  pc : BitVec 64
  xregs : List (Nat × BitVec 64)
  csrs : List (Nat × BitVec 64)
  reservation : Option Nat
  memory : List Host.Cell
  deriving DecidableEq, Repr

/-- The rack cap and its lease (R330). -/
structure RackCap where
  seq : Nat
  watts : Nat
  lease : Option Nat
  deriving DecidableEq, Repr

/-- A completed RMA operation toward the host (R336): job, whether it failed, and the bytes of a get. -/
structure RmaReply where
  job : Nat
  failed : Bool
  bytes : List Byte
  deriving DecidableEq, Repr

/-- A part of host work that reaches another module: what is asked, the message's number once it has been sent, and how it
ended. A part of this module's memory is answered at once. -/
structure Piece where
  addr : Nat
  op : RemoteOp
  message : Option Nat
  answer : Option RemoteReply
  failed : Bool
  deriving DecidableEq, Repr

/-- What the host is told once every part of its work has ended: a put's or a get's completion (R336), or the answer to a
record, by its type, queue, partition, stream and HSEQ (R182, R339). -/
inductive WorkKind where
  | put (job : Nat)
  | get (job : Nat)
  | record (type queue part stream hseq : Nat)
  deriving DecidableEq, Repr

/-- Host work in progress. -/
structure HostWork where
  kind : WorkKind
  part : Nat
  pieces : List Piece
  deriving DecidableEq, Repr

/-- The host side of the module (R334 to R343). -/
structure HostLink where
  work : List HostWork
  queues : List (Nat × HostQueue)
  streams : List (Nat × Stream)
  /-- Events sent, oldest first: what the hosts have been told (stream, bytes). -/
  sent : List (Nat × List Byte)
  rma : List RmaReply
  /-- Dropped packets per port (R334, R335). -/
  dropped : List (Nat × Nat)
  deriving DecidableEq, Repr

/-- One module. -/
structure State where
  /-- Steps still to happen that the world or the module's own schedule has asked for, next first (the model's own
  field). -/
  agenda : List Instr
  /-- The thread and slot whose word issues next (the model's own field). -/
  who : ThreadRef
  whoSlot : Bool
  /-- A completion may happen before the next word issues (the model's own field). -/
  phase : Bool
  /-- Completions taken so far: they are taken in turn (the model's own field). -/
  turn : Nat
  /-- Steps taken since reset: the index of every free value of time (the model's own field). -/
  tick : Nat
  /-- The step of the last module reset, from which CYCLE counts (R31). -/
  born : Nat
  /-- Issue numbers given out so far (the model's own field, R253, R209). -/
  seq : Nat
  cores : List (Nat × Core)
  /-- The 10 µs intervals that each core not listed in `cores` has been sampled in, at the point of a new part (R366). -/
  intervals : Nat
  clusters : List (Nat × Cluster)
  nextCluster : Nat
  /-- The L2 TLB of each die (R175). -/
  l2tlb : List (Nat × List TlbEntry)
  /-- The lines of the L2 cache of each die, the most recent first (R14, R181). -/
  l2 : List (Nat × List CacheLine)
  /-- HBM and second tier: tier × 2^52 + offset; an unlisted byte reads 0. -/
  mem : List Host.Cell
  /-- Poisoned sectors of memory, as key ÷ 32 (R359). -/
  poison : List Nat
  /-- The key that each block of 16 bytes was last written under (R374); an unlisted block has not been written, and reads the same
  under every key. -/
  memKey : List (Nat × Nat)
  /-- Sealed-frame counts by 64 KiB frame; an unlisted frame counts 0 (R182). -/
  seals : List (Nat × Nat)
  partitions : List (Nat × Partition)
  launches : List (Nat × Launch)
  nextLaunch : Nat
  /-- The partition served last in a tie (R295). -/
  served : Nat
  nextKey : Nat
  host : HostLink
  fabric : Fabric
  rack : RackCap
  boot : Boot
  management : Management
  deriving DecidableEq, Repr

/-- Why the machine stops. -/
inductive Fault where
  /-- A step names a core, die, quadrant, port, module or partition beyond the figures of R14 and R4: raised by the
  meanings of the steps that are not words. Safe: no such unit exists, so the hardware takes no such step. -/
  | outsideModule
  deriving DecidableEq, Repr

/-- Why a step has no meaning here. -/
inductive Refusal where
  /-- The instruction is not modelled yet: raised by `exec` alone. Safe. -/
  | notModelled (mnemonic : String)
  /-- A word is executed with no thread to issue it: raised by the meanings of words. Safe: hardware issues no word
  without a wave or a CCP thread (R20). -/
  | noIssuer
  /-- A step of the device, the host or the fabric is asked for while its condition does not hold: raised by the meanings
  of the steps that are not words. Safe: the hardware does not take the step then. -/
  | notDue
  deriving DecidableEq, Repr

/-- The module right after module reset, a new part: boot stage 2 is about to run (R369), nothing is resident, every
queue, sequence, table and launch is clear (R343), memory lists nothing. Maps are empty: an unlisted core, partition,
queue or port stands at its reset value (the `fresh` definitions of `Machine/Access.lean`); the values the spec does not give
are log 2's and log 3's. -/
def State.reset : State where
  agenda := []
  who := ⟨0, 0, 0⟩
  whoSlot := false
  phase := false
  turn := 0
  tick := 0
  born := 0
  seq := 0
  cores := []
  intervals := 0
  clusters := []
  nextCluster := 0
  l2tlb := []
  l2 := []
  mem := []
  poison := []
  memKey := []
  seals := []
  partitions := []
  launches := []
  nextLaunch := 0
  served := 0
  nextKey := 2
  host := { work := [], queues := [], streams := [], sent := [], rma := [], dropped := [] }
  fabric :=
    { module := 0, named := false, trained := false, resend := [], ports := [], routes := [], windows := [], toward := [], dups := [], rounds := [],
      sent := [], sentMsgs := [], gathered := [], contributions := [], hopDups := [], results := [] }
  rack := { seq := 0, watts := 4400, lease := none }
  management := { running := true, pc := 0, xregs := [], csrs := [], reservation := none, memory := [] }
  boot :=
    { stage := 2, meas := [], keyDigest := [], rollback := 0, slotA := [], slotB := [], recovery := false,
      recoveryStatus := 0, i3c := [], identity := true, attest := true, moduleKey := 1, levels := [], exchanges := 0, forming := none,
      waiting := [], updates := [], alarm := .clear, epoch := 0, saved := [], savedIntervals := 0 }

end Sys2Proof.Machine
end

