-- ==== Sys2Proof/Machine/Access.lean ====
section
/-! DEFINITION. Reset values of what a map does not list, and the one way in and out of every part of the state: cores,
blocks, threads, slots, partitions, launches, queues and counters. -/

namespace Sys2Proof.Machine
open Sys2Proof

/-! ### Figures (R14) -/

/-- Compute cores (R14). -/
def coreCount : Nat := 1152
/-- The die of a core (R4). -/
def dieOf (core : Nat) : Nat := core / 144
/-- Row and column of a core on its die (R4). -/
def rowOf (core : Nat) : Nat := core % 144 / 12
/-- See `rowOf`. -/
def colOf (core : Nat) : Nat := core % 12
/-- Partitions of a module (R14). -/
def partitionCount : Nat := 16
/-- The CCP's thread number in a block (R218). -/
def ccpThread : Nat := 32

/-! ### Reset values -/

/-- An empty slot (R147). -/
def freshSlot : Slot where
  pc := 0
  mask := 0
  mode := 0x0040
  fmt := 0
  sregs := []
  spois := 0
  jpc := 0
  cycleh := 0
  hold := .free
  park := none
  since := 0
  stopped := false
  last := 0

/-- A translation register at reset (R169). -/
def freshTReg : TReg where
  base := 0
  frame := 0
  r := false
  w := false
  sealed := false
  tier := false
  limit := 0
  log := 0
  busy := false

/-- The trap registers at wave start (R31). -/
def freshExc : ExcRegs where
  exc := 0
  excmask := 0
  synd := 0
  unit := 0
  tilexy := 0
  faultva := 0
  faultvah := 0

/-- A wave or a CCP thread as it starts, with its entry PC (R147, R219). -/
def freshThread (ccp : Bool) (wave quad regs : Nat) (entry : Word) (spill : Nat) : Thread where
  ccp := ccp
  wave := wave
  quad := quad
  turn := true
  regs := regs
  paths :=
    { slot0 := { freshSlot with pc := entry, mask := if ccp then 1 else BitVec.allOnes 32, last := entry }
      slot1 := freshSlot
      frame := none
      stack := []
      spillPtr := spill
      buried := [] }
  saved := []
  shadow := freshExc
  exc := freshExc
  rgnpc := 0
  trappc := 0
  strappc := 0
  utrapbase := 0
  flags := 0
  gang := 0
  vregs := []
  vpois := []
  bound := []
  behind := []
  preds := []
  ppois := []
  tregs := []
  loads := []
  stores := []
  overtaken := []
  posts := []
  log := []
  faulted := []
  late := []
  arms := []
  ended := false
  arriving := []
  stopped := false
  restarting := false
  evict := .here
  expired := false
  accepted := false
  cmds := []
  uses := []
  copyWords := []

/-- An undefined ladder (R240). -/
def freshLadder : Ladder where
  defined := false
  rung0 := 0
  nr := 0
  dec := 0
  wgt := 0
  n := 0

/-- Value-store statistics after module reset (R285). -/
def freshStats : StoreStats where
  hitv := 0
  hitp := 0
  missa := 0
  missn := 0
  recl := 0
  kill := 0
  aband := 0
  eccc := 0
  eccu := 0

/-- A new part's gear state: proof 1, the slowest level that the floor of 520 mV allows, no offset (R319, R321, R369). -/
def freshGear : Gear where
  point := ⟨false, 1⟩
  shift := none
  cap := 0
  floor := 520
  offset := 0
  railPB := false
  railBB := false
  railNext := none
  stallr := 0
  hot := false
  held := false
  offered := false
  auto := false
  returning := false
  celsius := 0

/-- A new part's lifetime record (R366). -/
def freshLife : Life where
  gears := []
  temps := []
  volts := []
  ecc := []
  traps := 0
  droops := 0
  shifts := 0
  binds := 0
  misses := 0
  slow := 0

/-! ### The lifetime record (R366) -/

/-- Nominal voltage of a point in mV (R319). -/
def pointVolt (p : Point) : Nat :=
  match p.bake, p.level with
  | true, 0 => 780 | true, 1 => 720 | true, _ => 660
  | false, 0 => 550 | false, 1 => 530 | false, _ => 500

/-- The number of an operating point in the record: bake 0, 1, 2, then proof 0, 1, 2. -/
def pointIndex (p : Point) : Nat := if p.bake then min p.level 2 else 3 + min p.level 2

/-- The temperature bin of a reading in °C. -/
def tempBin (celsius : Nat) : Nat := if celsius < 30 then 0 else min 15 ((celsius - 30) / 5 + 1)

/-- The voltage bin of a core: its point's nominal voltage and its ageing offset (R318), in tenths of a mV. -/
def voltBin (g : Gear) : Nat := min 15 ((pointVolt g.point * 10 + 25 * g.offset - 4800) / 200)

/-- n more samples of 10 µs at the core's point, temperature and voltage. -/
def sampleLife (x : Life) (g : Gear) (celsius n : Nat) : Life :=
  let count (m : List (Nat × Nat)) (k : Nat) : List (Nat × Nat) := put 0 m k (findD m k 0 + n)
  { x with
    gears := count x.gears (pointIndex g.point)
    temps := count x.temps (tempBin celsius)
    volts := count x.volts (voltBin g) }

/-- A core after module reset. -/
def freshCore : Core where
  partition := none
  blocks := []
  entries := []
  ways := []
  stats := freshStats
  cb2 := []
  cb2Loaded := false
  engine := []
  ladderQ := []
  arrivals := []
  engineSeq := 0
  faultQ := []
  tlb := []
  walks := []
  gear := freshGear
  fltcnt := 0
  fifo := []
  quads := []
  ccpLast := 0
  life := freshLife
  maint := []
  rounds := []
  room := none
  l1 := []

/-- A core that the state does not list, after n intervals of 10 µs: a core after module reset, with its samples (R366). -/
def idleCore (n : Nat) : Core := { freshCore with life := sampleLife freshLife freshGear freshGear.celsius n }

/-- A quadrant with no wave (R149). -/
def freshQuadrant : Quadrant where
  active := []
  pending := []
  recent := []
  start := 0
  ready := []

/-- A partition after module reset (R271, R293, R328). -/
def freshPartition : Partition where
  configured := false
  jobs := []
  tenancy := 0
  tss := false
  key := 0
  trapbase := 0
  ptroot := 0
  ptrooth := 0
  pool := 0
  dumpva := 0
  dumpvah := 0
  testen := 0
  balance := 0
  refill := 115200
  cap := 230400
  slew := 0
  allowance := 0
  debts := []
  counters := []
  raised := []
  evicted := []
  areaBase := 0
  areaSize := 0
  points := []
  armed := false
  groups := []

/-- A queue after module reset (R339). -/
def freshQueue : HostQueue := { accepted := 0, open_ := [] }
/-- A stream after module reset (R342). -/
def freshStream : Stream := { dseq := 0, held := [] }
/-- A port after module reset (R346, R348). -/
def freshPort : Port where
  up := false
  nextSeq := 0
  unacked := []
  outbox := []
  wire := []
  replaySeq := 0
  replays := 0
  credits := []
  expected := 0
  discarding := false
  partials := []
  injected := none
  errors := 0
/-- Nothing sent toward a home module (R347). -/
def freshToward : Toward := { next := 0, waiting := [], sums := [], replies := [], failed := [] }
/-- Nothing received from a source module (R347). -/
def freshDup : DupTable := { highest := 0, applied := [], atomics := [] }
/-- A completion counter after module reset (R297). -/
def freshCounter : Counter := { canc := false, count := 0 }

/-! ### Cores, blocks, threads and slots -/

/-- A core. -/
def State.coreAt (s : State) (c : Nat) : Core := findD s.cores c (idleCore s.intervals)
/-- Replace a core. -/
def State.setCore (s : State) (c : Nat) (k : Core) : State := { s with cores := insert s.cores c k }
/-- Change a core. -/
def State.modCore (s : State) (c : Nat) (f : Core → Core) : State := s.setCore c (f (s.coreAt c))

/-- A resident block. -/
def State.blockAt (s : State) (c b : Nat) : Option Block := find (s.coreAt c).blocks b
/-- Change a resident block. -/
def State.modBlock (s : State) (c b : Nat) (f : Block → Block) : State :=
  s.modCore c fun k => { k with blocks := adjust k.blocks b f }

/-- A thread of a resident block. -/
def State.threadAt (s : State) (t : ThreadRef) : Option Thread :=
  (s.blockAt t.core t.block).bind fun b => find b.threads t.thread
/-- Change a thread. -/
def State.modThread (s : State) (t : ThreadRef) (f : Thread → Thread) : State :=
  s.modBlock t.core t.block fun b => { b with threads := adjust b.threads t.thread f }

/-- The slot with a number (R147). -/
def Paths.slot (p : Paths) (n : Bool) : Slot := if n then p.slot1 else p.slot0
/-- Replace a slot. -/
def Paths.setSlot (p : Paths) (n : Bool) (x : Slot) : Paths :=
  if n then { p with slot1 := x } else { p with slot0 := x }
/-- Change a slot of a thread. -/
def Thread.modSlot (th : Thread) (n : Bool) (f : Slot → Slot) : Thread :=
  { th with paths := th.paths.setSlot n (f (th.paths.slot n)) }
/-- Change a slot. -/
def State.modSlot (s : State) (t : ThreadRef) (n : Bool) (f : Slot → Slot) : State :=
  s.modThread t fun th => th.modSlot n f

/-- Every slot of some paths, with its place. -/
def Paths.places (p : Paths) : List (Place × Slot) :=
  [(.slot false, p.slot0), (.slot true, p.slot1)] ++ (p.stack.mapIdx fun i e => (.stack i, e.slot)) ++
    p.buried.mapIdx fun i y => (.spilled i, y.slot)
/-- The slot at a place. -/
def Paths.slotAt (p : Paths) (x : Place) : Slot :=
  match x with
  | .slot n => p.slot n
  | .stack i => ((p.stack[i]?).map (·.slot)).getD freshSlot
  | .spilled i => ((p.buried[i]?).map (·.slot)).getD freshSlot
/-- Change the slot at a place. -/
def Paths.modAt (p : Paths) (x : Place) (f : Slot → Slot) : Paths :=
  match x with
  | .slot n => p.setSlot n (f (p.slot n))
  | .stack i => { p with stack := p.stack.modify i fun e => { e with slot := f e.slot } }
  | .spilled i => { p with buried := p.buried.modify i fun y =>
      { y with slot := f y.slot, gone := y.gone ||| (y.slot.mask &&& ~~~(f y.slot).mask) } }

/-- DEPTH (R255). -/
def Thread.depth (th : Thread) : Nat := th.saved.length
/-- The thread runs a handler entered in supervisor mode (R257). -/
def Thread.supervisor (th : Thread) : Bool := (th.saved.head?.map (·.supervisor)).getD false

/-- The paths of a thread as the words of a depth left them: its own, or those that a trap has suspended (R255). -/
def Thread.pathsAt (th : Thread) (d : Nat) : Paths :=
  if th.depth ≤ d then th.paths else ((th.saved[th.depth - 1 - d]?).map (·.paths)).getD th.paths
/-- Replace the paths of a depth. -/
def Thread.setPathsAt (th : Thread) (d : Nat) (p : Paths) : Thread :=
  if th.depth ≤ d then { th with paths := p }
  else { th with saved := th.saved.modify (th.depth - 1 - d) fun v => { v with paths := p } }
/-- A change of a thread as a word of a depth makes it: its scalars and slots are those of that depth (R255). -/
def Thread.atDepth (th : Thread) (d : Nat) (f : Thread → Thread) : Thread :=
  let y := f { th with paths := th.pathsAt d }
  ({ y with paths := th.paths }).setPathsAt d y.paths

/-- A predicate: p0 reads all-true (R26). A CCP's predicates are one bit (R219). -/
def Thread.pred (th : Thread) (n : Nat) : Word := if n = 0 then (if th.ccp then 1 else BitVec.allOnes 32) else findD th.preds n 0
/-- Write a predicate; writes to p0 are discarded (R26). -/
def Thread.setPred (th : Thread) (n : Nat) (x : Word) : Thread :=
  if n = 0 then th else { th with preds := put 0 th.preds n (if th.ccp then x &&& 1 else x) }
/-- Poison of a predicate's lanes (R359). -/
def Thread.predPoison (th : Thread) (n : Nat) : Word := if n = 0 then 0 else findD th.ppois n 0
/-- A translation register (R169). -/
def Thread.treg (th : Thread) (n : Nat) : TReg := findD th.tregs n freshTReg

/-- Every thread of the module, in order. -/
def State.threads (s : State) : List (ThreadRef × Thread) :=
  flatten (s.cores.map fun (c, k) => flatten (k.blocks.map fun (b, x) => x.threads.map fun (t, th) => (⟨c, b, t⟩, th)))

/-- Every resident block of the module, in order: core, residency slot, block. -/
def State.blocks (s : State) : List (Nat × Nat × Block) :=
  flatten (s.cores.map fun (c, k) => k.blocks.map fun (b, x) => (c, b, x))

/-! ### In-flight counters (R209) -/

/-- In-flight counter p of a thread, counted from the queues that raise it: path 0 counted loads, path 1 stores, path 2
matrix operations, path 3 ladder operations, path 4 posts and path 5 atomics, each from issue until it and every older one
of its path has ended. -/
def pathCount (k : Core) (t : ThreadRef) (th : Thread) (p : Nat) : Nat :=
  match p with
  | 0 => (th.loads.filter (·.counted)).length
  | 1 => (th.stores.filter fun x => x.atomic.isNone && !x.spill).length + (th.overtaken.filter fun x => !x.2).length
  | 2 => ((flatten (k.engine.map (·.members))).filter fun m => m.thread = t).length
  | 3 => (k.ladderQ.filter fun x => x.thread = t).length
  | 4 => th.posts.length
  | 5 => (th.stores.filter fun x => x.atomic.isSome).length + (th.overtaken.filter (·.2)).length
  | _ => 0

/-- In-flight counter p of a thread of the state (R209). -/
def State.path (s : State) (t : ThreadRef) (p : Nat) : Nat :=
  match s.threadAt t with
  | some th => pathCount (s.coreAt t.core) t th p
  | none => 0

/-- Every in-flight counter of the thread is 0. -/
def State.quiet (s : State) (t : ThreadRef) : Bool := (List.range 6).all fun p => s.path t p = 0

/-! ### Partitions, launches and counters -/

/-- A partition. -/
def State.partAt (s : State) (p : Nat) : Partition := findD s.partitions p freshPartition
/-- Change a partition. -/
def State.modPart (s : State) (p : Nat) (f : Partition → Partition) : State :=
  { s with partitions := insert s.partitions p (f (s.partAt p)) }

/-- A launch. -/
def State.launchAt (s : State) (l : Nat) : Option Launch := find s.launches l
/-- Change a launch. -/
def State.modLaunch (s : State) (l : Nat) (f : Launch → Launch) : State :=
  { s with launches := adjust s.launches l f }

/-- A completion counter of a partition (R297). -/
def Partition.counter (p : Partition) (i : Nat) : Counter := findD p.counters i freshCounter
/-- Write a completion counter. -/
def Partition.setCounter (p : Partition) (i : Nat) (x : Counter) : Partition :=
  { p with counters := put freshCounter p.counters i x }

/-! ### Fields of a launch descriptor (R289) -/

/-- The little-endian field of `n` bytes at offset `o`. -/
def Launch.field (l : Launch) (o n : Nat) : Nat := leAt l.desc o n
/-- ENTRY. -/
def Launch.entry (l : Launch) : Nat := l.field 0 8
/-- CCPENTRY; 0 means no CCP thread. -/
def Launch.ccpEntry (l : Launch) : Nat := l.field 8 8
/-- KBANK. -/
def Launch.kbank (l : Launch) : Nat := l.field 16 8
/-- PRIV. -/
def Launch.priv (l : Launch) : Nat := l.field 24 8
/-- GRIDX. -/
def Launch.gridX (l : Launch) : Nat := l.field 32 4
/-- GRIDY. -/
def Launch.gridY (l : Launch) : Nat := l.field 36 2
/-- GRIDZ. -/
def Launch.gridZ (l : Launch) : Nat := l.field 38 2
/-- SHAPE. -/
def Launch.shape (l : Launch) : Nat := l.field 40 4
/-- SHAPE.LADDERS. -/
def Launch.ladders (l : Launch) : Nat := bits l.shape 27 25
/-- SHAPE.RINGS. -/
def Launch.rings (l : Launch) : Nat := bits l.shape 24 20
/-- Cluster height in blocks, CH + 1. -/
def Launch.clusterH (l : Launch) : Nat := bits l.shape 19 18 + 1
/-- Cluster width in blocks, CW + 1. -/
def Launch.clusterW (l : Launch) : Nat := bits l.shape 17 16 + 1
/-- Vector registers per wave. -/
def Launch.regs (l : Launch) : Nat := bits l.shape 12 8 * 8
/-- Waves per block. -/
def Launch.waves (l : Launch) : Nat := bits l.shape 5 0
/-- The declared size of a region, by buffer code (R121). -/
def Launch.regionSize (l : Launch) (code : Nat) : Nat :=
  match code with
  | 0 => l.field 48 4
  | 1 => l.field 52 4
  | 2 => l.field 56 4
  | _ => l.field 44 4
/-- ENERGY in µJ; 0 counts as the whole budget. -/
def Launch.energy (l : Launch) : Nat := l.field 60 4
/-- IPEAK in mA; 0 counts as the whole budget. -/
def Launch.ipeak (l : Launch) : Nat := l.field 64 2
/-- KERNEL. -/
def Launch.kernel (l : Launch) : Nat := l.field 66 2
/-- PHASE0. -/
def Launch.phase0 (l : Launch) : Nat := l.field 68 2
/-- LFLAGS. -/
def Launch.lflags (l : Launch) : Nat := l.field 70 2
/-- LFLAGS.DET. -/
def Launch.det (l : Launch) : Bool := bit l.lflags 0
/-- LFLAGS.NOLIN. -/
def Launch.nolin (l : Launch) : Bool := bit l.lflags 1
/-- LFLAGS.AUTOP. -/
def Launch.autop (l : Launch) : Bool := bit l.lflags 5
/-- DEPn: counter index and target (R297). -/
def Launch.dep (l : Launch) (n : Nat) : Nat × Nat := (l.field (72 + 8 * n) 4, l.field (76 + 8 * n) 4)
/-- The DONE counter of a level: 0 launch, 1 graph, 2 phase, 3 job. -/
def Launch.done (l : Launch) (level : Nat) : Nat := l.field (96 + 4 * level) 4
/-- SLICE in µs. -/
def Launch.slice (l : Launch) : Nat := l.field 112 4
/-- Blocks of the grid as launched. -/
def Launch.gridBlocks (l : Launch) : Nat := l.gridX * l.gridY * l.gridZ
/-- Blocks of a cluster. -/
def Launch.clusterSize (l : Launch) : Nat := l.clusterW * l.clusterH
/-- Block coordinates of a linear index: raised blocks follow R300, and the grid's blocks R25. -/
def Launch.blkx (l : Launch) (b : Nat) : Nat := b % l.gridX
/-- See `Launch.blkx`. -/
def Launch.blky (l : Launch) (b : Nat) : Nat := b / l.gridX % l.gridY
/-- See `Launch.blkx`. -/
def Launch.blkz (l : Launch) (b : Nat) : Nat := b / (l.gridX * l.gridY)
/-- The base of a wave's spill region (R291). -/
def Launch.spillBase (l : Launch) (blklin wave : Nat) : Nat := l.priv + 12288 * (32 * blklin + wave)
/-- The window of the launch's instruction addresses, bits [55:32] of its entry (R146); the CCP has its own (R289). -/
def Launch.window (l : Launch) (ccp : Bool) : Nat := (if ccp then l.ccpEntry else l.entry) / 2 ^ 32

/-- A launch descriptor with every field 0. -/
def noLaunch : Launch where
  partition := 0
  queue := 0
  hseq := 0
  desc := []
  state := .queued
  asked := []
  consts := []
  nblk := 0
  next := 0
  ended := []
  reported := false
  reason := 0

/-- The launch of a block. -/
def State.launchOf (s : State) (b : Block) : Launch := (s.launchAt b.launch).getD noLaunch

/-! ### The core counter (R31) -/

/-- CYCLE of a core: 0 at the step of module reset, then the edges counted in each step (R31, log 5). -/
def cycleOf (core born tick : Nat) : Nat := ((List.range (tick - born)).map fun i => Config.edges core (born + i)).sum

end Sys2Proof.Machine
end

