-- ==== Sys2Proof/Machine/Cache.lean ====
section
/-! DEFINITION. The L1 data cache of a core and the L2 cache of a die (R14, R18, R178, R181): which lines they hold. They hold no
values, since a load returns what the ordering rules allow; what L1 holds decides which loads count as missed (R149, R326). The bytes
of a line and the way a line is chosen to leave are the model's (log 108). -/

namespace Sys2Proof.Machine
open Sys2Proof

/-- Bytes of a line (log 108). -/
def lineBytes : Nat := 128
/-- Lines of L1: 256 KiB (R18). -/
def l1Lines : Nat := 262144 / lineBytes
/-- Lines of the L2 of a die: 64 MiB (R14). -/
def l2Lines : Nat := 67108864 / lineBytes

/-- The lines that physical parts touch. -/
def linesOf (parts : List (Nat × Nat)) : List Nat :=
  (flatten (parts.map fun (a, n) =>
    (List.range ((a % lineBytes + n + lineBytes - 1) / lineBytes)).map fun i => a / lineBytes + i)).eraseDups

/-- The line that leaves a full cache: the least recent of those marked for early replacement, else of those not marked for late
replacement, else of all (R178). -/
def victim (xs : List CacheLine) : Option CacheLine :=
  match (xs.filter fun x => x.hint = 1).getLast? with
  | some x => some x
  | none => match (xs.filter fun x => x.hint ≠ 2).getLast? with
    | some x => some x
    | none => xs.getLast?

/-- A line is the most recent of a cache of some size, under the hint of the access that touches it. -/
def touchLine (size hint : Nat) (xs : List CacheLine) (line : Nat) : List CacheLine :=
  let rest := xs.filter fun x => x.line ≠ line
  let kept := if rest.length < size then rest
    else match victim rest with
      | some v => rest.filter (· ≠ v)
      | none => rest
  { line := line, hint := hint } :: kept

/-- The core's L1 holds every line of some parts. -/
def Core.inL1 (k : Core) (parts : List (Nat × Nat)) : Bool := (linesOf parts).all fun l => k.l1.any fun x => x.line = l

/-- An access of a core reaches L2 with a hint, and fills L1 unless it bypasses it or stores (R178, R181). -/
def State.fillCaches (s : State) (core hint : Nat) (l1 : Bool) (parts : List (Nat × Nat)) : State :=
  let ls := linesOf parts
  if ls.isEmpty then s
  else
    let die := dieOf core
    let s := { s with l2 := insert s.l2 die (ls.foldl (touchLine l2Lines hint) (findD s.l2 die [])) }
    if l1 && hint ≠ 3 then s.modCore core fun k => { k with l1 := ls.foldl (touchLine l1Lines hint) k.l1 } else s

end Sys2Proof.Machine
end

