-- ==== Sys2Proof/Machine/Num.lean ====
section
/-! DEFINITION. Number formats (R38 to R60): what a bit pattern means, exact values, and the one rounding every
floating-point result goes through. A finite value is ±m·2^e with natural m, so sums and products are exact (R8); a
result is rounded once, by `roundFin`. -/

namespace Sys2Proof.Machine
open Sys2Proof

/-- The exception flags of R31 FLAGS: [4] invalid, [3] divide-by-zero, [2] overflow, [1] underflow, [0] inexact. -/
abbrev Flags := BitVec 5
/-- See `Flags`. -/
def flagInvalid : Flags := 0x10
/-- See `Flags`. -/
def flagDivZero : Flags := 0x08
/-- See `Flags`. -/
def flagOverflow : Flags := 0x04
/-- See `Flags`. -/
def flagUnderflow : Flags := 0x02
/-- See `Flags`. -/
def flagInexact : Flags := 0x01

/-- The flag when b holds. -/
def flagIf (b : Bool) (f : Flags) : Flags := if b then f else 0

/-- A value of a floating-point format (R41): a NaN, an infinity, or ±m·2^e; m = 0 is a zero of the sign. -/
inductive FVal where
  | nan (signalling : Bool)
  | inf (neg : Bool)
  | fin (neg : Bool) (m : Nat) (e : Int)
  deriving DecidableEq, Repr

/-- +0. -/
def FVal.zero : FVal := .fin false 0 0

/-- A floating-point format's exponent width, mantissa width and bias (R41). -/
structure Format where
  ebits : Nat
  mbits : Nat
  bias : Nat
  deriving DecidableEq, Repr

/-- R41's parameters; the integer types have none, and f32's stand for them. -/
def formatOf : Ty → Format
  | .f64 => ⟨11, 52, 1023⟩
  | .f16 => ⟨5, 10, 15⟩
  | .bf16 => ⟨8, 7, 127⟩
  | .e4m3 => ⟨4, 3, 7⟩
  | .e5m2 => ⟨5, 2, 15⟩
  | .e2m1 => ⟨2, 1, 1⟩
  | _ => ⟨8, 23, 127⟩

/-- The format has infinities: all but e4m3 and e2m1 (R41). -/
def hasInf : Ty → Bool
  | .e4m3 | .e2m1 => false
  | _ => true

/-- The canonical NaN of R41; e2m1 has no NaN, and R47 gives +0 there. -/
def canonicalNan : Ty → Nat
  | .f64 => 0x7FF8000000000000
  | .f16 => 0x7E00
  | .bf16 => 0x7FC0
  | .e4m3 => 0x7F
  | .e5m2 => 0x7E
  | .e2m1 => 0
  | _ => 0x7FC00000

/-- The sign bit's place in a format. -/
def signWeight (t : Ty) : Nat := 2 ^ (tyBits t - 1)

/-- The code of the largest finite magnitude (R41). -/
def maxFiniteCode (t : Ty) : Nat :=
  let f := formatOf t
  match t with
  | .e4m3 => 0x7E
  | .e2m1 => 0x7
  | _ => (2 ^ f.ebits - 1) * 2 ^ f.mbits - 1

/-- The value of a bit pattern (R41, R42). -/
def decodeFloat (t : Ty) (x : Nat) : FVal :=
  let f := formatOf t
  let neg := bit x (tyBits t - 1)
  let ex := bits x (f.mbits + f.ebits - 1) f.mbits
  let m := x % 2 ^ f.mbits
  if ex = 0 then .fin neg m (1 - (f.bias : Int) - f.mbits)
  else
    let number := FVal.fin neg (2 ^ f.mbits + m) ((ex : Int) - f.bias - f.mbits)
    if ex = 2 ^ f.ebits - 1 then
      match t with
      | .e2m1 => number
      | .e4m3 => if m = 7 then .nan false else number
      | .e5m2 => if m = 0 then .inf neg else .nan false
      | _ => if m = 0 then .inf neg else .nan (m < 2 ^ (f.mbits - 1))
    else number

/-- A subnormal pattern: exponent field 0 with a nonzero mantissa (R41). -/
def isSubnormal (t : Ty) (x : Nat) : Bool :=
  let f := formatOf t
  bits x (f.mbits + f.ebits - 1) f.mbits = 0 && x % 2 ^ f.mbits ≠ 0

/-- An operand as an instruction reads it: FTZ reads a subnormal as the zero of its sign (R45). -/
def readFloat (t : Ty) (ftz : Bool) (x : Nat) : FVal :=
  if ftz && isSubnormal t x then .fin (bit x (tyBits t - 1)) 0 0 else decodeFloat t x

/-- How a result is rounded: MODE.RND, MODE.SAT and MODE.FTZ (R43 to R45). -/
structure Rounding where
  rnd : Nat
  sat : Bool
  ftz : Bool
  deriving DecidableEq, Repr

/-- The rounding a slot's MODE asks for. -/
def roundingOf (m : Half) : Rounding := ⟨modeRnd m, modeSat m, modeFtz m⟩

/-- Nearest-even, without saturation or flush: f32 atomics and the fabric root (R56, R60). -/
def nearestEven : Rounding := ⟨0, false, false⟩

/-- m ÷ 2^s rounded in the direction of RND, and whether that is inexact; `sticky` says that the exact value lies a
little above m (R43). -/
def roundShift (rnd : Nat) (neg sticky : Bool) (m s : Nat) : Nat × Bool :=
  let q := m / 2 ^ s
  let r := m % 2 ^ s
  let inexact := r ≠ 0 || sticky
  let up := match rnd with
    | 0 => s ≠ 0 && (2 * r > 2 ^ s || (2 * r = 2 ^ s && (sticky || q % 2 = 1)))
    | 1 => false
    | 2 => neg && inexact
    | _ => !neg && inexact
  (if up then q + 1 else q, inexact)

/-- m·2^e rounded to a multiple of 2^q, as a count of 2^q, and whether that is inexact. -/
def quantise (rnd : Nat) (neg sticky : Bool) (m : Nat) (e q : Int) : Nat × Bool :=
  if e < q then roundShift rnd neg sticky m (q - e).toNat
  else roundShift rnd neg sticky (m * 2 ^ (e - q).toNat) 0

/-- The pattern of k·2^q, a value the format holds with k below 2^(mbits + 1), or equal to it after a carry. -/
def encodeMagnitude (t : Ty) (k : Nat) (q : Int) : Nat :=
  let f := formatOf t
  if k < 2 ^ f.mbits then k
  else
    let field := (q + f.mbits + f.bias).toNat
    if k < 2 ^ (f.mbits + 1) then field * 2 ^ f.mbits + (k - 2 ^ f.mbits) else (field + 1) * 2 ^ f.mbits

/-- The pattern of an infinity where the format has one; the largest finite value where it has none (R47). -/
def infinityCode (t : Ty) : Nat :=
  let f := formatOf t
  if hasInf t then (2 ^ f.ebits - 1) * 2 ^ f.mbits else maxFiniteCode t

/-- The magnitude written on overflow (R44). -/
def overflowCode (t : Ty) (r : Rounding) (neg : Bool) : Nat :=
  if r.sat || !hasInf t then maxFiniteCode t
  else match r.rnd with
    | 0 => infinityCode t
    | 1 => maxFiniteCode t
    | 2 => if neg then infinityCode t else maxFiniteCode t
    | _ => if neg then maxFiniteCode t else infinityCode t

/-- k·2^q exceeds the largest finite magnitude of t. -/
def exceeds (t : Ty) (k : Nat) (q : Int) : Bool :=
  match decodeFloat t (maxFiniteCode t) with
  | .fin _ m e => if q < e then m * 2 ^ (e - q).toNat < k else m < k * 2 ^ (q - e).toNat
  | _ => false

/-- A nonzero finite result ±m·2^e (a little above in magnitude when sticky) in type t: its pattern and the flags it
raises (R43, R44, R45). With sticky, m must have at least two more bits than the format's significand. -/
def roundFin (t : Ty) (r : Rounding) (neg : Bool) (m : Nat) (e : Int) (sticky : Bool) : Nat × Flags :=
  let f := formatOf t
  let sign := if neg then signWeight t else 0
  let emin : Int := 1 - (f.bias : Int)
  let qFree : Int := e + (numBits m : Int) - 1 - f.mbits
  let (kFree, _) := quantise r.rnd neg sticky m e qFree
  let tiny := qFree + (numBits kFree : Int) - 1 < emin
  let q := max qFree (emin - f.mbits)
  let (k, inexact) := quantise r.rnd neg sticky m e q
  if exceeds t kFree qFree then (sign + overflowCode t r neg, flagOverflow ||| flagInexact)
  else if tiny && r.ftz then (sign, flagUnderflow ||| flagInexact)
  else (sign + encodeMagnitude t k q, flagIf inexact flagInexact ||| flagIf (tiny && inexact) flagUnderflow)

/-- A result value in type t (R43 to R47): NaN is canonical, an infinity a type does not have is its largest finite value
with overflow and inexact. -/
def writeFloat (t : Ty) (r : Rounding) (v : FVal) : Nat × Flags :=
  match v with
  | .nan _ => (canonicalNan t, flagIf (t = .e2m1) flagInvalid)
  | .inf neg =>
    ((if neg then signWeight t else 0) + infinityCode t, flagIf (!hasInf t) (flagOverflow ||| flagInexact))
  | .fin neg m e => if m = 0 then (if neg then signWeight t else 0, 0) else roundFin t r neg m e false

/-! ### Exact arithmetic -/

/-- A quiet NaN where either operand is a NaN; its flag is invalid when one is signalling (R46). -/
def isNan : FVal → Bool
  | .nan _ => true
  | _ => false

/-- A signalling NaN. -/
def isSignalling : FVal → Bool
  | .nan s => s
  | _ => false

/-- Zero of either sign. -/
def isZero : FVal → Bool
  | .fin _ m _ => m = 0
  | _ => false

/-- The sign of a number; false for a NaN. -/
def isNeg : FVal → Bool
  | .nan _ => false
  | .inf n => n
  | .fin n _ _ => n

/-- The number with its sign changed. -/
def negate : FVal → FVal
  | .nan s => .nan s
  | .inf n => .inf (!n)
  | .fin n m e => .fin (!n) m e

/-- The magnitude. -/
def magnitude : FVal → FVal
  | .nan s => .nan s
  | .inf _ => .inf false
  | .fin _ m e => .fin false m e

/-- The signed significand of a finite value at exponent e. -/
def scaledAt (v : FVal) (e : Int) : Int :=
  match v with
  | .fin neg m e' => let x : Int := m * 2 ^ (e' - e).toNat; if neg then -x else x
  | _ => 0

/-- The exponent of a finite value. -/
def expOf : FVal → Int
  | .fin _ _ e => e
  | _ => 0

/-- The exact value x·2^e, x signed; an exact zero is of sign `zeroNeg`. -/
def ofSigned (x e : Int) (zeroNeg : Bool) : FVal :=
  if x = 0 then .fin zeroNeg 0 0 else .fin (x < 0) x.natAbs e

/-- The exact sum of two values, with R46's flags; the sign of an exact zero is R101's. -/
def addExact (rnd : Nat) (a b : FVal) : FVal × Flags :=
  match a, b with
  | .nan s, y => (.nan false, flagIf (s || isSignalling y) flagInvalid)
  | _, .nan s => (.nan false, flagIf s flagInvalid)
  | .inf x, .inf y => if x = y then (.inf x, 0) else (.nan false, flagInvalid)
  | .inf x, _ => (.inf x, 0)
  | _, .inf y => (.inf y, 0)
  | .fin na ma ea, .fin nb mb eb =>
    let e := min ea eb
    let x := scaledAt (.fin na ma ea) e + scaledAt (.fin nb mb eb) e
    let zeroNeg := if ma = 0 && mb = 0 && na = nb then na else rnd = 2
    (ofSigned x e zeroNeg, 0)

/-- The exact product of two values, with R46's flags. -/
def mulExact (a b : FVal) : FVal × Flags :=
  match a, b with
  | .nan s, y => (.nan false, flagIf (s || isSignalling y) flagInvalid)
  | _, .nan s => (.nan false, flagIf s flagInvalid)
  | .inf x, y => if isZero y then (.nan false, flagInvalid) else (.inf (x ^^ isNeg y), 0)
  | x, .inf y => if isZero x then (.nan false, flagInvalid) else (.inf (isNeg x ^^ y), 0)
  | .fin na ma ea, .fin nb mb eb => (.fin (na ^^ nb) (ma * mb) (ea + eb), 0)

/-- a × b + d, formed exactly (R60, R101). -/
def fmaExact (rnd : Nat) (a b d : FVal) : FVal × Flags :=
  let (p, f) := mulExact a b
  let (s, g) := addExact rnd p d
  (s, f ||| g)

/-- A rounded binary or fused operation: the exact value, then one rounding (R101). -/
def rounded (t : Ty) (r : Rounding) (x : FVal × Flags) : Nat × Flags :=
  let (y, g) := writeFloat t r x.1
  (y, x.2 ||| g)

/-- a < b for two numbers (neither a NaN); −0 = +0. -/
def ltFloat (a b : FVal) : Bool :=
  match a, b with
  | .inf na, .inf nb => na && !nb
  | .inf na, _ => na
  | _, .inf nb => !nb
  | a, b => let e := min (expOf a) (expOf b); scaledAt a e < scaledAt b e

/-- a = b for two numbers (neither a NaN); −0 = +0. -/
def eqFloat (a b : FVal) : Bool := !isNan a && !isNan b && !ltFloat a b && !ltFloat b a

/-- minimumNumber and maximumNumber with the device's NaN rule (R102): the operand chosen, or a NaN. -/
def pickFloat (larger : Bool) (a b : FVal) : FVal × Flags :=
  let fl := flagIf (isSignalling a || isSignalling b) flagInvalid
  if isNan a && isNan b then (.nan false, fl)
  else if isNan a then (b, fl)
  else if isNan b then (a, fl)
  else
    let aLess := ltFloat a b || (eqFloat a b && isNeg a && !isNeg b)
    (if aLess then (if larger then b else a) else (if larger then a else b), 0)

/-! ### Reciprocal, roots and transcendental functions (R100, R105) -/

/-- The integer square root, one bit of the result at a time from bit n down. -/
def isqrtFrom : (n x r : Nat) → Nat
  | 0, x, r => if (r + 1) * (r + 1) ≤ x then r + 1 else r
  | n + 1, x, r =>
    let s := r + 2 ^ (n + 1)
    isqrtFrom n x (if s * s ≤ x then s else r)

/-- Floor(√x). -/
def isqrt (x : Nat) : Nat := isqrtFrom (numBits x / 2 + 1) x 0

/-- A finite result that may be inexact: ±m·2^e, a little above when sticky. -/
structure Approx where
  neg : Bool
  m : Nat
  e : Int
  sticky : Bool

/-- Round an approximation whose m has bits to spare. -/
def roundApprox (t : Ty) (r : Rounding) (a : Approx) : Nat × Flags :=
  if a.m = 0 && !a.sticky then (if a.neg then signWeight t else 0, 0) else roundFin t r a.neg a.m a.e a.sticky

/-- 1 ÷ (m·2^e) for m > 0, with p bits to spare. -/
def recipApprox (neg : Bool) (m : Nat) (e : Int) (p : Nat) : Approx :=
  let k := numBits m + p
  ⟨neg, 2 ^ k / m, -(k : Int) - e, 2 ^ k % m ≠ 0⟩

/-- m·2^e with an even exponent, and m of at least 2p bits. -/
def evenScaled (m : Nat) (e : Int) (p : Nat) : Nat × Int :=
  let s := 2 * p + (if e % 2 = 0 then 0 else 1)
  (m * 2 ^ s, e - s)

/-- √(m·2^e) for m > 0. -/
def sqrtApprox (m : Nat) (e : Int) (p : Nat) : Approx :=
  let (m', e') := evenScaled m e p
  let r := isqrt m'
  ⟨false, r, e' / 2, r * r ≠ m'⟩

/-- 1 ÷ √(m·2^e) for m > 0. -/
def rsqrtApprox (m : Nat) (e : Int) (p : Nat) : Approx :=
  let m' := if e % 2 = 0 then m else 2 * m
  let e' := if e % 2 = 0 then e else e - 1
  let k := numBits m' + p
  let r := isqrt (2 ^ (2 * k) / m')
  ⟨false, r, -(k : Int) - e' / 2, r * r * m' ≠ 2 ^ (2 * k)⟩

/-- The fixed-point precision in which the transcendental functions are formed (log 14). -/
def fixBits : Nat := 360

/-- Floor(ln 2 × 2^360). -/
def ln2Fix : Nat := 0xb17217f7d1cf79abc9e3b39803f2f6af40f343267298b62d8a0d175b8baafa2be7b876206debac98559552fb4a

/-- Floor(π × 2^360). -/
def piFix : Nat := 0x3243f6a8885a308d313198a2e03707344a4093822299f31d0082efa98ec4e6c89452821e638d01377be5466cf34

/-- Σ over k of terms of a series: each next term is the last × y ÷ 2^360 ÷ (divisor k), with alternating sign when
`alt`. -/
def series (alt : Bool) (divisor : Nat → Nat) (y : Nat) : (n k term : Nat) → (neg : Bool) → Int
  | 0, _, _, _ => 0
  | n + 1, k, term, neg =>
    (if neg then -(term : Int) else term) +
      series alt divisor y n (k + 1) (term * y / 2 ^ fixBits / divisor k) (alt && !neg)

/-- exp(y ÷ 2^360) × 2^360 for y below 2^360. -/
def expFix (y : Nat) : Nat := (series false (fun k => k + 1) y 90 0 (2 ^ fixBits) false).toNat

/-- sin(y ÷ 2^360) × 2^360 for y up to π/2 × 2^360. -/
def sinFix (y : Nat) : Nat :=
  (series true (fun k => (2 * k + 2) * (2 * k + 3)) (y * y / 2 ^ fixBits) 50 0 y false).toNat

/-- Σ over odd k of z^k ÷ k in fixed point, the series of atanh. -/
def atanhFix (z2 : Nat) : (n k z : Nat) → Nat
  | 0, _, _ => 0
  | n + 1, k, z => z / k + atanhFix z2 n (k + 2) (z * z2 / 2 ^ fixBits)

/-- log₂ of m ÷ 2^n for 2^n ≤ m < 2^(n+1), in fixed point. -/
def log2Fix (m n : Nat) : Nat :=
  let z := (m - 2 ^ n) * 2 ^ fixBits / (m + 2 ^ n)
  2 * atanhFix (z * z / 2 ^ fixBits) 120 1 z * 2 ^ fixBits / ln2Fix

/-- 2^(±m·2^e) for m > 0: exact for an integer, and past ±2^20 only beyond every format's range. -/
def exp2Approx (neg : Bool) (m : Nat) (e : Int) : Approx :=
  if (numBits m : Int) + e > 21 then ⟨false, 2 ^ 80, if neg then -(2 ^ 20) else 2 ^ 20, true⟩
  else if 0 ≤ e then
    let n : Int := m * 2 ^ e.toNat
    ⟨false, 1, if neg then -n else n, false⟩
  else
    let w := 2 ^ (-e).toNat
    let n : Int := if neg then -(((m + w - 1) / w : Nat) : Int) else (m / w : Nat)
    let frac := if neg then (w - m % w) % w else m % w
    if frac = 0 then ⟨false, 1, n, false⟩
    else ⟨false, expFix (frac * 2 ^ fixBits / w * ln2Fix / 2 ^ fixBits), n - fixBits, true⟩

/-- log₂(m·2^e) for m > 0: exact for a power of two. -/
def log2Approx (m : Nat) (e : Int) : Approx :=
  let n := numBits m - 1
  let whole : Int := e + n
  if m = 2 ^ n then ⟨whole < 0, whole.natAbs, 0, false⟩
  else
    let x : Int := whole * 2 ^ fixBits + log2Fix m n
    if x < 0 then ⟨true, (-x).toNat - 1, -(fixBits : Int), true⟩ else ⟨false, x.toNat, -(fixBits : Int), true⟩

/-- sin of r ÷ w quarter turns for r below 4w, in turns: exact at the quarter turns. -/
def sinQuarters (r w : Nat) : Approx :=
  let up (x : Nat) (neg : Bool) : Approx :=
    if x = 0 then ⟨neg, 0, 0, false⟩
    else if x = w then ⟨neg, 1, 0, false⟩
    else ⟨neg, sinFix (piFix * x / (2 * w)), -(fixBits : Int), true⟩
  if r ≤ w then up r false
  else if r ≤ 2 * w then up (2 * w - r) false
  else if r ≤ 3 * w then up (r - 2 * w) true
  else up (4 * w - r) true

/-- sin or cos of ±m·2^e turns (R100). The sign of a zero is the entry's (R105). -/
def turnApprox (cosine neg : Bool) (m : Nat) (e : Int) : Approx :=
  let w := 2 ^ (-e).toNat
  let r := if 0 ≤ e then 0 else 4 * (m % w)
  let r' := if neg then (4 * w - r) % (4 * w) else r
  let a := sinQuarters (if cosine then (r' + w) % (4 * w) else r') w
  if a.m = 0 then ⟨if cosine then false else neg, 0, 0, false⟩ else a

/-! ### Conversions (R47, R106) -/

/-- The integer nearest to v in the direction of RND, clamped to type t, with R47's flags. -/
def floatToInt (t : Ty) (rnd : Nat) (v : FVal) : Int × Flags :=
  let w := tyBits t
  let lo : Int := if tySigned t then -(2 ^ (w - 1) : Nat) else 0
  let hi : Int := if tySigned t then (2 ^ (w - 1) : Nat) - 1 else (2 ^ w : Nat) - 1
  match v with
  | .nan _ => (0, flagInvalid)
  | .inf neg => (if neg then lo else hi, flagInvalid)
  | .fin neg m e =>
    let (k, inexact) := quantise rnd neg false m e 0
    let x : Int := if neg then -(k : Int) else k
    if x < lo then (lo, flagInvalid)
    else if hi < x then (hi, flagInvalid)
    else (x, flagIf inexact flagInexact)

/-- The exact value of an integer. -/
def ofInt (x : Int) : FVal := .fin (x < 0) x.natAbs 0

end Sys2Proof.Machine
end

