-- ==== Sys2Proof/Machine/Lanes.lean ====
section
/-! DEFINITION. What each arithmetic, conversion and lane instruction computes from its operands (R81 to R118), as plain
functions of register contents: the machine calls them when a word executes, and the value store when an entry is
published (R71). A lane's operand is its raw bits: 32, or 64 for a register pair. -/

namespace Sys2Proof.Machine
open Sys2Proof

/-- What a computation reads: the slot's MODE, the effective mask, the lanes to produce, and the raw bits of A, B and D
by lane. -/
structure Args where
  mode : Half
  mask : Word
  outs : List Nat
  a : Nat → Nat
  b : Nat → Nat
  d : Nat → Nat

/-- What it produces: for each lane produced its raw bits and the flags it raises. -/
abbrev Results := List (Nat × Nat × Flags)

/-- The element type of the slot's MODE. -/
def Args.ty (x : Args) : Ty := tyOf x.mode

/-- The rounding of the slot's MODE. -/
def Args.rounding (x : Args) : Rounding := roundingOf x.mode

/-- One result for each lane to be produced. -/
def perLane (x : Args) (f : (a b d : Nat) → Nat × Flags) : Results :=
  x.outs.map fun l => (l, f (x.a l) (x.b l) (x.d l))

/-- The same result in every lane to be produced. -/
def uniform (x : Args) (r : Nat × Flags) : Results := x.outs.map fun l => (l, r)

/-! ### Integers (R40, R80 to R89) -/

/-- Int(x, T) of R81. -/
def intOf (t : Ty) (x : Nat) : Int := if tySigned t then signedOf (tyBits t) x else ((x % 2 ^ tyBits t : Nat) : Int)

/-- Write(x, T): the w-bit result with R38's fill of the bits above w. -/
def fill (t : Ty) (x : Int) : Nat :=
  let w := tyBits t
  let y := wrapTo w x
  if w < 32 && tySigned t then wrapTo 32 (signedOf w y) else y

/-- The least and greatest integer of a type (R40). -/
def intMin (t : Ty) : Int := if tySigned t then -((2 ^ (tyBits t - 1) : Nat) : Int) else 0
/-- See `intMin`. -/
def intMax (t : Ty) : Int :=
  if tySigned t then ((2 ^ (tyBits t - 1) : Nat) : Int) - 1 else ((2 ^ tyBits t : Nat) : Int) - 1

/-- Reduce(x, T) of R81: wrap, or clamp under MODE.SAT. -/
def reduceInt (t : Ty) (sat : Bool) (x : Int) : Int :=
  if sat then max (intMin t) (min (intMax t) x) else intOf t (wrapTo (tyBits t) x)

/-- An integer computation reduced to T and written (R81). -/
def intResult (x : Args) (v : Int) : Nat × Flags := (fill x.ty (reduceInt x.ty (modeSat x.mode) v), 0)

/-- A w-bit pattern written without reduction (R85). -/
def bitResult (x : Args) (v : Nat) : Nat × Flags := (fill x.ty (v % 2 ^ tyBits x.ty : Nat), 0)

/-- IADD (R81). -/
def laneIadd (x : Args) : Results := perLane x fun a b _ => intResult x (intOf x.ty a + intOf x.ty b)
/-- ISUB (R81). -/
def laneIsub (x : Args) : Results := perLane x fun a b _ => intResult x (intOf x.ty a - intOf x.ty b)
/-- IMUL (R81). -/
def laneImul (x : Args) : Results := perLane x fun a b _ => intResult x (intOf x.ty a * intOf x.ty b)
/-- IMULH: the upper half of the exact product; SAT ignored (R82). -/
def laneImulh (x : Args) : Results := perLane x fun a b _ =>
  let w := tyBits x.ty
  (fill x.ty (wrapTo (2 * w) (intOf x.ty a * intOf x.ty b) / 2 ^ w : Nat), 0)
/-- IMAD: one exact sum, one reduction (R81). -/
def laneImad (x : Args) : Results :=
  perLane x fun a b d => intResult x (intOf x.ty a * intOf x.ty b + intOf x.ty d)
/-- IMIN (R81). -/
def laneImin (x : Args) : Results := perLane x fun a b _ => intResult x (min (intOf x.ty a) (intOf x.ty b))
/-- IMAX (R81). -/
def laneImax (x : Args) : Results := perLane x fun a b _ => intResult x (max (intOf x.ty a) (intOf x.ty b))
/-- IABS (R83). -/
def laneIabs (x : Args) : Results := perLane x fun a _ _ => intResult x ((intOf x.ty a).natAbs : Int)
/-- INEG (R83). -/
def laneIneg (x : Args) : Results := perLane x fun a _ _ => intResult x (-intOf x.ty a)
/-- IADDI (R84). -/
def laneIaddi (i : BitVec 16) (x : Args) : Results := perLane x fun _ _ d => intResult x (intOf x.ty d + i.toInt)
/-- MOVI (R84). -/
def laneMovi (i : BitVec 16) (x : Args) : Results := perLane x fun _ _ _ => intResult x i.toInt
/-- MOVHI (R84). -/
def laneMovhi (i : BitVec 16) (x : Args) : Results := perLane x fun _ _ d => (i.toNat * 65536 + d % 65536, 0)
/-- AND (R85). -/
def laneAnd (x : Args) : Results := perLane x fun a b _ => bitResult x (a &&& b)
/-- OR (R85). -/
def laneOr (x : Args) : Results := perLane x fun a b _ => bitResult x (a ||| b)
/-- XOR (R85). -/
def laneXor (x : Args) : Results := perLane x fun a b _ => bitResult x (a ^^^ b)
/-- NOT (R85). -/
def laneNot (x : Args) : Results := perLane x fun a _ _ =>
  bitResult x (2 ^ tyBits x.ty - 1 - a % 2 ^ tyBits x.ty)
/-- SHL: the count is all 32 bits of B (R86). -/
def laneShl (x : Args) : Results := perLane x fun a b _ =>
  let w := tyBits x.ty
  let c := b % 2 ^ 32
  bitResult x (if w ≤ c then 0 else a % 2 ^ w * 2 ^ c)
/-- SHR (R86). -/
def laneShr (x : Args) : Results := perLane x fun a b _ =>
  let w := tyBits x.ty
  let c := b % 2 ^ 32
  bitResult x (if w ≤ c then 0 else a % 2 ^ w / 2 ^ c)
/-- SAR (R86). -/
def laneSar (x : Args) : Results := perLane x fun a b _ =>
  let w := tyBits x.ty
  let c := min (b % 2 ^ 32) w
  bitResult x (wrapTo w (signedOf w a / ((2 ^ c : Nat) : Int)))
/-- ROL (R86). -/
def laneRol (x : Args) : Results := perLane x fun a b _ =>
  let w := tyBits x.ty
  let k := b % 2 ^ 32 % w
  bitResult x (a % 2 ^ w * 2 ^ k % 2 ^ w ||| a % 2 ^ w / 2 ^ (w - k))
/-- POPC: an n32 count (R87). -/
def lanePopc (x : Args) : Results := perLane x fun a _ _ => (popCount (tyBits x.ty) a, 0)
/-- CLZ (R87). -/
def laneClz (x : Args) : Results := perLane x fun a _ _ => (tyBits x.ty - numBits (a % 2 ^ tyBits x.ty), 0)
/-- BREV (R85). -/
def laneBrev (x : Args) : Results := perLane x fun a _ _ =>
  let w := tyBits x.ty
  bitResult x ((List.range w).map fun i => if bit a i then 2 ^ (w - 1 - i) else 0).sum

/-- The field position p and length n that a control word names within w bits (R88). -/
def fieldOf (w c : Nat) : Nat × Nat :=
  let p := min (c % 256) w
  (p, min (c / 256 % 256) (w - p))

/-- BFE (R88). -/
def laneBfe (x : Args) : Results := perLane x fun a b _ =>
  let (p, n) := fieldOf (tyBits x.ty) b
  let f := a / 2 ^ p % 2 ^ n
  bitResult x (if n = 0 then 0 else if tySigned x.ty then wrapTo (tyBits x.ty) (signedOf n f) else f)
/-- BFI (R88). -/
def laneBfi (x : Args) : Results := perLane x fun a b d =>
  let w := tyBits x.ty
  let (p, n) := fieldOf w b
  let old := d % 2 ^ w
  bitResult x (old - old / 2 ^ p % 2 ^ n * 2 ^ p + a % 2 ^ n * 2 ^ p)
/-- PRMT (R89). -/
def lanePrmt (x : Args) : Results := perLane x fun a b d =>
  let byte (i : Nat) : Nat :=
    let nib := b / 2 ^ (4 * i) % 16
    let k := nib % 8
    let y := if k < 4 then a / 2 ^ (8 * k) % 256 else d / 2 ^ (8 * (k - 4)) % 256
    if 8 ≤ nib then (if 128 ≤ y then 255 else 0) else y
  (byte 0 + 256 * byte 1 + 65536 * byte 2 + 16777216 * byte 3, 0)

/-! ### Floating point (R100 to R105) -/

/-- An operand as the float group reads it (R45, R101). -/
def Args.read (x : Args) (v : Nat) : FVal := readFloat x.ty (modeFtz x.mode) v

/-- FADD (R101). -/
def laneFadd (x : Args) : Results := perLane x fun a b _ =>
  rounded x.ty x.rounding (addExact (modeRnd x.mode) (x.read a) (x.read b))
/-- FSUB (R101). -/
def laneFsub (x : Args) : Results := perLane x fun a b _ =>
  rounded x.ty x.rounding (addExact (modeRnd x.mode) (x.read a) (negate (x.read b)))
/-- FMUL (R101). -/
def laneFmul (x : Args) : Results := perLane x fun a b _ =>
  rounded x.ty x.rounding (mulExact (x.read a) (x.read b))
/-- FMA (R101). -/
def laneFma (x : Args) : Results := perLane x fun a b d =>
  rounded x.ty x.rounding (fmaExact (modeRnd x.mode) (x.read a) (x.read b) (x.read d))
/-- FMIN (R102). -/
def laneFmin (x : Args) : Results := perLane x fun a b _ =>
  rounded x.ty x.rounding (pickFloat false (x.read a) (x.read b))
/-- FMAX (R102). -/
def laneFmax (x : Args) : Results := perLane x fun a b _ =>
  rounded x.ty x.rounding (pickFloat true (x.read a) (x.read b))
/-- FABS (R103). -/
def laneFabs (x : Args) : Results := perLane x fun a _ _ =>
  rounded x.ty x.rounding (magnitude (x.read a), flagIf (isSignalling (x.read a)) flagInvalid)
/-- FNEG (R103). -/
def laneFneg (x : Args) : Results := perLane x fun a _ _ =>
  rounded x.ty x.rounding (negate (x.read a), flagIf (isSignalling (x.read a)) flagInvalid)
/-- FRND (R104). -/
def laneFrnd (x : Args) : Results := perLane x fun a _ _ =>
  match x.read a with
  | .fin neg m e =>
    let (k, inexact) := quantise (modeRnd x.mode) neg false m e 0
    let (y, _) := writeFloat x.ty x.rounding (if 0 ≤ e then .fin neg m e else .fin neg k 0)
    (y, flagIf (e < 0 && inexact) flagInexact)
  | v => rounded x.ty x.rounding (v, flagIf (isSignalling v) flagInvalid)

/-- A one-operand function at its special operands (R105), and computed elsewhere. -/
def special (x : Args) (v : FVal) (atZero atInf : Bool → FVal × Flags)
    (finite : (neg : Bool) → (m : Nat) → (e : Int) → Nat × Flags) : Nat × Flags :=
  match v with
  | .nan s => (canonicalNan x.ty, flagIf s flagInvalid)
  | .inf neg => rounded x.ty x.rounding (atInf neg)
  | .fin neg m e => if m = 0 then rounded x.ty x.rounding (atZero neg) else finite neg m e

/-- NaN with invalid. -/
def invalidNan : FVal × Flags := (.nan false, flagInvalid)

/-- Bits of precision to spare for a correctly rounded quotient or root of T. -/
def Args.spare (x : Args) : Nat := (formatOf x.ty).mbits + 4

/-- RCP (R101, R105). -/
def laneRcp (x : Args) : Results := perLane x fun a _ _ =>
  special x (x.read a) (fun neg => (.inf neg, flagDivZero)) (fun neg => (.fin neg 0 0, 0))
    fun neg m e => roundApprox x.ty x.rounding (recipApprox neg m e x.spare)
/-- RSQ (R101, R105). -/
def laneRsq (x : Args) : Results := perLane x fun a _ _ =>
  special x (x.read a) (fun neg => (.inf neg, flagDivZero))
    (fun neg => if neg then invalidNan else (.zero, 0))
    fun neg m e => if neg then rounded x.ty x.rounding invalidNan
      else roundApprox x.ty x.rounding (rsqrtApprox m e x.spare)
/-- SQRT (R101, R105). -/
def laneSqrt (x : Args) : Results := perLane x fun a _ _ =>
  special x (x.read a) (fun neg => (.fin neg 0 0, 0)) (fun neg => if neg then invalidNan else (.inf false, 0))
    fun neg m e => if neg then rounded x.ty x.rounding invalidNan
      else roundApprox x.ty x.rounding (sqrtApprox m e x.spare)
/-- EX2 (R101, R105). -/
def laneEx2 (x : Args) : Results := perLane x fun a _ _ =>
  special x (x.read a) (fun _ => (.fin false 1 0, 0)) (fun neg => (if neg then .zero else .inf false, 0))
    fun neg m e => roundApprox x.ty x.rounding (exp2Approx neg m e)
/-- LG2 (R101, R105). -/
def laneLg2 (x : Args) : Results := perLane x fun a _ _ =>
  special x (x.read a) (fun _ => (.inf true, flagDivZero)) (fun neg => if neg then invalidNan else (.inf false, 0))
    fun neg m e => if neg then rounded x.ty x.rounding invalidNan
      else roundApprox x.ty x.rounding (log2Approx m e)
/-- SIN (R101, R105). -/
def laneSin (x : Args) : Results := perLane x fun a _ _ =>
  special x (x.read a) (fun neg => (.fin neg 0 0, 0)) (fun _ => invalidNan)
    fun neg m e => roundApprox x.ty x.rounding (turnApprox false neg m e)
/-- COS (R101, R105). -/
def laneCos (x : Args) : Results := perLane x fun a _ _ =>
  special x (x.read a) (fun _ => (.fin false 1 0, 0)) (fun _ => invalidNan)
    fun neg m e => roundApprox x.ty x.rounding (turnApprox true neg m e)

/-! ### Conversion and packing (R106 to R111) -/

/-- CVT of one element from type `src` to type `dst`, the pattern without R38's fill (R47, R106). -/
def convert (src dst : Ty) (r : Rounding) (x : Nat) : Nat × Flags :=
  if tyInt dst then
    if tyInt src then (wrapTo (tyBits dst) (reduceInt dst r.sat (intOf src x)), 0)
    else
      let (v, f) := floatToInt dst r.rnd (readFloat src r.ftz x)
      (wrapTo (tyBits dst) v, f)
  else
    if tyInt src then writeFloat dst r (ofInt (intOf src x))
    else
      let v := readFloat src r.ftz x
      let (y, f) := writeFloat dst r v
      (y, f ||| flagIf (isSignalling v) flagInvalid)

/-- A pattern of type t written to a lane, with R38's fill. -/
def fillPattern (t : Ty) (x : Nat) : Nat := if tyInt t then fill t (x : Int) else x

/-- CVT (R106). -/
def laneCvt (code : BitVec 4) (x : Args) : Results := perLane x fun a _ _ =>
  let (y, f) := convert ((tyOfCode code).getD .i32) x.ty x.rounding a
  (fillPattern x.ty y, f)

/-- The type the sources of PK2 and PK4 are read as, and UPK widens to (R109, R110). -/
def packSource (t : Ty) : Ty :=
  match t with
  | .i8 | .i16 => .i32
  | .n8 | .n16 => .n32
  | _ => .f32

/-- PK2 (R109). -/
def lanePk2 (x : Args) : Results := perLane x fun a b _ =>
  let (p, f) := convert (packSource x.ty) x.ty x.rounding (a % 2 ^ 32)
  let (q, g) := convert (packSource x.ty) x.ty x.rounding (b % 2 ^ 32)
  (p + 65536 * q, f ||| g)
/-- PK4 (R109): A and B are pairs. -/
def lanePk4 (x : Args) : Results := perLane x fun a b _ =>
  let w := 2 ^ tyBits x.ty
  let (p, f) := convert (packSource x.ty) x.ty x.rounding (a % 2 ^ 32)
  let (q, g) := convert (packSource x.ty) x.ty x.rounding (a / 2 ^ 32 % 2 ^ 32)
  let (u, h) := convert (packSource x.ty) x.ty x.rounding (b % 2 ^ 32)
  let (v, k) := convert (packSource x.ty) x.ty x.rounding (b / 2 ^ 32 % 2 ^ 32)
  (p + w * q + w * w * u + w * w * w * v, f ||| g ||| h ||| k)
/-- UPK (R110): the widening is exact. -/
def laneUpk (p : BitVec 2) (x : Args) : Results := perLane x fun a _ _ =>
  let w := tyBits x.ty
  convert x.ty (packSource x.ty) x.rounding (a / 2 ^ (w * p.toNat) % 2 ^ w)

/-- The code of the smallest block scale at or above m·2^e ÷ MaxFinite(T), and whether it is larger (R111). -/
def scaleCode (t : Ty) (m : Nat) (e : Int) : Nat × Flags :=
  match decodeFloat t (maxFiniteCode t) with
  | .fin _ mm me =>
    -- q = (m / mm) · 2^(e − me); candidate scales are 2·2^(E−128) and 3·2^(E−128) for E in 1..254
    let atLeast (c : Nat) : Ordering :=
      -- compares (2 + mbit) · 2^(E − 128) × mm with m · 2^(e − me)
      let s := (2 + c % 2) * mm
      let p : Int := (c / 2 : Nat) - 128
      let q : Int := e - me
      if p ≤ q then compare s (m * 2 ^ (q - p).toNat) else compare (s * 2 ^ (p - q).toNat) m
    match ((List.range 508).map (· + 2)).find? fun c => atLeast c != .lt with
    | some c => (c, flagIf (atLeast c == .gt) flagInexact)
    | none => (0x1FD, flagOverflow ||| flagInexact)
  | _ => (0x0FE, 0)

/-- BSCL's rule on the maximum magnitude of a block (R111, R142). -/
def blockScale (t : Ty) (m : FVal) : Nat × Flags :=
  match m with
  | .fin _ m e => if m = 0 then (0x0FE, 0) else scaleCode t m e
  | _ => (0x1FF, flagInvalid)

/-- BSCL (R111). -/
def laneBscl (x : Args) : Results := perLane x fun a b _ =>
  let u := magnitude (readFloat .f32 (modeFtz x.mode) (a % 2 ^ 32))
  let v := magnitude (readFloat .f32 (modeFtz x.mode) (b % 2 ^ 32))
  blockScale x.ty (if isNan u || isNan v then .nan false else if ltFloat u v then v else u)

/-! ### Lanes (R112 to R118) -/

/-- SHFL: the source lane of lane l (R113); none where the lane keeps A. -/
def shflLane (_l c : Nat) : Option Nat := some (c % 32)
/-- SHFLU (R113). -/
def shfluLane (l c : Nat) : Option Nat := if l < c then none else some (l - c)
/-- SHFLD (R113). -/
def shfldLane (l c : Nat) : Option Nat := if 31 < l + c then none else some (l + c)
/-- SHFLX (R113). -/
def shflxLane (l c : Nat) : Option Nat := some (l ^^^ (c % 32))

/-- A shuffle by a rule for the source lane. -/
def shuffle (rule : Nat → Nat → Option Nat) (x : Args) : Results :=
  x.outs.map fun l => (l, x.a ((rule l (x.b l % 2 ^ 32)).getD l), 0)

/-- RDLANE (R114). -/
def laneRdlane (x : Args) : Results := uniform x (x.a (x.b 0 % 32), 0)
/-- WRLANE (R114). -/
def laneWrlane (x : Args) : Results := x.outs.map fun l => (l, if l = x.b 0 % 32 then x.a l else 0, 0)

/-- The three combinations of REDADD, REDMIN and REDMAX, and of SCAN (R117, R118). -/
inductive Combine where
  | add | min | max
  deriving DecidableEq, Repr

/-- One combination under MODE: Reduce per node for integers, a rounding per node for floats (R117). -/
def combine (c : Combine) (x : Args) (a b : Nat) : Nat × Flags :=
  if tyInt x.ty then
    let u := intOf x.ty a
    let v := intOf x.ty b
    intResult x (match c with | .add => u + v | .min => Min.min u v | .max => Max.max u v)
  else
    let u := decodeFloat x.ty a
    let v := decodeFloat x.ty b
    match c with
    | .add => rounded x.ty x.rounding (addExact (modeRnd x.mode) u v)
    | .min => rounded x.ty x.rounding (pickFloat false u v)
    | .max => rounded x.ty x.rounding (pickFloat true u v)

/-- A lane's value as a reduction or scan reads it, and the flag that reading raises: FTZ flushes a float once, as it is read
(R117), and a NaN is the canonical one, signalling or not (R46). -/
def Args.element (x : Args) (l : Nat) : Nat × Flags :=
  let v := x.a l
  if tyInt x.ty then (fill x.ty (intOf x.ty v), 0)
  else
    let w := v % 2 ^ tyBits x.ty
    match decodeFloat x.ty w with
    | .nan signalling => (canonicalNan x.ty, flagIf signalling flagInvalid)
    | _ => (if modeFtz x.mode && isSubnormal x.ty w then (if bit w (tyBits x.ty - 1) then signWeight x.ty else 0) else w, 0)

/-- One level of the tree of R58: neighbours combined in pairs; none is an absent lane. -/
def treeLevel (c : Combine) (x : Args) : List (Option Nat) → List (Option Nat) × Flags
  | u :: v :: r =>
    let (rest, f) := treeLevel c x r
    match u, v with
    | some a, some b => let (y, g) := combine c x a b; (some y :: rest, f ||| g)
    | some a, none => (some a :: rest, f)
    | none, w => (w :: rest, f)
  | l => (l, 0)

/-- The tree of R58 over a list of 2^n lanes. -/
def tree (c : Combine) (x : Args) : (n : Nat) → List (Option Nat) → Option Nat × Flags
  | 0, l => (l.head?.join, 0)
  | n + 1, l =>
    let (l', f) := treeLevel c x l
    let (r, g) := tree c x n l'
    (r, f ||| g)

/-- REDADD, REDMIN and REDMAX over the lanes of the effective mask (R58, R117). -/
def reduction (c : Combine) (x : Args) : Results :=
  let (r, f) := tree c x 5 (lanes.map fun l => if hasLane x.mask l then some (x.element l).1 else none)
  uniform x (r.getD 0, (lanesOf x.mask).foldl (fun f l => f ||| (x.element l).2) f)

/-- The identity an exclusive scan gives the first active lane (R59). -/
def identity (c : Combine) (t : Ty) : Nat :=
  if tyInt t then
    match c with
    | .add => 0
    | .min => fill t (intMax t)
    | .max => fill t (intMin t)
  else
    match c with
    | .add => 0
    | .min => infinityCode t
    | .max => signWeight t + infinityCode t

/-- The combination of the lanes so far with one lane more, and the flags raised: the first lane's value stands as it is
read. -/
def scanStep (c : Combine) (x : Args) (acc : Option Nat) (l : Nat) : Nat × Flags :=
  let (v, g) := x.element l
  match acc with
  | none => (v, g)
  | some a => let (y, f) := combine c x a v; (y, f ||| g)

/-- The inclusive scan over a list of lanes (R59): each receives the combination of those up to it. -/
def scanIncl (c : Combine) (x : Args) : List Nat → Option Nat → Results
  | [], _ => []
  | l :: r, acc => let (y, f) := scanStep c x acc l; (l, y, f) :: scanIncl c x r (some y)

/-- The exclusive scan over a list of lanes (R59): each receives what the lanes below it give, `y` with flags `f`, and a lane is
combined only where a later lane needs it. -/
def scanExcl (c : Combine) (x : Args) : List Nat → (acc : Option Nat) → (y : Nat) → (f : Flags) → Results
  | [], _, _, _ => []
  | l :: r, acc, y, f => let (z, g) := scanStep c x acc l; (l, y, f) :: scanExcl c x r (some z) z g

/-- SCAN over the lanes of the effective mask, in ascending order (R59, R118). -/
def scan (c : Combine) (excl : Bool) (x : Args) : Results :=
  if excl then scanExcl c x (lanesOf x.mask) none (identity c x.ty) 0 else scanIncl c x (lanesOf x.mask) none

/-- SCAN's operation code (R118). -/
def combineOf (o : BitVec 2) : Combine :=
  match o.toNat with
  | 0 => .add
  | 1 => .min
  | _ => .max

/-! ### CMP (R107) -/

/-- A condition on two elements of T, and the flags it raises. -/
def compareLane (c : BitVec 4) (t : Ty) (ftz : Bool) (a b : Nat) : Bool × Flags :=
  if tyInt t then
    let u := intOf t a
    let v := intOf t b
    (match c.toNat with
      | 0 => u = v | 1 => u ≠ v | 2 => u < v | 3 => u ≤ v | 4 => v < u | 5 => v ≤ u | 6 => true | _ => false, 0)
  else
    let u := readFloat t ftz a
    let v := readFloat t ftz b
    let unordered := isNan u || isNan v
    let flags := flagIf (isSignalling u || isSignalling v || (unordered && 2 ≤ c.toNat && c.toNat ≤ 5)) flagInvalid
    (match c.toNat with
      | 0 => !unordered && eqFloat u v
      | 1 => unordered || !eqFloat u v
      | 2 => !unordered && ltFloat u v
      | 3 => !unordered && !ltFloat v u
      | 4 => !unordered && ltFloat v u
      | 5 => !unordered && !ltFloat u v
      | 6 => !unordered
      | _ => unordered, flags)

/-! ### The table -/

/-- What a word with a register result computes from its operands; none for the words whose result does not come from
its operands alone. LIW takes its literal and LDK its constant from `a`. -/
def resultsOf (i : Instr) (x : Args) : Option Results :=
  match i with
  | .iadd .. => some (laneIadd x)
  | .isub .. => some (laneIsub x)
  | .imul .. => some (laneImul x)
  | .imulh .. => some (laneImulh x)
  | .imad .. => some (laneImad x)
  | .imin .. => some (laneImin x)
  | .imax .. => some (laneImax x)
  | .iabs .. => some (laneIabs x)
  | .ineg .. => some (laneIneg x)
  | .iaddi _ i => some (laneIaddi i x)
  | .movi _ i => some (laneMovi i x)
  | .movhi _ i => some (laneMovhi i x)
  | .and .. => some (laneAnd x)
  | .or .. => some (laneOr x)
  | .xor .. => some (laneXor x)
  | .not .. => some (laneNot x)
  | .shl .. => some (laneShl x)
  | .shr .. => some (laneShr x)
  | .sar .. => some (laneSar x)
  | .rol .. => some (laneRol x)
  | .popc .. => some (lanePopc x)
  | .clz .. => some (laneClz x)
  | .brev .. => some (laneBrev x)
  | .bfe .. => some (laneBfe x)
  | .bfi .. => some (laneBfi x)
  | .prmt .. => some (lanePrmt x)
  | .fadd .. => some (laneFadd x)
  | .fsub .. => some (laneFsub x)
  | .fmul .. => some (laneFmul x)
  | .fma .. => some (laneFma x)
  | .fmin .. => some (laneFmin x)
  | .fmax .. => some (laneFmax x)
  | .fabs .. => some (laneFabs x)
  | .fneg .. => some (laneFneg x)
  | .rcp .. => some (laneRcp x)
  | .rsq .. => some (laneRsq x)
  | .sqrt .. => some (laneSqrt x)
  | .ex2 .. => some (laneEx2 x)
  | .lg2 .. => some (laneLg2 x)
  | .sin .. => some (laneSin x)
  | .cos .. => some (laneCos x)
  | .frnd .. => some (laneFrnd x)
  | .cvt _ _ t => some (laneCvt t x)
  | .pk2 .. => some (lanePk2 x)
  | .pk4 .. => some (lanePk4 x)
  | .upk _ _ p => some (laneUpk p x)
  | .bscl .. => some (laneBscl x)
  | .shfl .. => some (shuffle shflLane x)
  | .shflu .. => some (shuffle shfluLane x)
  | .shfld .. => some (shuffle shfldLane x)
  | .shflx .. => some (shuffle shflxLane x)
  | .rdlane .. => some (laneRdlane x)
  | .wrlane .. => some (laneWrlane x)
  | .redadd .. => some (reduction .add x)
  | .redmin .. => some (reduction .min x)
  | .redmax .. => some (reduction .max x)
  | .scan _ _ excl o => some (scan (combineOf o) excl x)
  | .mov .. | .liw .. | .ldk .. => some (perLane x fun a _ _ => (a, 0))
  | _ => none

/-! ### Poison (R359) -/

/-- Which lanes of a word's result are computed from a poisoned lane: `pa`, `pb` and `pd` are the poisoned lanes of A, B
and D. A scalar destination and the words that read every lane of the mask involve the whole effective mask. -/
def poisonedOf (i : Instr) (x : Args) (pa pb pd : Word) : Word :=
  let all (b : Bool) : Word := if b then x.mask else 0
  match i with
  | .shfl .. => maskOf fun l => hasLane x.mask l && (hasLane pb l || hasLane pa ((shflLane l (x.b l % 2 ^ 32)).getD l))
  | .shflu .. => maskOf fun l => hasLane x.mask l && (hasLane pb l || hasLane pa ((shfluLane l (x.b l % 2 ^ 32)).getD l))
  | .shfld .. => maskOf fun l => hasLane x.mask l && (hasLane pb l || hasLane pa ((shfldLane l (x.b l % 2 ^ 32)).getD l))
  | .shflx .. => maskOf fun l => hasLane x.mask l && (hasLane pb l || hasLane pa ((shflxLane l (x.b l % 2 ^ 32)).getD l))
  | .wrlane .. => all (hasLane pb 0) ||| maskOf fun l => hasLane x.mask l && l = x.b 0 % 32 && hasLane pa l
  | .rdlane .. => all (hasLane pb 0 || hasLane pa (x.b 0 % 32))
  | .redadd .. | .redmin .. | .redmax .. => all (pa &&& x.mask ≠ 0)
  | .scan _ _ excl _ =>
    let first := lowestLane (pa &&& x.mask)
    maskOf fun l => hasLane x.mask l && (if excl then first < l else first ≤ l)
  | _ =>
    if (destOf i).any isScalar then all ((pa ||| pb ||| pd) &&& x.mask ≠ 0)
    else (pa ||| pb ||| pd) &&& x.mask

/-- Which lanes of a word's result are computed under a poisoned guard, `g` being its poisoned lanes in the mask. -/
def guardedOf (i : Instr) (g mask : Word) : Word :=
  match i with
  | .redadd .. | .redmin .. | .redmax .. | .rdlane .. => if g = 0 then 0 else mask
  | .scan .. => maskOf fun l => hasLane mask l && lowestLane g ≤ l
  | _ => if g ≠ 0 && (destOf i).any isScalar then mask else g

end Sys2Proof.Machine
end

