-- ==== Sys2Proof/Machine/Cipher.lean ====
section
/-! DEFINITION. AES-256-XTS, with which R374 encrypts every byte of memory: the functions of FIPS 197 and IEEE 1619 (log 11), over the keys
that Config leaves free. -/

namespace Sys2Proof.Machine
open Sys2Proof

/-! ### AES-256 -/

/-- The substitution box: byte n is the image of n. -/
def sBox : Nat :=
  0x16bb54b00f2d99416842e6bf0d89a18cdf2855cee9871e9b948ed9691198f8e19e1dc186b95735610ef6034866b53e708a8bbd4b1f74dde8c6b4a61c2e2578ba08ae7a65eaf4566ca94ed58d6d37c8e779e4959162acd3c25c2406490a3a32e0db0b5ede14b8ee4688902a22dc4f816073195d643d7ea7c41744975fec130ccdd2f3ff1021dab6bcf5389d928f40a351a89f3c507f02f94585334d43fbaaefd0cf584c4a39becb6a5bb1fc20ed00d153842fe329b3d63b52a05a6e1b1a2c830975b227ebe28012079a059618c323c7041531d871f1e5a534ccf73f362693fdb7c072a49cafa2d4adf04759fa7dc982ca76abd7fe2b670130c56f6bf27b777c63
/-- Its inverse. -/
def sBoxInverse : Nat :=
  0x7d0c2155631469e126d677ba7e042b17619953833cbbebc8b0f52aae4d3be0a0ef9cc9939f7ae52d0d4ab519a97f51605fec8027591012b131c7078833a8dd1ff45acd78fec0db9a2079d2c64b3e56fc1bbe18aa0e62b76f89c5291d711af1476edf751ce837f9e28535ade72274ac9673e6b4f0cecff297eadc674f4111913a6b8a130103bdafc1020f3fca8f1e2cd00645b3b80558e4f70ad3bc8c00abd890849d8da75746155edab9edfd5048706c92b6655dcc5ca4d41698688664f6f87225d18b6d49a25b76b224d92866a12e084ec3fa420b954cee3d23c2a632947b54cbe9dec444438e3487ff2f9b8239e37cfbd7f3819ea340bf38a53630d56a0952

/-- The image of a byte in a box. -/
def lookBox (box n : Nat) : Nat := box / 256 ^ n % 256

/-- Twice an element of the field. -/
def xtime (x : Nat) : Nat := if x < 128 then 2 * x else (2 * x) ^^^ 0x11B

/-- A product in the field: k has at most four bits. -/
def mulByte (k x : Nat) : Nat :=
  let term (n y : Nat) : Nat := if bit k n then y else 0
  let x2 := xtime x
  let x4 := xtime x2
  term 0 x ^^^ term 1 x2 ^^^ term 2 x4 ^^^ term 3 (xtime x4)

/-- The sum of two strings of bytes, bit by bit. -/
def xorBytes (xs ys : List Nat) : List Nat := List.zipWith (· ^^^ ·) xs ys

/-- A column times the matrix whose first row is given. -/
def mixColumn (row col : List Nat) : List Nat :=
  (List.range 4).map fun i => (List.range 4).foldl (fun acc j => acc ^^^ mulByte (row.getD ((j + 4 - i) % 4) 0) (col.getD j 0)) 0

/-- Every column of a block mixed. -/
def mixColumns (row block : List Nat) : List Nat := flatten ((List.range 4).map fun c => mixColumn row ((block.drop (4 * c)).take 4))

/-- The rows of a block, row r moved left by r · n columns. -/
def shiftRows (n : Nat) (block : List Nat) : List Nat :=
  (List.range 16).map fun i => block.getD ((i + 4 * n * (i % 4)) % 16) 0

/-- The schedule of a key of 256 bits: n words more, the newest first, of which word i is the next. -/
def expandKey : (n i rcon : Nat) → List (List Nat) → List (List Nat)
  | 0, _, _, ws => ws
  | n + 1, i, rcon, ws =>
    let last := ws.headD []
    let sub (w : List Nat) : List Nat := w.map (lookBox sBox)
    let t :=
      if i % 8 = 0 then xorBytes (sub (last.drop 1 ++ last.take 1)) [rcon, 0, 0, 0]
      else if i % 8 = 4 then sub last
      else last
    expandKey n (i + 1) (if i % 8 = 0 then xtime rcon else rcon) (xorBytes (ws.getD 7 []) t :: ws)

/-- The fifteen round keys of a key of 32 bytes. -/
def roundKeys (key : List Nat) : List (List Nat) :=
  let first := (List.range 8).map fun i => (key.drop (4 * i)).take 4
  let ws := (expandKey 52 8 1 first.reverse).reverse
  (List.range 15).map fun i => flatten ((ws.drop (4 * i)).take 4)

/-- AES-256 of a block of 16 bytes. -/
def aesEncrypt (key block : List Nat) : List Nat :=
  let ks := roundKeys key
  let start := xorBytes block (ks.headD [])
  let sub (x : List Nat) : List Nat := shiftRows 1 (x.map (lookBox sBox))
  let mid := ((ks.drop 1).take 13).foldl (fun x k => xorBytes (mixColumns [2, 3, 1, 1] (sub x)) k) start
  xorBytes (sub mid) (ks.getD 14 [])

/-- The block that AES-256 encrypts to this one. -/
def aesDecrypt (key block : List Nat) : List Nat :=
  let ks := (roundKeys key).reverse
  let sub (x : List Nat) : List Nat := (shiftRows 3 x).map (lookBox sBoxInverse)
  let mid := ((ks.drop 1).take 13).foldl (fun x k => mixColumns [14, 11, 13, 9] (xorBytes (sub x) k)) (xorBytes block (ks.headD []))
  xorBytes (sub mid) (ks.getD 14 [])

/-! ### XTS -/

/-- The n bytes of a number, least significant first. -/
def natBytes : (n x : Nat) → List Nat
  | 0, _ => []
  | n + 1, x => x % 256 :: natBytes n (x / 256)

/-- The number of a string of bytes, least significant first. -/
def bytesNat : List Nat → Nat
  | [] => 0
  | b :: bs => b + 256 * bytesNat bs

/-- The 64 bytes of a memory key: key 0 is the key of zeros that an erasure leaves (R374, R376). -/
def keyBytes (key : Nat) : List Nat := natBytes 64 (if key = 0 then 0 else Config.keyBits key)

/-- The tweak of block `n` of the data unit of a sector (R374). -/
def tweakOf (key : List Nat) (sector n : Nat) : List Nat :=
  let t := bytesNat (aesEncrypt (key.drop 32) (natBytes 16 sector))
  natBytes 16 (if n = 0 then t else if t < 2 ^ 127 then 2 * t else (2 * t) % 2 ^ 128 ^^^ 0x87)

/-- What a block of 16 bytes reads as under one key where it was written under another: the ciphertext in memory, decrypted (R374).
`a` is the block's place in its tier. -/
def recrypt (present old a : Nat) (block : List Byte) : List Byte :=
  let n := a / 16 % 2
  let k := keyBytes old
  let t := tweakOf k (a / 32) n
  let cipher := xorBytes (aesEncrypt (k.take 32) (xorBytes (block.map (·.toNat)) t)) t
  let l := keyBytes present
  let u := tweakOf l (a / 32) n
  (xorBytes (aesDecrypt (l.take 32) (xorBytes cipher u)) u).map (BitVec.ofNat 8)

end Sys2Proof.Machine
end

