-- ==== Sys2Proof/Machine/Ram.lean ====
section
/-! DEFINITION. Bytes of the two memory tiers and of a block's regions: reading and writing them, the key each block of 16
bytes is written under (R374) and the poison of sectors (R359). Every write of memory is made here. -/

namespace Sys2Proof.Machine
open Sys2Proof

/-! ### Physical addresses (R172, R173) -/

/-- The weight of the tier in a physical address number, and of the module number, bits [62:52]. -/
def tierWeight : Nat := 2 ^ 63
/-- See `tierWeight`. -/
def moduleWeight : Nat := 2 ^ 52
/-- The module a physical address names. -/
def physModule (a : Nat) : Nat := a / moduleWeight % 2048
/-- The key of `State.mem` that a physical address stands for in its home module: tier and offset. -/
def physKey (a : Nat) : Nat := a / tierWeight % 2 * moduleWeight + a % moduleWeight
/-- The bytes of a tier: 2^40 of HBM, 2^41 of the second tier (R173). -/
def tierSize (tier : Bool) : Nat := if tier then 2 ^ 41 else 2 ^ 40
/-- A memory key lies inside its tier. -/
def keyExists (k : Nat) : Bool := k % moduleWeight < tierSize (k / moduleWeight = 1) && k / moduleWeight < 2

/-! ### Byte maps -/

/-- `n` bytes from key a on; an unlisted byte reads 0 (R165, log 3). -/
def readCells (m : List Host.Cell) (a n : Nat) : List Byte := (List.range n).map fun i => findD m (a + i) 0

/-- The map with the bytes from key a on. -/
def writeCells (m : List Host.Cell) (a : Nat) : List Byte → List Host.Cell
  | [] => m
  | b :: bs => writeCells (put 0 m a b) (a + 1) bs

/-- The sectors that `n` bytes from key a touch (R186). -/
def sectorsOf (a n : Nat) : List Nat :=
  if n = 0 then [] else (List.range ((a + n - 1) / 32 - a / 32 + 1)).map (a / 32 + ·)

/-- A write of `n` bytes at key a covers sector x whole. -/
def coversSector (a n x : Nat) : Bool := decide (a ≤ 32 * x) && decide (32 * x + 32 ≤ a + n)

/-- Poison after a write (R359): a poisoned store poisons every sector it writes; an unpoisoned one clears the sectors it
covers whole. -/
def poisonAfter (ps : List Nat) (a n : Nat) (poison : Bool) : List Nat :=
  (sectorsOf a n).foldl
    (fun ps x => if poison then setAdd ps x else if coversSector a n x then setDrop ps x else ps) ps

/-- Every byte of sector x lies in one of the ranges (key, length). -/
def rangesCover (ranges : List (Nat × Nat)) (x : Nat) : Bool :=
  (List.range 32).all fun i => ranges.any fun r => decide (r.1 ≤ 32 * x + i) && decide (32 * x + i < r.1 + r.2)

/-- Poison after one write of many parts (R359): the clean ranges together clear the sectors they cover whole, and every
sector of a poisoned range is poisoned. -/
def poisonAfterAll (ps : List Nat) (clean dirty : List (Nat × Nat)) : List Nat :=
  let touched (rs : List (Nat × Nat)) : List Nat := (flatten (rs.map fun r => sectorsOf r.1 r.2)).eraseDups
  let ps := (touched clean).foldl (fun ps x => if rangesCover clean x then setDrop ps x else ps) ps
  (touched dirty).foldl setAdd ps

/-- Some sector of the `n` bytes from key a is poisoned. -/
def anyPoison (ps : List Nat) (a n : Nat) : Bool := (sectorsOf a n).any fun x => ps.contains x

/-! ### Memory -/

/-- A byte as it reads under a key: a block of 16 bytes written under another key reads as its ciphertext decrypted (R374). -/
def State.readByte (s : State) (key a : Nat) : Byte :=
  match find s.memKey (a / 16) with
  | none => findD s.mem a 0
  | some k =>
    if k = key then findD s.mem a 0
    else (recrypt key k (a % moduleWeight / 16 * 16) (readCells s.mem (a / 16 * 16) 16)).getD (a % 16) 0

/-- `n` bytes of memory under a key. -/
def State.readMem (s : State) (key a n : Nat) : List Byte := (List.range n).map fun i => s.readByte key (a + i)

/-- Blocks of 16 bytes, each encrypted on its own, that `n` bytes from key a touch (R374). -/
def blocksOf (a n : Nat) : List Nat :=
  if n = 0 then [] else (List.range ((a + n - 1) / 16 - a / 16 + 1)).map (a / 16 + ·)

/-- A block, encrypted under a key: a partial write keeps what its other bytes read as, and the block beside it in the sector keeps its
ciphertext (R374). -/
def State.rekey (s : State) (key block : Nat) : State :=
  if (find s.memKey block).any (· ≠ key) then
    { s with
      mem := writeCells s.mem (16 * block) (s.readMem key (16 * block) 16)
      memKey := insert s.memKey block key }
  else { s with memKey := insert s.memKey block key }

/-- Memory with bytes written from key a on, under a key; their poison is another operation's. -/
def State.writeBytes (s : State) (key a : Nat) (bs : List Byte) : State :=
  let s := (blocksOf a bs.length).foldl (fun s x => s.rekey key x) s
  { s with mem := writeCells s.mem a bs }

/-- Memory with bytes written from key a on, under a key, poisoned or not. -/
def State.writeMem (s : State) (key a : Nat) (bs : List Byte) (poison : Bool) : State :=
  let s := s.writeBytes key a bs
  { s with poison := poisonAfter s.poison a bs.length poison }

/-! ### Regions (R164, R165) -/

/-- The buffer code of a space (R121); SM is 3. -/
def spaceCode : Space → Nat
  | .ab => 0 | .cb => 1 | .wb => 2 | .sm => 3 | .global => 4

/-- The space of a buffer code. -/
def codeSpace (n : Nat) : Space :=
  match n with
  | 0 => .ab | 1 => .cb | 2 => .wb | _ => .sm

/-- The key of a byte of a region. -/
def regionKey (code offset : Nat) : Nat := code * 2 ^ 20 + offset

/-- `n` bytes of a region. -/
def Block.readRegion (b : Block) (code offset n : Nat) : List Byte := readCells b.regions (regionKey code offset) n

/-- The block with bytes of a region written. -/
def Block.writeRegion (b : Block) (code offset : Nat) (bs : List Byte) (poison : Bool) : Block :=
  { b with
    regions := writeCells b.regions (regionKey code offset) bs
    rpois := poisonAfter b.rpois (regionKey code offset) bs.length poison }

/-- Some sector of the bytes of a region is poisoned. -/
def Block.regionPoison (b : Block) (code offset n : Nat) : Bool := anyPoison b.rpois (regionKey code offset) n

/-- The bytes lie inside a region of that size (R165). -/
def insideRegion (size offset n : Nat) : Bool := offset + n ≤ size

/-- A 32-bit word of a region. -/
def Block.regionWord (b : Block) (code offset : Nat) : Nat := leNat (b.readRegion code offset 4)

end Sys2Proof.Machine
end

