-- ==== Sys2Proof/Machine/Events.lean ====
section
/-! DEFINITION. Events to the hosts: their header, their streams and the events that more than one family sends (R337,
R342, R354, R394). -/

namespace Sys2Proof.Machine
open Sys2Proof

/-- The stream of the hypervisor and of debug (R342). -/
def hyperStream : Nat := 16
/-- PART or QUEUE of an event that answers none (R337). -/
def noPart : Nat := 0xFFFF

/-- The bytes of an event (R337): its header, then its payload padded to a multiple of 8. -/
def eventBytes (type queue part status hseq dseq : Nat) (payload : List Byte) : List Byte :=
  let body := payload ++ zeros (roundUp payload.length 8 - payload.length)
  leBytes 1 1 ++ zeros 1 ++ leBytes 2 type ++ leBytes 2 queue ++ leBytes 2 part ++ leBytes 4 (32 + body.length) ++
    leBytes 2 status ++ zeros 2 ++ leBytes 8 hseq ++ leBytes 8 dseq ++ body

/-- Send an event on a stream (R342): it takes the next DSEQ, and the newest 4,096 are kept. -/
def sendEvent (s : State) (stream type queue part status : Nat) (payload : List Byte) : State :=
  let x := findD s.host.streams stream freshStream
  let n := x.dseq + 1
  let bytes := eventBytes type queue part status (findD s.host.queues queue freshQueue).accepted n payload
  let held := x.held ++ [(n, bytes)]
  { s with host :=
    { s.host with
      streams := insert s.host.streams stream { dseq := n, held := held.drop (held.length - 4096) }
      sent := s.host.sent ++ [(stream, bytes)] } }

/-- The record of a launch that is DONE, CANCELLED or FAILED is completed (R339). -/
def completeLaunch (s : State) (x : Launch) : State :=
  let q := 8 * x.partition + x.queue
  let hq := findD s.host.queues q freshQueue
  { s with host := { s.host with queues := insert s.host.queues q { hq with open_ := setDrop hq.open_ x.hseq } } }

/-- A LAUNCHDONE event (R394), sent once for a launch. -/
def sendLaunchDone (s : State) (l : Nat) (terminal : Nat) : State :=
  match s.launchAt l with
  | none => s
  | some x =>
    if x.reported then s
    else
      let s := sendEvent s x.partition 0x8001 (8 * x.partition + x.queue) x.partition 0
        (leBytes 4 l ++ leBytes 1 terminal ++ leBytes 1 x.reason ++ zeros 2 ++ leBytes 8 x.hseq)
      s.modLaunch l fun x => { x with reported := true }

/-- An ABORT event (R394). `wave` is 255 for a CCP. -/
def sendAbort (s : State) (b : Block) (cause wave pc : Nat) : State :=
  let p := (s.launchOf b).partition
  sendEvent s p 0x8002 noPart p 0
    (leBytes 4 b.launch ++ leBytes 4 b.blklin ++ leBytes 1 cause ++ leBytes 1 wave ++ zeros 2 ++ leBytes 4 pc)

/-- A HALTED event on stream 16 (R162, R315; its payload is not given, log 7): launch, BLKLIN, the thread and slot of a
breakpoint or 0xFF and 0, its code and its PC. -/
def sendHalted (s : State) (b : Block) (thread slot code pc : Nat) : State :=
  sendEvent s hyperStream 0x8006 noPart (s.launchOf b).partition 0
    (leBytes 4 b.launch ++ leBytes 4 b.blklin ++ leBytes 1 thread ++ leBytes 1 slot ++ leBytes 2 code ++ leBytes 4 pc)

end Sys2Proof.Machine
end

