-- ==== Sys2Proof/Machine/Pages.lean ====
section
/-! DEFINITION. Translation (R167 to R176): page-table entries and walks, the two TLBs, the checks of a leaf, and one
lane's access turned into physical parts or a fault. -/

namespace Sys2Proof.Machine
open Sys2Proof

/-! ### Entries and walks -/

/-- The physical address a leaf or table entry names, without its tier: ADDR, bits [62:13] (R173). -/
def entryAddr (e : Nat) : Nat := bits e 62 13 * 2 ^ 13

/-- An entry with V = 1 that breaks a rule of R173, at a level. -/
def malformed (module e level : Nat) : Bool :=
  let leaf := bit e 6
  let tier := bit e 5
  bit e 63 || bits e 12 7 != 0 ||
  (if leaf then
    level == 3 || entryAddr e % 2 ^ (16 + 10 * level) != 0 ||
      tierSize tier ≤ entryAddr e % moduleWeight
  else
    level == 0 || bit e 1 || bit e 2 || bit e 3 || bit e 4 || tier ||
      tierSize false ≤ entryAddr e % moduleWeight || physModule (entryAddr e) != module)

/-- The address of an entry: the table and the level's ten bits of the virtual address (R172). -/
def entryAt (table va level : Nat) : Nat := table + 8 * (va / 2 ^ (16 + 10 * level) % 1024)

/-- The leaf that an entry holds at a level, for the TLBs of a partition (R173, R175). -/
def leafOf (part e va level : Nat) : TlbEntry where
  partition := part
  log := 16 + 10 * level
  page := va / 2 ^ (16 + 10 * level)
  frame := entryAddr e + (if bit e 5 then tierWeight else 0)
  r := bit e 1
  w := bit e 2
  sealed := bit e 3
  tier := bit e 5

/-- The root of a partition's tables (R172). -/
def rootOf (p : Partition) : Nat := p.ptrooth.toNat % 2 ^ 20 * 2 ^ 32 + p.ptroot.toNat

/-- A walk from a table down the levels named (R172). Reading a poisoned sector is an uncorrectable error (R174). -/
def walkFrom (s : State) (part key va : Nat) : (levels : List Nat) → (table : Nat) → WalkResult
  | [], _ => .malformed
  | level :: below, table =>
    let a := entryAt table va level
    if anyPoison s.poison a 8 then .uncorrectable
    else
      let e := leNat (s.readMem key a 8)
      if !bit e 0 then .invalid (bit e 4) (16 + 10 * level)
      else if malformed s.fabric.module e level then .malformed
      else if bit e 6 then .leaf (leafOf part e va level)
      else walkFrom s part key va below (physKey (entryAddr e))

/-- A walk of a partition's tables (R172). -/
def walkPages (s : State) (part va : Nat) : WalkResult :=
  let p := s.partAt part
  walkFrom s part p.key va [3, 2, 1, 0] (rootOf p)

/-! ### TLBs (R175) -/

/-- The leaf covers an address of a partition. -/
def TlbEntry.covers (e : TlbEntry) (part va : Nat) : Bool := e.partition == part && va / 2 ^ e.log == e.page

/-- The leaf that a core's L1 or its die's L2 holds for an address. -/
def tlbFind (s : State) (core part va : Nat) : Option TlbEntry :=
  match (s.coreAt core).tlb.find? (·.covers part va) with
  | some e => some e
  | none => (findD s.l2tlb (dieOf core) []).find? (·.covers part va)

/-- The set of the L1 TLB that a leaf may lie in, of 128 sets of 8 ways (R14, R18, log 44). -/
def TlbEntry.set (e : TlbEntry) : Nat := e.page % 128

/-- A leaf is added to a TLB, newest first. -/
def tlbAdd (e : TlbEntry) (l : List TlbEntry) : List TlbEntry :=
  e :: l.filter fun x => !(x.partition == e.partition && x.log == e.log && x.page == e.page)

/-- An L1 TLB without what a set of 8 ways cannot hold any more: its newest leaves stay. -/
def keepWays (set : Nat) : (l : List TlbEntry) → (room : Nat) → List TlbEntry
  | [], _ => []
  | x :: rest, room =>
    if x.set ≠ set then x :: keepWays set rest room
    else match room with
      | 0 => keepWays set rest 0
      | n + 1 => x :: keepWays set rest n

/-- The leaf held in both TLBs, newest first, within their capacities. -/
def tlbFill (s : State) (core : Nat) (e : TlbEntry) : State :=
  let s := s.modCore core fun k => { k with tlb := keepWays e.set (tlbAdd e k.tlb) 8 }
  { s with l2tlb := insert s.l2tlb (dieOf core) ((tlbAdd e (findD s.l2tlb (dieOf core) [])).take 32768) }

/-- Walks of a die that have not ended: at most 32 (R175). -/
def walksInFlight (s : State) (die : Nat) : Nat :=
  (flatten (s.cores.map fun (c, k) =>
    if dieOf c = die then k.walks.filter fun w => w.result.isNone else [])).length

/-- DEPTH of a thread of the state (R255). -/
def depthOf (s : State) (t : ThreadRef) : Nat := ((s.threadAt t).map (·.depth)).getD 0

/-- What is known of the page of an address for a slot's word: the end of the walk that it asked for, or a cached leaf. -/
def pageKnown (s : State) (t : ThreadRef) (slot : Bool) (part va : Nat) : Option WalkResult :=
  match (s.coreAt t.core).walks.find? fun w =>
      w.thread = t && w.slot == slot && w.depth == depthOf s t && w.xlat.isNone && w.result.isSome &&
        w.va / 65536 == va / 65536 with
  | some w => w.result
  | none => (tlbFind s t.core part va).map .leaf

/-- Start a walk for an address, unless one for its page is under way or no walk slot is free (R175). -/
def startWalk (s : State) (t : ThreadRef) (slot : Bool) (va : Nat) (xlat : Option Nat) (limit : Nat) : State :=
  let same (w : Walk) : Bool :=
    w.thread = t && w.slot == slot && w.depth == depthOf s t && w.xlat == xlat && w.va / 65536 == va / 65536
  if ((s.coreAt t.core).walks.any same && xlat.isNone) || 32 ≤ walksInFlight s (dieOf t.core) then s
  else
    let w : Walk := { id := s.seq, thread := t, slot := slot, va := va, xlat := xlat, limit := limit, depth := depthOf s t, result := none }
    { s.modCore t.core (fun k => { k with walks := k.walks ++ [w] }) with seq := s.seq + 1 }

/-- Forget the ended walks of a thread's accesses: the word that asked for them has issued. -/
def dropWalks (s : State) (t : ThreadRef) : State :=
  s.modCore t.core fun k =>
    { k with walks := k.walks.filter fun w => !(w.thread = t && w.xlat.isNone && w.result.isSome) }

/-- The thread's words that wait for walks have been given up, by a trap or a restart: issued again, they walk again (R175). -/
def cancelWalks (s : State) (t : ThreadRef) : State :=
  s.modCore t.core fun k => { k with walks := k.walks.filter fun w => !(w.thread = t && w.xlat.isNone) }

/-! ### Checks of a leaf (R174, R182) -/

/-- How a cause ranks among those of one instruction: the lowest number is reported (R176). -/
def causeRank : Cause → Nat
  | .misaligned => 0 | .address => 1 | .sealedWrite => 2 | .uncorrectable => 3 | .page => 4 | _ => 5

/-- The access kind writes. -/
def AccessKind.writes : AccessKind → Bool
  | .load | .spillRead => false
  | .store | .atomic | .spillWrite => true

/-- A frame of this module is sealed by its count (R182). -/
def frameSealed (s : State) (phys : Nat) : Bool :=
  physModule phys = s.fabric.module && findD s.seals (physKey phys / 65536) 0 ≠ 0

/-- The outcome of R174 for an access of a kind that a walk result covers: none when it is performed, else its cause and
SYND[7:4]. -/
def leafFault (s : State) (kind : AccessKind) (r : WalkResult) (va : Nat) : Option (Cause × Nat) :=
  match r with
  | .invalid true _ => some (.page, 0)
  | .invalid false _ => some (.address, 1)
  | .malformed => some (.address, 3)
  | .uncorrectable => some (.uncorrectable, 0)
  | .leaf e =>
    let phys := e.frame + va % 2 ^ e.log
    if e.sealed then (if kind.writes then some (.sealedWrite, 0) else none)
    else if (kind == .atomic || !kind.writes) && !e.r then some (.address, 2)
    else if kind.writes && !e.w then some (.address, 2)
    else if kind.writes && frameSealed s phys then some (.sealedWrite, 0)
    else none

/-! ### One lane's access -/

/-- The parts (address, length) of an access cut at 64 KiB boundaries; an access of 192 bytes at most has two. -/
def cutPages (va n : Nat) : List (Nat × Nat) :=
  let first := 65536 - va % 65536
  if n ≤ first then [(va, n)] else [(va, first), (va + first, n - first)]

/-- How one lane's access ends its translation (R176). -/
inductive LaneResult where
  | ok (x : LaneAccess)
  /-- Cause, SYND[7:4], the address FAULTVA holds, and the lowest faulting byte of each page or block that faults, with its size
  exponent. -/
  | fault (cause : Cause) (synd va : Nat) (vas : List (Nat × Nat))
  /-- Pages still to be walked. -/
  | waits (vas : List Nat)
  deriving DecidableEq, Repr

/-- What is known of a part's page: the translation register's own leaf below its fast limit (R169), else the TLBs and
walks. -/
def partPage (s : State) (t : ThreadRef) (slot : Bool) (part : Nat) (r : TReg) (va : Nat) : Option WalkResult :=
  if va - r.base < r.limit && r.base ≤ va then
    some (.leaf
      { partition := part, log := 16, page := va / 65536,
        frame := (r.frame + (va - r.base)) / 65536 * 65536, r := r.r, w := r.w, sealed := r.sealed, tier := r.tier })
  else pageKnown s t slot part va

/-- The physical address of an access that a leaf covers. -/
def leafPhys (r : WalkResult) (va : Nat) : Nat :=
  match r with
  | .leaf e => e.frame + va % 2 ^ e.log
  | _ => 0

/-- The size exponent of the page, or the block of an invalid entry, that a walk found (R256). -/
def WalkResult.log : WalkResult → Nat
  | .invalid _ n => n
  | _ => 16

/-- What an access of n bytes breaks before any page is looked at: an atomic's alignment, or the end of the address space (R167,
R176). -/
def placeFault (kind : AccessKind) (va n : Nat) : Option LaneResult :=
  if kind == .atomic && va % n != 0 then some (.fault .misaligned 0 (va % 2 ^ 56) [])
  else if 2 ^ 56 < va + n then some (.fault .address 4 (va % 2 ^ 56) [])
  else none

/-- How an access ends whose parts' pages are all known: the highest cause of R176, at its first part, or the physical parts. -/
def laneResult (s : State) (kind : AccessKind) (lane va : Nat) (parts : List (Nat × Nat × WalkResult)) : LaneResult :=
  let faults := parts.filterMap fun (a, _, w) => (leafFault s kind w a).map fun f => ((a, w.log), f)
  let best := faults.foldl (fun m (_, c, _) => min m (causeRank c)) 9
  match faults.find? fun (_, c, _) => causeRank c = best with
  | some ((a, _), c, synd) => .fault c synd a ((faults.filter fun (_, c, _) => causeRank c = best).map (·.1))
  | none => .ok { lane := lane, va := va, parts := parts.map fun (a, k, w) => (leafPhys w a, k), remote := [] }

/-- Translate one lane's access of n bytes through a translation register (R167, R174, R176). -/
def resolveLane (s : State) (t : ThreadRef) (slot : Bool) (part : Nat) (r : TReg) (kind : AccessKind) (lane offset n : Nat) :
    LaneResult :=
  let va := r.base + offset
  match placeFault kind va n with
  | some e => e
  | none =>
    let known := (cutPages va n).map fun (a, k) => (a, k, partPage s t slot part r a)
    match known.filter (fun x => x.2.2.isNone) with
    | x :: xs => .waits ((x :: xs).map (·.1))
    | [] => laneResult s kind lane va (known.filterMap fun (a, k, w) => w.map fun w => (a, k, w))

/-! ### Poison of frames (R354) -/

/-- A table, at a level and below, maps a frame of this module. -/
def tableMaps (s : State) (part key frame : Nat) : (levels : List Nat) → (table : Nat) → Bool
  | [], _ => false
  | level :: below, table =>
    (List.range 1024).any fun i =>
      let e := leNat (s.readMem key (table + 8 * i) 8)
      bit e 0 && !malformed s.fabric.module e level &&
      (if bit e 6 then
        let f := leafOf part e 0 level
        physModule f.frame = s.fabric.module && decide (physKey f.frame / 65536 ≤ frame) &&
          decide (frame < (physKey f.frame + 2 ^ f.log) / 65536)
      else tableMaps s part key frame below (physKey (entryAddr e)))

/-- The partitions whose page tables or windows map a frame of this module (R354). -/
def partitionsMapping (s : State) (frame : Nat) : List Nat :=
  let f := frame % (moduleWeight / 65536)
  let inWindow (w : Window) : Bool := w.base / 65536 ≤ f && f < w.base / 65536 + w.size
  (List.range partitionCount).filter fun p =>
    let x := s.partAt p
    x.configured &&
      (tableMaps s p x.key frame [3, 2, 1, 0] (rootOf x) ||
        s.fabric.windows.any fun (_, w) => inWindow w && w.tenancy = x.tenancy)

/-- Poison a sector of memory. Where this makes its frame poisoned, every partition that maps the frame gets one POISON event,
which names the frame and the sector by their addresses (R354, R359). -/
def poisonSector (s : State) (sector : Nat) : State :=
  let frame := sector * 32 / 65536
  let known := s.poison.any fun x => x * 32 / 65536 = frame
  let s := { s with poison := setAdd s.poison sector }
  if known then s
  else (partitionsMapping s frame).foldl
    (fun s p => sendEvent s p 0x8004 noPart p 0 (leBytes 8 (frame * 65536) ++ leBytes 8 (sector * 32))) s

end Sys2Proof.Machine
end

