-- ==== Sys2Proof/Machine/Flags.lean ====
section
/-! DEFINITION. FLAGS (R48, R49): sticky per wave, shared by its slots. -/

namespace Sys2Proof.Machine
open Sys2Proof

/-- OR flags into a thread's FLAGS (R48). A CCP has none (R219). -/
def Thread.orFlags (th : Thread) (f : Flags) : Thread := if th.ccp then th else { th with flags := th.flags ||| f }

/-- OR flags into the FLAGS of a thread that is still resident. -/
def State.orFlags (s : State) (t : ThreadRef) (f : Flags) : State := s.modThread t fun th => th.orFlags f

/-- The entry's computation has still to OR its flags into a thread (R73). -/
def Entry.owesFlags (x : Entry) (t : ThreadRef) : Bool :=
  (x.comp.map fun p => p.waiters.any fun w => w.owes && w.thread = t).getD false

/-- An older word of the thread has still to OR in its flags (R49): a matrix or ladder operation in flight, or a binding to
an entry that is not published. -/
def flagsOutstanding (k : Core) (t : ThreadRef) (th : Thread) : Bool :=
  pathCount k t th 2 != 0 || pathCount k t th 3 != 0 || k.entries.any fun (_, x) => x.owesFlags t

/-- FLAGS after a write of x, W1C (R31, R49). -/
def Thread.clearFlags (th : Thread) (x : Word) : Thread := { th with flags := th.flags &&& ~~~(x.setWidth 5) }

end Sys2Proof.Machine
end

