-- ==== Sys2Proof/Machine/Ops.lean ====
section
/-! DEFINITION. The shared operations of every word: who issues, how operands are read and results written, parking,
entering and leaving a trap (R252 to R267), aborting a block, and `issue`, which runs the checks of R34 to R36 before a
meaning. -/

namespace Sys2Proof.Machine
open Sys2Proof

/-! ### The issuing agent -/

/-- The agent that issues a word, as it stands before the word: its place, core, block, launch, thread and slot, the
effective mask of the word, and the word's issue number. -/
structure Ctx where
  ref : ThreadRef
  slot : Bool
  core : Core
  block : Block
  launch : Launch
  thread : Thread
  cur : Slot
  eff : Word
  seq : Nat

/-- The partition the agent works for. -/
def Ctx.part (c : Ctx) : Nat := c.launch.partition
/-- The agent's MODE.T. -/
def Ctx.ty (c : Ctx) : Ty := tyOf c.cur.mode
/-- The PC of the word after this one. -/
def Ctx.next (c : Ctx) : Word := c.cur.pc + 4

/-- The agent named by the state: its thread is resident and its slot holds lanes. -/
def State.issuer (s : State) : Option Ctx :=
  match s.blockAt s.who.core s.who.block with
  | none => none
  | some b =>
    match find b.threads s.who.thread with
    | none => none
    | some th =>
      let x := th.paths.slot s.whoSlot
      if x.mask = 0 then none
      else some
        { ref := s.who, slot := s.whoSlot, core := s.coreAt s.who.core, block := b, launch := s.launchOf b, thread := th,
          cur := x, eff := 0, seq := s.seq }

/-- The lanes a guard selects: p[G] XOR GN (R28). -/
def guardMask (th : Thread) (m : Half) : Word :=
  if modeGn m then ~~~(th.pred (modeG m)) else th.pred (modeG m)

/-- The effective mask of a word: SEL's guard selects its source and masks nothing (R28). -/
def effectiveMask (i : Instr) (th : Thread) (x : Slot) : Word :=
  match i with
  | .sel .. => x.mask
  | _ => x.mask &&& guardMask th x.mode

/-! ### Reading operands (R24 to R26) -/

/-- The value of a special in a lane (R24, R25). -/
def Ctx.special (c : Ctx) (x : Special) (lane : Nat) : Nat :=
  let b := c.block.blklin
  match x with
  | .zero => 0
  | .one => 1
  | .lane => lane
  | .wave => c.thread.wave
  | .blkx => c.launch.blkx b
  | .blky => c.launch.blky b
  | .blkz => c.launch.blkz b
  | .glid => ((b * c.launch.waves + c.thread.wave) * 32 + lane) % 2 ^ 32

/-- A lane of a value-store entry; entries 0 and 1 are %zero and %lane (R61, R66). -/
def entryWord (k : Core) (e lane : Nat) : Nat :=
  match e with
  | 0 => 0
  | 1 => lane
  | _ => match find k.entries e with
    | some x => (x.bytes.getD lane 0).toNat
    | none => 0

/-- Lane l of a vector register: the entry's when it is bound (R61, R62). -/
def vectorWord (k : Core) (th : Thread) (n lane : Nat) : Nat :=
  match find th.bound n with
  | some e => entryWord k e lane
  | none => (findD th.vregs (n * 32 + lane) 0).toNat

/-- A register of the agent in a lane (R24). -/
def Ctx.reg (c : Ctx) (r : Reg) (lane : Nat) : Nat :=
  match r with
  | .v n => vectorWord c.core c.thread n.val lane
  | .s n => (findD c.cur.sregs n.val 0).toNat
  | .sp x => c.special x lane

/-- A uniform operand as a word: scalars and uniform specials are the same in every lane. -/
def Ctx.uniform (c : Ctx) (r : Reg) : Word := BitVec.ofNat 32 (c.reg r 0)

/-- Scalar number n of the agent. -/
def Ctx.scalar (c : Ctx) (n : Nat) : Word := findD c.cur.sregs n 0

/-- The k-th scalar of a descriptor that starts at a register (R26). -/
def Ctx.field (c : Ctx) (r : Reg) (k : Nat) : Word := c.scalar (regNum r + k)

/-- A 64-bit scalar pair (R26). -/
def Ctx.pair (c : Ctx) (r : Reg) : Nat := (c.field r 0).toNat + 2 ^ 32 * (c.field r 1).toNat

/-- The raw bits of an operand in a lane: its registers, the first lowest; a special gives its 32 bits and zeros above
(R26). -/
def Ctx.value (c : Ctx) (u : Use) (lane : Nat) : Nat :=
  (useRegs u c.ty).foldr (fun r acc => c.reg r lane + 2 ^ 32 * acc) 0

/-- Poisoned lanes of a register (R359). -/
def Ctx.poison (c : Ctx) (r : Reg) : Word :=
  match r with
  | .v n => if (find c.thread.bound n.val).isSome then 0 else findD c.thread.vpois n.val 0
  | .s n => if c.cur.spois.getLsbD n.val then BitVec.allOnes 32 else 0
  | .sp _ => 0

/-- Poisoned lanes of an operand. -/
def Ctx.usePoison (c : Ctx) (u : Use) : Word := (useRegs u c.ty).foldl (fun m r => m ||| c.poison r) 0

/-! ### Writing registers -/

/-- An entry is PENDING (R276). -/
def entryPending (k : Core) (e : Nat) : Bool := ((find k.entries e).map fun x => x.state == .pending).getD false

/-- Make a vector register private with the contents it shows (R62); those of a PENDING entry come with its publication. -/
def Thread.privatise (th : Thread) (k : Core) (n : Nat) : Thread :=
  match find th.bound n with
  | none => th
  | some e =>
    { th with
      bound := remove th.bound n
      behind := (th.behind.filter fun x => x.1 ≠ n) ++ (if entryPending k e then [(n, e, BitVec.allOnes 32)] else [])
      vregs := lanes.foldl (fun m l => put 0 m (n * 32 + l) (BitVec.ofNat 32 (entryWord k e l))) th.vregs
      vpois := put 0 th.vpois n 0 }

/-- Lanes of a register that no longer wait for an old entry's contents. -/
def coverBehind (n : Nat) (written : Word) (xs : List (Nat × Nat × Word)) : List (Nat × Nat × Word) :=
  (xs.map fun x => if x.1 = n then (x.1, x.2.1, x.2.2 &&& ~~~written) else x).filter fun x => x.2.2 ≠ 0

/-- Write lanes of a vector register, which becomes private (R62); `pois` holds the lanes written poisoned. -/
def Thread.writeVector (th : Thread) (k : Core) (n : Nat) (vals : List (Nat × Nat)) (pois : Word) : Thread :=
  let th := th.privatise k n
  let written := maskOf fun l => vals.any fun v => v.1 = l
  { th with
    behind := coverBehind n written th.behind
    vregs := vals.foldl (fun m v => put 0 m (n * 32 + v.1) (BitVec.ofNat 32 v.2)) th.vregs
    vpois := put 0 th.vpois n ((findD th.vpois n 0 &&& ~~~written) ||| (pois &&& written)) }

/-- Write a scalar of a slot. -/
def Slot.writeScalar (x : Slot) (n v : Nat) (pois : Bool) : Slot :=
  { x with
    sregs := put 0 x.sregs n (BitVec.ofNat 32 v)
    spois := (x.spois &&& ~~~(laneBit n)) ||| (if pois then laneBit n else 0) }

/-- Write a register: lanes of a vector, or a scalar of the slot, which takes the first value; a special is never written
(R26). -/
def Thread.writeReg (th : Thread) (k : Core) (slot : Bool) (r : Reg) (vals : List (Nat × Nat)) (pois : Word) : Thread :=
  match r with
  | .v n => th.writeVector k n.val vals pois
  | .s n =>
    match vals with
    | [] => th
    | v :: _ => th.modSlot slot fun x => x.writeScalar n.val v.2 (pois != 0)
  | .sp _ => th

/-- Write raw bits to consecutive registers, 32 bits each, the first lowest (R26). -/
def Thread.writeRegs (th : Thread) (k : Core) (slot : Bool) (rs : List Reg) (vals : List (Nat × Nat)) (pois : Word) :
    Thread :=
  match rs with
  | [] => th
  | r :: rest =>
    (th.writeReg k slot r (vals.map fun v => (v.1, v.2 % 2 ^ 32)) pois).writeRegs k slot rest
      (vals.map fun v => (v.1, v.2 / 2 ^ 32)) pois

/-- Write a word to a scalar destination of the agent. -/
def Ctx.putScalar (c : Ctx) (d : Reg) (v : Nat) (s : State) : State :=
  s.modThread c.ref fun th => th.writeReg c.core c.slot d [(0, v)] 0

/-! ### Poisoned descriptors and operands -/

/-- The predicates a word reads: its guard, and those its fields name (R28, R107 to R116, R151). -/
def predicatesRead (i : Instr) (m : Half) : List Nat :=
  modeG m :: (match i with
    | .brp p _ _ | .vote _ p _ | .pmovToScalar _ p => [p.toNat]
    | _ => [])

/-- The lanes of the effective mask guarded by a poisoned predicate (R359). -/
def Ctx.guardPoison (c : Ctx) : Word := c.thread.predPoison (modeG c.cur.mode) &&& c.eff

/-- The lanes of the predicates that a word reads: the effective ones, but every lane where PMOV takes a whole predicate
(R116, R359). -/
def Ctx.predicatePoison (c : Ctx) (i : Instr) : Word :=
  let whole := match i with
    | .pmovToScalar _ p => c.thread.predPoison p.toNat
    | _ => 0
  (predicatesRead i c.cur.mode).foldl (fun m p => m ||| (c.thread.predPoison p &&& c.eff)) whole

/-- The poisoned lanes among what a word reads: its source operands and its predicates (R359). -/
def Ctx.sourcePoison (c : Ctx) (i : Instr) : Word :=
  (sourcesOf i).foldl (fun m u => m ||| c.usePoison u) (c.predicatePoison i)

/-! ### Causes (R33) -/

/-- The code of a cause. -/
def causeCode : Cause → Nat
  | .illegal => 0x01 | .privileged => 0x02 | .address => 0x03 | .page => 0x04 | .misaligned => 0x05
  | .pipeline => 0x06 | .uncorrectable => 0x07 | .gang => 0x08 | .deadlock => 0x09 | .orderDependent => 0x0A
  | .trap => 0x0B | .breakpoint => 0x0C | .sealedWrite => 0x0D | .storePoison => 0x0E | .nested => 0x0F
  | .format => 0x10

/-- The causes whose handler is the user's (R33). -/
def userCause : Cause → Bool
  | .pipeline | .gang | .orderDependent | .trap | .breakpoint | .format => true
  | _ => false

/-! ### Ending threads and aborting blocks -/

/-- The paths of a thread that has no lanes left. -/
def Thread.noLanes (th : Thread) : Bool :=
  th.paths.slot0.mask = 0 && th.paths.slot1.mask = 0 && th.paths.stack.isEmpty && th.paths.buried.isEmpty && th.saved.isEmpty

/-- An armed error of the copy path (R364). -/
def Arm.ofCopy : Arm → Bool
  | .copy .. => true
  | _ => false

/-- The thread ends: no slot holds lanes any more; its older accesses still drain (R160). The commands of a CCP run on, and may still
meet an armed copy error (R221, R364). -/
def Thread.endNow (th : Thread) : Thread :=
  { th with
    ended := true
    restarting := false
    saved := []
    arms := if th.ccp then th.arms.filter Arm.ofCopy else []
    paths := { slot0 := { th.paths.slot0 with mask := 0, park := none, hold := .free }
               slot1 := { th.paths.slot1 with mask := 0, park := none, hold := .free }
               frame := none, stack := [], spillPtr := th.paths.spillPtr, buried := [] } }

/-- The CCP stops: its commands run on (R221, R267). -/
def Thread.stopNow (th : Thread) : Thread :=
  { th.endNow with stopped := true }

/-- A thread of a block that is aborted: the lanes that wait for a handler perform nothing, so its queues can drain (R193, R267). -/
def Thread.abort (th : Thread) : Thread :=
  { th.endNow with
    log := [], faulted := [], late := [], arriving := [], evict := .here
    loads := (th.loads.map fun x => { x with logged := 0 }).dropWhile fun x => x.accesses.isEmpty
    stores := th.stores.map fun x => { x with waiting := 0 } }

/-- Abort a block (R267): every wave ends and the CCP stops; waves already out of the core are dropped. -/
def Block.abort (b : Block) : Block :=
  { b with
    aborted := true
    leaving := none
    halted := false
    exempt := none
    breaks := []
    out := []
    images := []
    threads := b.threads.map fun (t, th) =>
      (t, if th.ccp then (if th.ended then th else th.stopNow) else th.abort) }

/-- Drop what an aborted block has waiting outside its threads: latch arrivals, fault records and images (R267). -/
def clearAborted (s : State) (c b : Nat) : State :=
  match s.blockAt c b with
  | none => s
  | some x =>
    let p := (s.launchOf x).partition
    let s := s.modCore c fun k =>
      { k with
        arrivals := k.arrivals.filter fun a => a.member.thread.block ≠ b
        faultQ := k.faultQ.filter fun r => r.block ≠ b
        walks := k.walks.filter fun w => w.thread.block ≠ b }
    s.modPart p fun q =>
      { q with evicted := q.evicted.filter fun m => !(m.launch = x.launch && m.blklin = x.blklin && m.wave.isSome) }

/-- Abort a block without an event (R299, R302). -/
def abortQuiet (s : State) (c b : Nat) : State :=
  let s := clearAborted s c b
  s.modBlock c b fun x => if x.aborted then x else x.abort

/-- Abort a block with an ABORT event that names the cause, the wave and its PC (R267, R394); a block is aborted once. The event of
a deterministic launch's block is held in the block until it leaves its core: the model's choice (log 113). -/
def abortBlock (s : State) (t : ThreadRef) (cause : Cause) (pc : Word) : State :=
  match s.blockAt t.core t.block with
  | none => s
  | some b =>
    let wave := if t.thread = ccpThread then 255 else t.thread
    if b.aborted then s
    else if (s.launchOf b).det then
      (abortQuiet s t.core t.block).modBlock t.core t.block fun b =>
        { b with report := some (causeCode cause, wave, pc.toNat) }
    else abortQuiet (sendAbort s b (causeCode cause) wave pc.toNat) t.core t.block

/-! ### The reconvergence stack (R153, R154) -/

/-- A stack entry in the spill layout (R153). -/
def spillBytes (e : StackEntry) : List Byte :=
  leBytes 4 e.slot.pc.toNat ++ leBytes 4 e.slot.mask.toNat ++ leBytes 2 e.slot.mode.toNat ++
    leBytes 1 (boolNat e.number) ++ zeros 1 ++ leBytes 4 e.slot.fmt.toNat ++ leBytes 4 e.slot.jpc.toNat ++
    leBytes 4 e.frame.j.toNat ++ leBytes 2 e.frame.mode.toNat ++ zeros 2 ++ leBytes 4 e.frame.fmt.toNat ++
    flatten ((List.range 32).map fun i => leBytes 4 (findD e.slot.sregs i 0).toNat) ++ zeros 32

/-- Scalars read from 128 bytes. -/
def scalarsOf (bs : List Byte) : List (Nat × Word) :=
  (List.range 32).foldl (fun m i => put 0 m i (BitVec.ofNat 32 (leAt bs (4 * i) 4))) []

/-- MODE as it is stored: bits [15:12] are 0 (R6, R28). -/
def modeBits (x : Half) : Half := x &&& 0x0FFF
/-- FMT as it is stored: bits [31:24] are 0 (R6, R29). -/
def fmtBits (x : Word) : Word := x &&& 0x00FFFFFF

/-- The trap registers as they are stored: EXC[31:8], SYND[31:16], UNIT[31:4], TILEXY[31:13] and [7:5] and FAULTVAH[31:24] are 0 (R6,
R31, R358). -/
def ExcRegs.stored (x : ExcRegs) : ExcRegs :=
  { x with exc := x.exc &&& 0xFF, synd := x.synd &&& 0xFFFF, unit := x.unit &&& 0xF, tilexy := x.tilexy &&& 0x1F1F,
           faultvah := x.faultvah &&& 0x00FFFFFF }

/-- A stack entry read back from its spill layout (R153). The layout has no place for the CYCLEH shadow, which reads 0 afterwards, and
none for the hold, the trap and the counts of R253 that stay on the chip (log 104). -/
def readSpill (bs : List Byte) : StackEntry :=
  let w (o : Nat) : Word := BitVec.ofNat 32 (leAt bs o 4)
  { slot :=
      { freshSlot with
        pc := w 0, mask := w 4, mode := modeBits (BitVec.ofNat 16 (leAt bs 8 2)), fmt := fmtBits (w 12), jpc := w 16,
        sregs := scalarsOf (bs.drop 32), last := w 0 }
    number := bit (leAt bs 10 1) 0
    frame := { j := w 20, mode := modeBits (BitVec.ofNat 16 (leAt bs 24 2)), fmt := fmtBits (w 28) } }

/-- The end of a wave's spill region: 64 entries (R154). -/
def spillEnd (l : Launch) (b : Block) (th : Thread) : Nat := l.spillBase b.blklin th.wave + 12288

/-- A thread has spilled stack entries, whose lanes are in memory (R154). -/
def Thread.spilled (th : Thread) (l : Launch) (b : Block) : Bool := l.spillBase b.blklin th.wave < th.paths.spillPtr

/-- A translation register that covers a spill entry and has no fast limit. -/
def spillReg (va : Nat) : TReg := { freshTReg with base := va }

/-- What a push finds (R153, R154). -/
inductive Push where
  | ok (s : State)
  /-- The region holds no further entry: its end address. -/
  | full (va : Nat)
  | fault (cause : Cause) (synd va : Nat) (vas : List (Nat × Nat))
  | waits (s : State)

/-- A spill write as stores of the wave, one for each sector of the entry: a poisoned scalar poisons its sector. -/
def spillStores (x : LaneAccess) (e : StackEntry) : List LaneStore :=
  let bs := spillBytes e
  (List.range 6).map fun i =>
    let part (a : LaneAccess) : List (Nat × Nat) :=
      match a.parts with
      | [(p, _)] => [(p + 32 * i, 32)]
      | [(p, n), (q, _)] =>
        if 32 * i + 32 ≤ n then [(p + 32 * i, 32)]
        else if n ≤ 32 * i then [(q + (32 * i - n), 32)]
        else [(p + 32 * i, n - 32 * i), (q, 32 - (n - 32 * i))]
      | _ => []
    { access := { lane := i, va := x.va + 32 * i, parts := part x, remote := [] }
      bytes := (bs.drop (32 * i)).take 32
      poison := 1 ≤ i && i ≤ 4 && bits e.slot.spois.toNat (8 * (i - 1) + 7) (8 * (i - 1)) != 0 }

/-- Push a parked slot with its frame. A full on-chip part first writes its older entry to the spill region: a store under the
number of the word that pushes, which the word and every later access see (R191). -/
def pushEntry (s : State) (t : ThreadRef) (slot : Bool) (e : StackEntry) : Push :=
  match s.threadAt t, s.blockAt t.core t.block with
  | some th, some b =>
    match th.paths.stack with
    | newer :: older :: _ =>
      let l := s.launchOf b
      if spillEnd l b th ≤ th.paths.spillPtr then .full (spillEnd l b th)
      else
        match resolveLane s t slot l.partition (spillReg th.paths.spillPtr) .spillWrite 0 0 192 with
        | .waits vas => .waits (vas.foldl (fun s va => startWalk s t slot va none 0) s)
        | .fault cause synd va vas => .fault cause synd va vas
        | .ok x =>
          let op : StoreOp :=
            { seq := s.seq - 1, space := .global, lanes := spillStores x older, atomic := none, waiting := 0,
              shared := (th.paths.slot slot).mask, spill := true, returned := none,
              pc := (th.paths.slot slot).pc, depth := th.depth }
          .ok (dropWalks (s.modThread t fun th =>
            { th with
              stores := th.stores ++ [op]
              paths := { th.paths with
                stack := [e, newer]
                spillPtr := th.paths.spillPtr + 192
                buried := { slot := older.slot, spilledPc := older.slot.pc, gone := 0 } :: th.paths.buried } }) t)
    | stack => .ok (s.modThread t fun th => { th with paths := { th.paths with stack := e :: stack } })
  | _, _ => .full 0

/-! ### Splits (R151) and parking (R252) -/

/-- The hold of a slot whose word has issued and still waits for its sources (R69). -/
def Hold.awaits : Hold → Bool
  | .sources _ => true
  | _ => false

/-- A slot with other lanes and another PC. -/
def Slot.at (x : Slot) (mask pc : Word) : Slot :=
  { x with mask := mask, pc := pc, hold := if x.hold.awaits then x.hold else .free, last := x.last }

/-- The two halves of a split: the rest in slot 0, the lanes taken in slot 1 (R151). Each half takes over the CYCLEH shadow of the slot
that splits (log 104). -/
def splitPaths (p : Paths) (n : Bool) (taken target next : Word) : Paths :=
  let x := p.slot n
  { p with
    slot0 := x.at (x.mask &&& ~~~taken) next
    slot1 := x.at taken target
    frame := some { j := x.jpc, mode := x.mode, fmt := x.fmt } }

/-- Split a slot as a mixed BRP does: a frame that exists is pushed with the sibling slot first (R151). -/
def splitSlot (s : State) (t : ThreadRef) (n : Bool) (taken target next : Word) : Push :=
  match s.threadAt t with
  | none => .full 0
  | some th =>
    let split (s : State) : State := s.modThread t fun th => { th with paths := splitPaths th.paths n taken target next }
    match th.paths.frame with
    | none => .ok (split s)
    | some f =>
      match pushEntry s t n { slot := th.paths.slot (!n), number := !n, frame := f } with
      | .ok s => .ok (split s)
      | r => r

/-- A page of an address is walked at once, for a push that cannot wait. -/
def walkNow (t : ThreadRef) (part : Nat) (s : State) (x : Nat × Nat) : State :=
  if (tlbFind s t.core part x.1).isSome then s
  else match walkPages s part x.1 with
    | .leaf e => tlbFill s t.core e
    | _ => s

/-- Where parking lanes will spill, the pages of the entry are walked at once: a slot that parks waits for nothing (R252,
log 8). -/
def spillWalked (s : State) (t : ThreadRef) : State :=
  match s.threadAt t, s.blockAt t.core t.block with
  | some th, some b =>
    if 2 ≤ th.paths.stack.length && th.paths.frame.isSome then
      (cutPages th.paths.spillPtr 192).foldl (walkNow t (s.launchOf b).partition) s
    else s
  | _, _ => s

/-- Slots start counting words at the first parking (R253). -/
def restartCounts (p : Paths) : Paths :=
  if p.places.any fun x => x.2.park.isSome then p
  else { p with slot0 := { p.slot0 with since := 0 }, slot1 := { p.slot1 with since := 0 } }

/-- Record a cause on a CCP, which stops at its word and aborts its block (R221). -/
def stopCcp (s : State) (t : ThreadRef) (info : TrapInfo) : State :=
  let s := s.modThread t fun th =>
    { th with
      exc := { th.exc with exc := BitVec.ofNat 32 (causeCode info.cause), synd := info.synd,
                           faultva := BitVec.ofNat 32 info.va, faultvah := BitVec.ofNat 32 (info.va / 2 ^ 32) }
      trappc := info.pc }
  abortBlock (s.modThread t Thread.stopNow) t info.cause info.pc

/-- The half of a split that falls through past the window's end, in slot 0, takes cause 0x03 at the word (R146). -/
def parkPastEnd (s : State) (t : ThreadRef) (pc : Word) (seq : Nat) : State :=
  match s.blockAt t.core t.block, s.threadAt t with
  | some b, some th =>
    s.modSlot t false fun x =>
      { x with
        pc := pc
        park := some { cause := .address, lanes := x.mask, va := (s.launchOf b).window th.ccp * 2 ^ 32 + pc.toNat, pc := pc,
                       seq := seq } }
  | _, _ => s

/-- Park the lanes of a slot for a trap (R252): the whole slot at the faulting word, or a split whose taken half stays
there while the rest goes on. A split whose spill fails is cause 0x0F. A CCP stops instead (R221). -/
def parkLanes (s : State) (t : ThreadRef) (n : Bool) (info : TrapInfo) (parked next : Word) : State :=
  match s.threadAt t with
  | none => s
  | some th =>
    if th.ccp then stopCcp s t info
    else
      let s := (cancelWalks s t).modThread t fun th => { th with paths := restartCounts th.paths }
      if parked = (th.paths.slot n).mask then
        s.modSlot t n fun x => { x with pc := info.pc, park := some info, hold := .free }
      else
        match splitSlot (spillWalked s t) t n parked info.pc next with
        | .ok s =>
          let s := s.modSlot t true fun x => { x with park := some info }
          if next = 0 && info.pc = 0xFFFFFFFC then parkPastEnd s t info.pc info.seq else s
        | _ => abortBlock s t .nested info.pc

/-- A precise trap of a word with its whole effect undone: its lanes are parked and nothing else changes. -/
def Ctx.raise (c : Ctx) (cause : Cause) (lanes : Word) (synd : Word := 0) (va : Nat := 0) (s : State) : State :=
  parkLanes s c.ref c.slot
    { cause := cause, lanes := lanes, synd := synd, va := va, pc := c.cur.pc, seq := c.seq } lanes c.next

/-- A precise trap of a check failure (R358). The core's lifetime record counts it, and counts no other trap (R366, R368). -/
def Ctx.raiseUnit (c : Ctx) (unit : Nat) (lanes : Word) (s : State) : State :=
  let synd := c.thread.quad * 64 + (if unit = 3 || unit = 7 then 32 else 0) +
    (if 8 ≤ unit && unit ≤ 11 then 0 else lowestLane lanes % 32)
  let s := s.modCore c.ref.core fun k => { k with life := { k.life with traps := min (k.life.traps + 1) (2 ^ 64 - 1) } }
  parkLanes s c.ref c.slot
    { cause := .pipeline, lanes := lanes, synd := BitVec.ofNat 32 synd, unit := BitVec.ofNat 32 unit, pc := c.cur.pc,
      seq := c.seq } lanes c.next

/-! ### Taking a trap (R253 to R258) -/

/-- A slot sleeps (R161). -/
def asleep (x : Slot) : Bool :=
  match x.hold with
  | .sleep _ => true
  | _ => false

/-- The latch holds a slot of some paths: in place, on the stack or spilled. -/
def Paths.latched (p : Paths) : Bool := p.places.any fun x => x.2.hold = .latch

/-- The latch holds a slot of the thread, wherever it is: in place, on the stack, spilled, or suspended by a trap (R130). -/
def Thread.latched (th : Thread) : Bool := th.paths.latched || th.saved.any fun v => v.paths.latched

/-- The parked slots of some paths, with their traps: a mixed BRP of the other slot may have pushed one on the stack (R151, R252). -/
def Paths.parkedSlots (p : Paths) : List (Place × TrapInfo) := p.places.filterMap fun x => x.2.park.map fun a => (x.1, a)

/-- A slot is parked for a trap, wherever it is (R252). -/
def Thread.parked (th : Thread) : Bool := !th.paths.parkedSlots.isEmpty

/-- A slot at its frame's join (R152): one that SLEEP holds there waits for its sleep first (R161), and one whose last word waits for its
sources for those (R69). -/
def atJoin (p : Paths) (n : Bool) : Bool :=
  match p.frame with
  | some f =>
    f.j ≠ 0 && (p.slot n).pc = f.j && (p.slot n).mask ≠ 0 && (p.slot n).park.isNone && !asleep (p.slot n) &&
      !(p.slot n).hold.awaits
  | none => false

/-- A logged access is one of those that a FENCE of issue number n with this PRED waits for (R196). -/
def LogEntry.fencedBy (e : LogEntry) (n pred : Nat) : Bool :=
  e.seq ≤ n && match e.kind with
    | .load | .spillRead => bit pred 0
    | .store | .spillWrite => bit pred 1
    | .atomic => bit pred 2

/-- A FENCE of the thread that waits behind a logged access (R196). -/
def fenceBehindLog (th : Thread) (x : Slot) : Bool :=
  match x.hold with
  | .fence n pred _ => th.log.any fun e => e.fencedBy n pred
  | _ => false

/-- Lanes of the slot have a trap of the present depth still to take (R129, R265, R351). -/
def lateLanes (th : Thread) (n : Bool) : Bool :=
  th.late.any fun x => x.depth = th.depth && (th.paths.slot n).mask &&& x.info.lanes ≠ 0

/-- The slot runs beside a parked one and has issued its 4,096 words (R253). -/
def overCount (th : Thread) (n : Bool) : Bool :=
  4096 ≤ (th.paths.slot n).since && th.paths.parkedSlots.any fun x => x.1 ≠ .slot n

/-- The entries of the operand log that the present depth issued (R254, R263). -/
def dueLog (th : Thread) : List LogEntry := th.log.filter fun e => e.depth = th.depth

/-- A slot is blocked, as R253 asks of a live slot beside a parked one: a page fault of the wave stops it too (R254), and so does a
trap of its own lanes that has still to be parked. -/
def slotBlocked (th : Thread) (n : Bool) : Bool :=
  let x := th.paths.slot n
  x.mask = 0 || x.park.isSome || atJoin th.paths n || x.stopped || overCount th n || fenceBehindLog th x ||
  lateLanes th n || !th.faulted.isEmpty || !(dueLog th).isEmpty ||
  match x.hold with
  | .bar _ | .latch | .rawait _ | .waitb .. | .arrive _ | .waitc _ | .sleep _ => true
  | _ => false

/-- The lanes of a log entry. -/
def LogEntry.mask (e : LogEntry) : Word :=
  if e.shared ≠ 0 then e.shared else maskOf fun k => e.lanes.any fun l => l.lane = k

/-- The pages and blocks that a lane of an entry faults on, by number and size exponent. -/
def LogLane.pages (l : LogLane) : List (Nat × Nat) := l.vas.map fun v => (v.1 / 2 ^ v.2, v.2)

/-- The pages that an entry faults on, or blocks of invalid entries above the last level, ascending by each page's lowest lane (R256). -/
def LogEntry.pages (e : LogEntry) : List (Nat × Nat) := (flatten (e.lanes.map LogLane.pages)).eraseDups

/-- The fault record of one page of an entry: the lowest faulting byte of its lowest lane, and its lanes (R256). -/
def LogEntry.record (e : LogEntry) (p : Nat × Nat) : Nat × Word :=
  ((((e.lanes.find? fun l => l.pages.contains p).bind fun l => l.vas.find? fun v => (v.1 / 2 ^ v.2, v.2) = p).map (·.1)).getD 0,
    if e.shared ≠ 0 then e.shared else maskOf fun k => e.lanes.any fun l => l.lane = k && l.pages.contains p)

/-- The pages of an entry whose records have still to enter the fault queue (R256). -/
def LogEntry.unqueued (e : LogEntry) : List (Nat × Nat) := e.pages.filter fun p => !e.queued.contains p

/-- The page fault that is due: the oldest log entry of the depth, with all its records queued (R254). -/
def pageFaultDue (th : Thread) : Option LogEntry :=
  match dueLog th with
  | e :: _ => if e.unqueued.isEmpty && th.faulted.isEmpty then some e else none
  | [] => none

/-- A scalar of the thread's present slots waits for an operation in flight: their files cannot be copied or moved yet (R36,
R151). An access that waits in the operand log holds nothing up. -/
def scalarsPending (k : Core) (t : ThreadRef) (th : Thread) : Bool :=
  th.loads.any (fun x => x.depth = th.depth && isScalar x.dest && !x.accesses.isEmpty) ||
  th.stores.any (fun x => x.depth = th.depth && x.waiting = 0 && (x.atomic.map fun a => isScalar a.dest).getD false) ||
  k.ladderQ.any (fun x => x.thread = t && x.depth = th.depth && x.dest.isSome)

/-- The parked slot, in place or on the stack, whose trap is next, and its trap: the oldest faulting word, once every live slot is
parked or blocked (R253). -/
def parkedDue (th : Thread) : Option (Place × TrapInfo) :=
  if slotBlocked th false && slotBlocked th true then
    th.paths.parkedSlots.foldl (fun m x => match m with
      | none => some x
      | some y => if y.2.seq ≤ x.2.seq then some y else some x) none
  else none

/-- The slot whose lanes a late trap can park now (R265). -/
def lateSlot (th : Thread) (x : LateTrap) : Option Bool :=
  [false, true].find? fun n => (th.paths.slot n).park.isNone && (th.paths.slot n).mask &&& x.info.lanes ≠ 0

/-- A late trap of the present depth whose lanes some live slot carries (R129, R263, R351), the oldest first. -/
def lateDue (th : Thread) : Option LateTrap :=
  th.late.find? fun x => x.depth = th.depth && (lateSlot th x).isSome

/-- The block's halt stops a thread: every one but the wave whose own HALTB halted it (R272). -/
def haltsThread (b : Block) (thread : Nat) : Bool := b.halted && b.exempt ≠ some thread

/-- What a trap entry would do now. -/
inductive Due where
  | late (x : LateTrap)
  | precise (place : Place) (info : TrapInfo)
  | page (e : LogEntry)
  deriving DecidableEq, Repr

/-- The trap of a wave that is due (R253, R254, R269): none while the block is halted or the wave ends, restarts or has
scalars in flight. -/
def trapDue (k : Core) (b : Block) (t : ThreadRef) (th : Thread) : Option Due :=
  if th.ccp || th.ended || haltsThread b t.thread || th.restarting || th.evict ≠ .here || scalarsPending k t th then none
  else
    match lateDue th with
    | some x => some (.late x)
    | none =>
      match parkedDue th, pageFaultDue th with
      | some (n, a), some e => if a.seq ≤ e.seq then some (.precise n a) else some (.page e)
      | some (n, a), none =>
        if (dueLog th ++ th.faulted).all (fun e => a.seq ≤ e.seq) then some (.precise n a) else none
      | none, some e => some (.page e)
      | none, none => none

/-- Where a handler starts and whether it is a supervisor's (R257); none where the entry is cause 0x0F. -/
def vectorOf (p : Partition) (th : Thread) (cause : Cause) : Option (Word × Bool) :=
  if th.depth = 0 && userCause cause && th.utrapbase ≠ 0 then some (th.utrapbase, false)
  else if p.trapbase = 0 then none
  else if th.depth = 0 then some (p.trapbase, true)
  else some (p.trapbase + 0x400, true)

/-- The trap registers an entry writes (R255). -/
def excOf (info : TrapInfo) : ExcRegs where
  exc := BitVec.ofNat 32 (causeCode info.cause)
  excmask := info.lanes
  synd := info.synd
  unit := info.unit
  tilexy := info.tile
  faultva := BitVec.ofNat 32 info.va
  faultvah := BitVec.ofNat 32 (info.va / 2 ^ 32)

/-- The slot a handler runs in: the lanes of EXCMASK at the vector, and a copy of the trapping slot's scalars (R255). -/
def handlerSlot (x : Slot) (lanes vector : Word) : Slot :=
  { freshSlot with pc := vector, mask := lanes, sregs := x.sregs, spois := x.spois, last := vector }

/-- Trap entry (R255), one step: the return PC, the shadow, the trap registers, the saved context and the handler slot.
`x` is where the trapping slot stands; `parked` says that it is the parked one. At depth 2, and where no vector serves, it is cause
0x0F and aborts the block. -/
def enterTrap (s : State) (t : ThreadRef) (x : Place) (parked : Bool) (info : TrapInfo) : State :=
  match s.threadAt t, s.blockAt t.core t.block with
  | some th, some b =>
    if th.depth = 2 then abortBlock s t .nested info.pc
    else
      match vectorOf (s.partAt (s.launchOf b).partition) th info.cause with
      | none => abortBlock s t .nested info.pc
      | some (vector, supervisor) =>
        (cancelWalks s t).modThread t fun th =>
          { th with
            trappc := if th.depth = 0 then info.pc else th.trappc
            strappc := if th.depth = 1 then info.pc else th.strappc
            shadow := if th.depth = 1 then th.exc else th.shadow
            exc := excOf info
            saved :=
              { paths := th.paths, parked := if parked then some x else none, info := info, supervisor := supervisor,
                t6 := th.treg 6, t7 := th.treg 7, exited := 0 } :: th.saved
            paths :=
              { slot0 := handlerSlot (th.paths.slotAt x) info.lanes vector
                slot1 := freshSlot, frame := none, stack := [], spillPtr := th.paths.spillPtr, buried := [] } }
  | _, _ => s

/-- The trap a log entry takes (R254, R255): EXCMASK its lanes, FAULTVA that of its oldest record. -/
def pageInfo (e : LogEntry) : TrapInfo where
  cause := .page
  lanes := e.mask
  va := (e.pages.head?.map fun p => (e.record p).1).getD 0
  pc := e.pc
  seq := e.seq

/-- The consumption restarts an open region instead of trapping (R362). -/
def restarts (th : Thread) : Bool :=
  th.depth = 0 && (th.rgnpc.toNat % 4 = 1 || th.rgnpc.toNat % 4 = 2) && th.paths.frame.isNone && !th.ccp

/-- The lanes of some paths. -/
def Paths.lanes (p : Paths) : Word := p.stack.foldl (fun m e => m ||| e.slot.mask) (p.slot0.mask ||| p.slot1.mask)

/-- Park the lanes of a late trap that one slot carries, at the trap's word, or at the word the slot issues next (R129, R351);
lanes that other paths carry keep the trap until they come back to a slot. A consumption inside an open region restarts it
instead (R362). -/
def parkLate (s : State) (t : ThreadRef) (x : LateTrap) : State :=
  match s.threadAt t, s.blockAt t.core t.block with
  | some th, some b =>
    if x.info.cause = .uncorrectable && restarts th then
      s.modThread t fun th => { th with late := th.late.filter (· ≠ x), restarting := true }
    else match lateSlot th x with
      | none => s
      | some n =>
        let y := th.paths.slot n
        let f := y.mask &&& x.info.lanes
        let rest := x.info.lanes &&& ~~~f
        let kept := rest &&& (if th.spilled (s.launchOf b) b then BitVec.allOnes 32 else th.paths.lanes)
        let s := s.modThread t fun th =>
          { th with late := th.late.filterMap fun z =>
              if z ≠ x then some z else if kept = 0 then none else some { x with info := { x.info with lanes := kept } } }
        parkLanes s t n { x.info with lanes := f, pc := if x.atNext then y.pc else x.info.pc } f y.pc
  | _, _ => s

/-- Take the trap that is due (R253). -/
def takeDue (s : State) (t : ThreadRef) (d : Due) : State :=
  match d with
  | .late x => parkLate s t x
  | .precise x info => enterTrap s t x true info
  | .page e => enterTrap s t (.slot e.slot) false (pageInfo e)

/-! ### Return (R266) -/

/-- The slot a precise trap parked, as it resumes: at its return PC, past TRAP and BKPT, less the lanes that exited. Past the
window's last word the return wraps to PC 0 (log 9). -/
def resumeSlot (sv : Saved) (ret : Word) (x : Slot) : Slot :=
  let skip := sv.info.cause = .trap || sv.info.cause = .breakpoint
  { x with
    pc := if skip then ret + 4 else ret
    mask := x.mask &&& ~~~sv.exited
    park := none
    hold := .free }

/-- Late traps of a depth that has been left are taken where the wave is now, at the word it issues next (R129, log 105). -/
def LateTrap.lowered (x : LateTrap) (d : Nat) : LateTrap := if d < x.depth then { x with depth := d, atNext := true } else x

/-- Every slot restarts its count at a return, and a slot stopped by R253 resumes. -/
def unstop (p : Paths) : Paths :=
  { p with slot0 := { p.slot0 with since := 0, stopped := false }, slot1 := { p.slot1 with since := 0, stopped := false } }

/-- Scalar results still in flight have nowhere to go once the handler that asked for them has returned: its scalar file is gone
(R259). -/
def Thread.dropScalars (th : Thread) : Thread :=
  { th with
    loads := th.loads.map fun x => if x.depth = th.depth && isScalar x.dest then { x with dest := .sp .zero } else x
    stores := th.stores.map fun x =>
      if x.depth = th.depth then
        { x with atomic := x.atomic.map fun a => if isScalar a.dest then { a with dest := .sp .zero } else a }
      else x }

/-- Return from the present depth (R266). -/
def Thread.returnTrap (th : Thread) : Thread :=
  let th := th.dropScalars
  match th.saved with
  | [] => th
  | sv :: rest =>
    let ret := if th.depth = 2 then th.strappc else th.trappc
    let paths := match sv.parked with
      | some x => sv.paths.modAt x (resumeSlot sv ret)
      | none => sv.paths
    { th with
      paths := unstop paths
      saved := rest
      late := th.late.map fun x => x.lowered rest.length
      exc := if th.depth = 2 then th.shadow else th.exc
      tregs := if sv.supervisor then put freshTReg (put freshTReg th.tregs 6 sv.t6) 7 sv.t7 else th.tregs }

/-! ### Poison consumption (R359, R362) -/

/-- The lanes of a word that consume poison: the region restarts, or they are parked with cause 0x07 (R359, R362). -/
def Ctx.consumed (c : Ctx) (lanes : Word) (synd : Word := 0) (va : Nat := 0) (s : State) : State :=
  if restarts c.thread then s.modThread c.ref fun th => { th with restarting := true }
  else c.raise .uncorrectable lanes synd va s

/-! ### Armed checks (R364) -/

/-- The thread holds an arm for a unit. -/
def Thread.armed (th : Thread) (unit : Nat) : Bool := th.arms.any fun a => a = .residue unit

/-- Drop an arm that has fired. -/
def Thread.disarm (th : Thread) (a : Arm) : Thread := { th with arms := th.arms.filter (· ≠ a) }

/-- Fire an agent's armed residue check: the arm is gone. -/
def Ctx.fire (c : Ctx) (unit : Nat) (s : State) : State := s.modThread c.ref fun th => th.disarm (.residue unit)

/-! ### The scoreboard (R36) -/

/-- The registers a load or atomic in flight writes. -/
def loadRegs (dest : Reg) (size : Nat) : List Reg := (List.range ((size + 3) / 4)).filterMap (regPlus dest)

/-- Registers of a slot that operations in flight still write: loads, atomics, ladder results and copy results. A handler has
scalars of its own (R259). -/
def pendingRegs (k : Core) (t : ThreadRef) (th : Thread) (slot : Bool) : List Reg :=
  let mine (r : Reg) (n : Bool) (d : Nat) : Bool := isVec r || (n == slot && d == th.depth)
  flatten (th.loads.map fun x =>
    if x.entries.isEmpty && (!x.accesses.isEmpty || x.logged ≠ 0) && mine x.dest x.slot x.depth then loadRegs x.dest x.size
    else []) ++
  flatten (th.stores.map fun x => match x.atomic with
    | some a => if mine a.dest a.slot x.depth then loadRegs a.dest a.size else []
    | none => []) ++
  (k.ladderQ.filterMap fun x => if x.thread = t && x.slot == slot && x.depth == th.depth then x.dest else none) ++
  (th.cmds.filterMap fun x => if x.status.isNone then some x.d else none)

/-- What a register shows is not published yet: the entry it is bound to, or old contents of a private register (R62). -/
def boundPending (k : Core) (th : Thread) (r : Reg) : Bool :=
  match r with
  | .v n => match find th.bound n.val with
    | some e => entryPending k e
    | none => th.behind.any fun x => x.1 = n.val
  | _ => false

/-- Words whose sources are read for their binding alone (R77). -/
def readsBinding : Instr → Bool
  | .tagof .. => true
  | _ => false

/-- The translation register a word names (R169). -/
def tregOf : Instr → Option (BitVec 3)
  | .ldg _ _ x _ _ | .stg _ _ x _ _ | .ldgk _ _ x _ _ | .prf _ x _ | .atomg _ _ x _ _ | .atomg64 _ _ x _ _
  | .casg _ _ x _ | .xlat x _ _ => some x
  | _ => none

/-- A register the word reads or writes is not ready. `names` says that pending bindings of sources are no obstacle, because
the word resolves its destination by their tags (R69). -/
def scoreboarded (c : Ctx) (i : Instr) (names : Bool) : Bool :=
  let t := c.ty
  let busy := pendingRegs c.core c.ref c.thread c.slot
  (usesOf i).any (fun u => (useRegs u t).any fun r => busy.contains r) ||
  ((tregOf i).map fun x => (c.thread.treg x.toNat).busy).getD false ||
  (!names && !readsBinding i && (sourcesOf i).any fun u => (useRegs u t).any (boundPending c.core c.thread)) ||
  (c.eff != BitVec.allOnes 32 && (destsOf i).any fun u => (useRegs u t).any (boundPending c.core c.thread))

/-- A source of the word is bound to an entry whose readers trap (R76). -/
def readsDead (c : Ctx) (i : Instr) : Bool :=
  !readsBinding i && (sourcesOf i ++ (match i with | .vsdrop .. => destsOf i | _ => [])).any fun u =>
    (useRegs u c.ty).any fun r => match r with
      | .v n => match find c.thread.bound n.val with
        | some e => ((find c.core.entries e).map fun x => x.state == .dead && x.traps).getD false
        | none => false
      | _ => false

/-! ### The checks of R34 -/

/-- The opcode of a word: that of its constructor, or bits [31:24] of a word that none decodes. -/
def wordOpcode (i : Instr) : Option Nat :=
  match i with
  | .illegalInstruction w => some (w.toNat / 2 ^ 24)
  | _ => opcodeOf i

/-- The second check of R34: privilege. -/
def privilegeFails (c : Ctx) (testen : Word) (op : Nat) : Bool :=
  (isCopyOpcode op && !c.thread.ccp) ||
  (isSystemOpcode op &&
    (if c.thread.ccp then !(op == 0xCA && testen.getLsbD 4)
     else !c.thread.supervisor && !(op == 0xC0 && c.thread.depth == 1)))

/-- The third check of R34 and that of R37: fields, operands, MODE.T and what a CCP accepts. -/
def fieldsFail (c : Ctx) (i : Instr) : Bool :=
  match i with
  | .illegalInstruction _ => true
  | _ =>
    !staticOk i || !operandsFit i c.cur.mode c.thread.regs ||
    (c.thread.ccp && !(ccpOpcode i c.ty && (usesOf i).all fun u => ccpOperand u.reg))

/-- The trap of R34 that a word takes before it issues; none when it passes. -/
def decodeTrap (c : Ctx) (testen : Word) (i : Instr) (op : Nat) : Option Cause :=
  if !isListedOpcode op then some .illegal
  else if privilegeFails c testen op then some .privileged
  else if fieldsFail c i then some .illegal
  else none

/-! ### Words that may split their slot (R36, R151) -/

/-- Lanes of the effective mask that a BRP takes (R151). -/
def Ctx.taken (c : Ctx) (p : BitVec 3) (n : Bool) : Word :=
  c.eff &&& (if n then ~~~(c.thread.pred p.toNat) else c.thread.pred p.toNat)

/-- A word that accesses memory, some of whose lanes may fault while others go on (R176). -/
def isAccess (i : Instr) : Bool :=
  (tregOf i).isSome || match i with
    | .lds .. | .ldb .. | .sts .. | .stb .. | .atoms .. | .cass .. => true
    | _ => false

/-- The word may split its slot: a mixed BRP, or one that may park a part of its lanes (R151, R252). A split copies the scalar
file, so it waits for every older write of it. -/
def Ctx.maySplit (c : Ctx) (i : Instr) : Bool :=
  !c.thread.ccp &&
  (c.eff != c.cur.mask || !c.thread.arms.isEmpty || c.sourcePoison i != 0 || isAccess i ||
    match i with
    | .brp p n _ => c.thread.depth == 0 && c.taken p n != 0 && c.taken p n != c.cur.mask
    | _ => false)

/-- The word waits for scalar results in flight, because it may split its slot. -/
def splitWaits (c : Ctx) (i : Instr) : Bool := c.maySplit i && scalarsPending c.core c.ref c.thread

/-- What the checks before a meaning find. -/
inductive Gate where
  | noIssuer
  | trap (c : Ctx) (cause : Cause)
  | empty (c : Ctx)
  | wait (c : Ctx)
  | dead (c : Ctx)
  | go (c : Ctx)

/-- The checks before a meaning, in the order of R34, R35, R36, R151 and R76. -/
def gateNaming (names : Ctx → Bool) (i : Instr) (s : State) : Gate :=
  match s.issuer, wordOpcode i with
  | some c, some op =>
    let c := { c with eff := effectiveMask i c.thread c.cur }
    match decodeTrap c (s.partAt c.part).testen i op with
    | some cause => .trap c cause
    | none =>
      if c.eff = 0 then .empty c
      else if scoreboarded c i (names c) || splitWaits c i then .wait c
      else if readsDead c i then .dead c
      else .go c
  | _, _ => .noIssuer

/-- The checks before a meaning that reads its sources. -/
def gate (i : Instr) (s : State) : Gate := gateNaming (fun _ => false) i s

/-- The PC step of a word: 8 for LIW and its literal (R21). -/
def wordLength (i : Instr) : Word :=
  match i with
  | .liw .. => 8
  | _ => 4

/-- The agent has issued a word: its number is used, the slot no longer waits, and a slot beside a parked one has issued one
word more (R148, R253). -/
def Ctx.begun (c : Ctx) (s : State) : State :=
  let s := { s with seq := s.seq + 1 }
  s.modThread c.ref fun th =>
    { th.modSlot c.slot (fun x => { x with hold := .free, last := c.cur.pc, since := x.since + 1 }) with turn := c.slot }

/-- The lanes that the agent's slot carries in a state. -/
def Ctx.lanesNow (c : Ctx) (s : State) : Word := ((s.threadAt c.ref).map fun th => (th.paths.slot c.slot).mask).getD 0

/-- Fall through to the next word. Past PC 0xFFFF_FFFC it is cause 0x03 at the word (R146). -/
def Ctx.stepOver (c : Ctx) (n : Word) (s : State) : State :=
  if 2 ^ 32 ≤ c.cur.pc.toNat + n.toNat then
    c.raise .address (c.lanesNow s) 0 (2 ^ 32 * c.launch.window c.thread.ccp + c.cur.pc.toNat) s
  else s.modSlot c.ref c.slot fun x => { x with pc := c.cur.pc + n }

/-- Fall through to the next word of four bytes. -/
def Ctx.stepOn (c : Ctx) (s : State) : State := c.stepOver 4 s

/-- Move the slot to a PC. -/
def Ctx.jump (c : Ctx) (target : Word) (s : State) : State := s.modSlot c.ref c.slot fun x => { x with pc := target }

/-- Hold the slot at its word: the word has not issued. -/
def Ctx.holdAt (c : Ctx) (h : Hold) (s : State) : State :=
  s.modThread c.ref fun th =>
    { th.modSlot c.slot (fun x => { x with hold := h, pc := c.cur.pc, since := c.cur.since, last := c.cur.last }) with
      turn := c.thread.turn }

/-- Run a meaning after the checks: the trap of a check, the empty mask of R35 and a wait each have their own effect; a
meaning that runs gets the agent as the checks found it. -/
def runGate (g : Gate) (i : Instr) (body : Ctx → State → State) (s : State) : Host.Outcome State Fault Refusal :=
  match g with
  | .noIssuer => .refused .noIssuer
  | .trap c cause => .next (c.raise cause c.cur.mask 0 0 (c.begun s))
  | .empty c => .next (c.stepOver (wordLength i) (c.begun s))
  | .wait c => .next (c.holdAt .operand s)
  | .dead c => .next (c.raise .storePoison c.eff 0 0 (c.begun s))
  | .go c => .next (body c (c.begun s))

/-- Issue a word whose meaning reads its sources. -/
def issue (i : Instr) (body : Ctx → State → State) (s : State) : Host.Outcome State Fault Refusal :=
  runGate (gate i s) i body s

/-- Lanes that consume poison park once the word has completed for the others (R359); in an open region the wave restarts (R362). -/
def Ctx.parkPoisoned (c : Ctx) (bad : Word) (s : State) : State :=
  if bad = 0 then c.stepOn s
  else if restarts c.thread then c.consumed bad 0 0 s
  else parkLanes s c.ref c.slot { cause := .uncorrectable, lanes := bad, pc := c.cur.pc, seq := c.seq } bad c.next

/-- A word's work once it issues, when no check of its unit fails and nothing it reads is poisoned: an armed check traps the
whole effective mask and undoes the word (R357, R364), and poison is consumed for the whole effective mask (R359). -/
def Ctx.checked (c : Ctx) (i : Instr) (body : State → State) (s : State) : State :=
  let u := unitOf i c.ty
  if u != 0 && c.thread.armed u then c.raiseUnit u c.eff (c.fire u s)
  else if c.sourcePoison i ≠ 0 then c.consumed c.eff 0 0 s
  else body s

/-- Issue a word that has no vector result: its whole effective mask stands or falls together. -/
def perform (i : Instr) (body : Ctx → State → State) (s : State) : Host.Outcome State Fault Refusal :=
  issue i (fun c => c.checked i (body c)) s

/-- Issue a word that writes the lanes of D from no other lane: of a vector only the lanes of a poisoned guard are involved, and the body
leaves them out (R359). -/
def performEach (i : Instr) (d : Reg) (body : Ctx → State → State) (s : State) : Host.Outcome State Fault Refusal :=
  issue i (fun c s =>
    let u := unitOf i c.ty
    if isScalar d || restarts c.thread || (u != 0 && c.thread.armed u) then c.checked i (body c) s else body c s) s

/-- A step that is not a word: it has its effect when its condition holds (`Refusal.notDue`). -/
def event (due : Bool) (t : State) : Host.Outcome State Fault Refusal := if due then .next t else .refused .notDue

end Sys2Proof.Machine
end

