-- ==== Sys2Proof/Machine/ValueStore.lean ====
section
/-! DEFINITION. The value store (R61 to R78, R276 to R285): which results have lineage, their keys, lookup, allocation,
binding, publication, abandonment and kills. An entry's state is PENDING, published or DEAD; a published entry is VALID or
COLD as its count is not 0 or 0 (R277), and the count is counted, not stored. -/

namespace Sys2Proof.Machine
open Sys2Proof

/-! ### States and counts (R276, R277) -/

/-- The references to an entry: registers of resident waves bound to it, and PENDING entries that name it (R277). -/
def refCount (k : Core) (e : Nat) : Nat :=
  (flatten (k.blocks.map fun (_, b) =>
    flatten (b.threads.map fun (_, th) => th.bound.filter fun x => x.2 = e))).length +
  (flatten (k.entries.map fun (_, x) =>
    if x.state == .pending && x.sources.contains e then [e] else [])).length

/-- The entry is FREE: never allocated, or DEAD with nothing that refers to it (R280). -/
def isFree (k : Core) (e : Nat) : Bool :=
  match find k.entries e with
  | none => true
  | some x => x.state == .dead && refCount k e = 0

/-- The entry is COLD (R276). -/
def isCold (k : Core) (e : Nat) : Bool :=
  match find k.entries e with
  | none => false
  | some x => x.state == .published && refCount k e = 0

/-- Change an entry. -/
def Core.modEntry (k : Core) (e : Nat) (f : Entry → Entry) : Core := { k with entries := adjust k.entries e f }

/-- Change the statistics (R285). -/
def Core.tally (k : Core) (f : StoreStats → StoreStats) : Core := { k with stats := f k.stats }

/-- A counter that saturates at 2^64 − 1 (R285, R366). -/
def saturate64 (x : Nat) : Nat := min x (2 ^ 64 - 1)

/-! ### Keys (R67, R68) -/

/-- w3 to w5: six tags of 16 bits, an unused position 0xFFFF (R67). -/
def tagWords (tags : List Nat) : List Nat :=
  let t (i : Nat) : Nat := tags.getD i 0xFFFF
  [t 0 + 65536 * t 1, t 2 + 65536 * t 3, t 4 + 65536 * t 5]

/-- w0 of a word under MODE, for a half of a 64-bit result (R67); LDK and LDGK leaves carry no MODE. -/
def keyWord0 (i : Instr) (m : Half) (part : Nat) (odd : Bool) : Nat :=
  let op := (opcodeOf i).getD 0
  let settings := (modeT m).toNat * 256 + modeRnd m * 4096 + boolNat (modeSat m) * 16384 + boolNat (modeFtz m) * 32768
  let w := match i with
    | .ldgk _ _ _ w _ => w.toNat
    | _ => 0
  let plain := match i with
    | .ldk .. | .ldgk .. => true
    | _ => false
  op + (if plain then 0 else settings) + part * 65536 + boolNat odd * 2 ^ 20 + w * 2 ^ 21

/-- w1 of a word (R67); `base` is the translation base of an LDGK. -/
def keyWord1 (i : Instr) (base : Nat) : Nat :=
  match i with
  | .iaddi _ x | .movi _ x | .movhi _ x => wrapTo 32 x.toInt
  | .liw _ x => x.toNat
  | .cvt _ _ t => t.toNat
  | .upk _ _ p => p.toNat
  | .scan _ _ x o => o.toNat + 4 * boolNat x
  | .ldk _ k => k.toNat
  | .ldgk .. => base % 2 ^ 32
  | _ => 0

/-- w2 of a word (R67). -/
def keyWord2 (i : Instr) (launch base : Nat) : Nat :=
  match i with
  | .ldk .. => launch
  | .ldgk .. => base / 2 ^ 32
  | _ => 0

/-- The six words of a key (R67). -/
def keyOf (i : Instr) (m : Half) (part launch base : Nat) (odd : Bool) (tags : List Nat) : List Nat :=
  keyWord0 i m part odd :: keyWord1 i base :: keyWord2 i launch base :: tagWords tags

/-- The key of a special's leaf: its operand code and its value (R66, R67). -/
def leafKey (part code value : Nat) : List Nat := (code + part * 65536) :: value :: 0 :: tagWords []

/-- The set a key selects (R68). -/
def setOf (key : List Nat) : Nat :=
  let w (i : Nat) : Nat := key.getD i 0
  let x := w 0 ^^^ rotl32 (w 1) 5 ^^^ rotl32 (w 2) 10 ^^^ rotl32 (w 3) 15 ^^^ rotl32 (w 4) 20 ^^^ rotl32 (w 5) 25
  x % 256 ^^^ x / 256 % 256 ^^^ x / 65536 % 256 ^^^ x / 16777216 % 256

/-! ### Lookup and allocation (R68, R278) -/

/-- The four way numbers of a set. -/
def waysOf (set : Nat) : List Nat := [set * 4, set * 4 + 1, set * 4 + 2, set * 4 + 3]

/-- The entry that a key matches: one that the directory names (R68). -/
def lookup (k : Core) (key : List Nat) : Option Nat :=
  ((waysOf (setOf key)).filterMap (find k.ways)).find? fun e =>
    match find k.entries e with
    | some x => x.key = key && x.state != .dead
    | none => false

/-- Of the entries listed, the least recently used; ties go to the lowest number (log 17). -/
def oldest (k : Core) (es : List Nat) : Option Nat :=
  let age (e : Nat) : Nat := ((find k.entries e).map (·.recency)).getD 0
  es.foldl (fun b e => match b with
    | none => some e
    | some x => if age e < age x then some e else some x) none

/-- The entry leaves the directory (R279). -/
def Core.emptyWay (k : Core) (e : Nat) : Core := { k with ways := k.ways.filter fun w => w.2 ≠ e }

/-- The source tags of a key (R67). -/
def keyTags (key : List Nat) : List Nat :=
  flatten (((key.drop 3).take 3).map fun w => [w % 65536, w / 65536])

/-- A number is given out anew: entries whose keys name it match no longer, since their bits are those of its old value
(R75, log 91). -/
def Core.forgetTag (k : Core) (e : Nat) : Core :=
  { k with ways := k.ways.filter fun w => match find k.entries w.2 with
    | some x => !(keyTags x.key).contains e
    | none => true }

/-- A COLD entry is reclaimed: it becomes FREE (R278). -/
def Core.reclaim (k : Core) (e : Nat) : Core :=
  { (k.emptyWay e).tally (fun t => { t with recl := saturate64 (t.recl + 1) }) with entries := remove k.entries e }

/-- Find room for a key (R278): a way of its set, reclaiming its least recently used COLD entry, then the lowest FREE
entry, else the core's least recently used COLD entry. `held` are entries this instruction has resolved. -/
def allocate (k : Core) (key : List Nat) (held : List Nat) (now : Nat) : Option (Core × Nat) :=
  let ways := waysOf (setOf key)
  let free (e : Nat) : Bool := isCold k e && !held.contains e
  let chosen : Option (Core × Nat) :=
    match ways.find? fun w => (find k.ways w).isNone with
    | some w => some (k, w)
    | none =>
      match oldest k ((ways.filterMap (find k.ways)).filter free) with
      | none => none
      | some e => (ways.find? fun w => find k.ways w = some e).map fun w => (k.reclaim e, w)
  match chosen with
  | none => none
  | some (k', w) =>
    let place (k : Core) (e : Nat) : Core × Nat :=
      let k := k.forgetTag e
      ({ k with
         ways := insert k.ways w e
         entries := insert k.entries e
           { state := .pending, key := key, bytes := [], flags := 0, recency := now, sources := [], launch := none,
             ldgk := false, comp := none, traps := false, lost := 0, spoiled := false } }, e)
    match (List.range 1022).find? fun e => isFree k' (e + 2) with
    | some e => some (place k' (e + 2))
    | none =>
      match oldest k' ((k'.entries.map (·.1)).filter fun e => isCold k' e && !held.contains e) with
      | some e => some (place (k'.reclaim e) e)
      | none => none

/-! ### Leaves and tags (R63, R66, R69) -/

/-- The specials that name a leaf (R66). -/
def leafSpecial : Special → Bool
  | .wave | .one | .blkx | .blky | .blkz => true
  | _ => false

/-- A register can be named by a tag (R63). -/
def nameable (th : Thread) (r : Reg) : Bool :=
  match r with
  | .v n => (find th.bound n.val).isSome
  | .s _ => false
  | .sp x => x = .zero || x = .lane || leafSpecial x

/-- The tag of a register, resolving a special's leaf: a hit, or an entry allocated and published at once (R66). None where
no room is found. `held` are the tags resolved before it. -/
def resolveTag (c : Ctx) (now : Nat) (held : List Nat) (k : Core) (r : Reg) : Option (Core × Nat) :=
  match r with
  | .v n => (find c.thread.bound n.val).map fun e => (k, e)
  | .s _ => none
  | .sp .zero => some (k, 0)
  | .sp .lane => some (k, 1)
  | .sp x =>
    let v := c.special x 0
    let key := leafKey c.part (specialCode x) v
    match lookup k key with
    | some e =>
      some ((k.modEntry e fun y => { y with recency := now }).tally
        (fun t => { t with hitv := saturate64 (t.hitv + 1) }), e)
    | none =>
      match allocate k key held now with
      | none => none
      | some (k, e) =>
        some ((k.modEntry e fun y =>
          { y with state := .published, bytes := List.replicate 32 (BitVec.ofNat 32 v), comp := none }).tally
          (fun t => { t with missa := saturate64 (t.missa + 1) }), e)

/-- The tags of a list of registers, in order (R69). A special in a pair gives its tag and then tag 0 (R67). -/
def resolveTags (c : Ctx) (now : Nat) (k : Core) : (held : List Nat) → List Reg → Core × Option (List Nat)
  | held, [] => (k, some held)
  | held, r :: rs =>
    match resolveTag c now held k r with
    | none => ({ k with stats := { k.stats with missn := saturate64 (k.stats.missn + 1) } }, none)
    | some (k, e) => resolveTags c now k (held ++ [e]) rs

/-- The registers an operand gives tags for: a special in a pair stands with %zero (R67). -/
def tagRegs (u : Use) (t : Ty) : List Reg :=
  match u.reg with
  | .sp x => .sp x :: List.replicate ((widthOf u.width t).1 - 1) (.sp .zero)
  | _ => useRegs u t

/-- The opcodes of R64, MOV and LDGK aside. -/
def lineageOpcode : Instr → Bool
  | .iadd .. | .isub .. | .imul .. | .imulh .. | .imad .. | .imin .. | .imax .. | .iabs .. | .ineg .. | .iaddi ..
  | .movi .. | .movhi .. | .and .. | .or .. | .xor .. | .not .. | .shl .. | .shr .. | .sar .. | .rol .. | .popc ..
  | .clz .. | .brev .. | .bfe .. | .bfi .. | .prmt .. | .fadd .. | .fsub .. | .fmul .. | .fma .. | .fmin .. | .fmax ..
  | .fabs .. | .fneg .. | .rcp .. | .rsq .. | .sqrt .. | .ex2 .. | .lg2 .. | .sin .. | .cos .. | .frnd .. | .cvt ..
  | .pk2 .. | .pk4 .. | .upk .. | .bscl .. | .shfl .. | .shflu .. | .shfld .. | .shflx .. | .rdlane .. | .wrlane ..
  | .redadd .. | .redmin .. | .redmax .. | .scan .. | .liw .. | .ldk .. => true
  | _ => false

/-- Conditions 2 and 3 of R63: all 32 lanes, no guard, lineage on; a CCP has no vector register. -/
def lineageOn (c : Ctx) : Bool :=
  c.cur.mask = BitVec.allOnes 32 && modeG c.cur.mode = 0 && !modeGn c.cur.mode && !c.launch.nolin && !c.thread.ccp

/-- The word gives its vector destination a lineage (R63). -/
def hasLineage (i : Instr) (c : Ctx) : Bool :=
  lineageOpcode i && lineageOn c && (destsOf i).all (fun u => isVec u.reg) &&
  (sourcesOf i).all fun u => (tagRegs u c.ty).all (nameable c.thread)

/-! ### Binding (R62, R69, R73) -/

/-- Bind a register of a thread to an entry; what it showed before stays behind it, for an abandonment (R71). -/
def Thread.bindReg (th : Thread) (k : Core) (n e : Nat) : Thread :=
  let th := th.privatise k n
  { th with bound := insert th.bound n e, vpois := put 0 th.vpois n 0 }

/-- The launch of an LDK leaf among the sources, and whether one holds an LDGK leaf (R280). -/
def chainOf (k : Core) (tags : List Nat) : Option Nat × Bool :=
  let xs := tags.filterMap (find k.entries)
  ((xs.filterMap (·.launch)).head?, xs.any (·.ldgk))

/-- What an instruction's key finds for one half of its result (R69). -/
inductive Bound where
  /-- A published entry: bound, with its recorded flags. -/
  | hit (k : Core) (e : Nat) (f : Flags)
  /-- A PENDING entry: bound, and its flags are owed. -/
  | joined (k : Core) (e : Nat)
  /-- A new PENDING entry that this instruction will compute. -/
  | fresh (k : Core) (e : Nat)
  | none

/-- Resolve one key (R69). `w` is the instruction that binds, for the flags owed; `held` are the entries that it has resolved,
which its own allocation does not reclaim (R278). -/
def resolveHeld (k : Core) (key tags held : List Nat) (now : Nat) (comp : Pending) (w : Waiter) : Bound :=
  match lookup k key with
  | some e =>
    match find k.entries e with
    | none => .none
    | some x =>
      let k := k.modEntry e fun y => { y with recency := now }
      if x.state == .pending then
        .joined ((k.modEntry e fun y =>
          { y with comp := y.comp.map fun p => { p with waiters := p.waiters ++ [w] } }).tally
          (fun s => { s with hitp := saturate64 (s.hitp + 1) })) e
      else .hit (k.tally fun s => { s with hitv := saturate64 (s.hitv + 1) }) e x.flags
  | none =>
    match allocate k key held now with
    | none => .none
    | some (k, e) =>
      let (l, g) := chainOf k tags
      .fresh ((k.modEntry e fun y =>
        { y with
          sources := tags
          launch := match comp.word with
            | .ldk .. => some (key.getD 2 0)
            | _ => l
          ldgk := g || (match comp.word with | .ldgk .. => true | _ => false)
          comp := some { comp with waiters := [w] } }).tally
        (fun s => { s with missa := saturate64 (s.missa + 1) })) e

/-- Resolve the key of a word, or of the even half of its result. -/
def resolveKey (k : Core) (key tags : List Nat) (now : Nat) (comp : Pending) (w : Waiter) : Bound :=
  resolveHeld k key tags tags now comp w

/-! ### Computing an entry (R71) -/

/-- The value of an operand read from source entries, and the tags that are left (R67). -/
def takeTags (k : Core) (n : Nat) (tags : List Nat) : (Nat → Nat) × List Nat :=
  (fun l => (tags.take n).foldr (fun e acc => entryWord k e l + 2 ^ 32 * acc) 0, tags.drop n)

/-- The operands A, B and D of a pending word from its source entries; LIW takes its literal and LDK its constant for A. -/
def argsOfTags (k : Core) (i : Instr) (m : Half) (tags : List Nat) (constant : Nat → Nat) : Args :=
  let t := tyOf m
  let width (u : Use) : Nat := (tagRegs u t).length
  let base : Args :=
    { mode := m, mask := BitVec.allOnes 32, outs := lanes, a := fun _ => 0, b := fun _ => 0, d := fun _ => 0 }
  match i with
  | .liw _ x => { base with a := fun _ => x.toNat }
  | .ldk _ x => { base with a := fun _ => constant x.toNat }
  | _ =>
    let pick (us : List Use) : Args :=
      match us with
      | [u] => { base with a := (takeTags k (width u) tags).1, d := (takeTags k (width u) tags).1 }
      | [u, v] =>
        let (a, rest) := takeTags k (width u) tags
        let (b, _) := takeTags k (width v) rest
        { base with a := a, b := b, d := b }
      | u :: v :: w :: _ =>
        let (a, rest) := takeTags k (width u) tags
        let (b, rest) := takeTags k (width v) rest
        let (d, _) := takeTags k (width w) rest
        { base with a := a, b := b, d := d }
      | [] => base
    pick (sourcesOf i)

/-- The lanes and flags of an entry's computation, for its half (R70, R71). -/
def computeEntry (k : Core) (x : Entry) (p : Pending) (constant : Nat → Nat) : List Word × Flags :=
  match resultsOf p.word (argsOfTags k p.word p.mode x.sources constant) with
  | none => ([], 0)
  | some rs =>
    (rs.map fun r => BitVec.ofNat 32 (if p.odd then r.2.1 / 2 ^ 32 else r.2.1), rs.foldl (fun f r => f ||| r.2.2) 0)

/-- Every source of a pending entry is published (R69). -/
def sourcesReady (k : Core) (x : Entry) : Bool :=
  x.sources.all fun e => e < 2 || ((find k.entries e).map fun y => y.state != .pending).getD true

/-- The old contents of registers that were bound to an entry while it was PENDING are known now (R62). -/
def Thread.reveal (th : Thread) (e : Nat) (bytes : List Word) : Thread :=
  if th.behind.any fun x => x.2.1 = e then
    { th with
      behind := th.behind.filter fun x => x.2.1 ≠ e
      vregs := (th.behind.filter fun x => x.2.1 = e).foldl (fun m x =>
        (lanesOf x.2.2).foldl (fun m l => put 0 m (x.1 * 32 + l) (bytes.getD l 0)) m) th.vregs }
  else th

/-- The same in every thread of a core. -/
def Core.reveal (k : Core) (e : Nat) (bytes : List Word) : Core :=
  { k with blocks := k.blocks.map fun (n, b) => (n, { b with threads := b.threads.map fun (t, th) => (t, th.reveal e bytes) }) }

/-- A killed entry is counted (R285). -/
def Core.countKill (k : Core) : Core := k.tally fun t => { t with kill := saturate64 (t.kill + 1) }

/-- Publish an entry with its lanes and flags (R71); a kill that reached it while PENDING takes effect now (R282). -/
def publish (k : Core) (e : Nat) (bytes : List Word) (f : Flags) (now : Nat) : Core :=
  match find k.entries e with
  | none => k
  | some x =>
    let killed := (x.comp.map (·.killed)).getD false
    let k := (k.modEntry e fun x =>
      { x with state := if killed then .dead else .published, bytes := bytes, flags := f, recency := now, sources := [],
               comp := none, traps := false }).reveal e bytes
    if killed then (k.emptyWay e).countKill else k

/-- Abandon an entry (R71): DEAD, out of the directory. The lanes that its binders form for themselves stay for computations that
name it; `lost` are those that nobody forms, and `spoiled` says that no such computation may be published (R72, R283). -/
def Core.abandon (k : Core) (e : Nat) (bytes : List Word := []) (lost : Word := 0) (spoiled : Bool := false) : Core :=
  (((k.modEntry e fun x =>
      { x with state := .dead, bytes := bytes, lost := lost, spoiled := spoiled, sources := [], comp := none,
               traps := false }).emptyWay e).tally
    fun t => { t with aband := saturate64 (t.aband + 1) }).reveal e bytes

/-! ### Computations that name an abandoned entry (R71, R72, R283) -/

/-- The lost lanes of an operand's source entries, of those that a test picks. -/
def lostLanes (k : Core) (p : Entry → Bool) (tags : List Nat) : Word :=
  tags.foldl (fun m e => match find k.entries e with
    | some x => if x.state == .dead && p x then m ||| x.lost else m
    | none => m) 0

/-- The lanes of an entry's computation that lost lanes of its sources enter (R359). -/
def Entry.lostFrom (x : Entry) (k : Core) (q : Pending) (p : Entry → Bool) (constant : Nat → Nat) : Word :=
  if x.sources.all (fun e => ((find k.entries e).map fun y => y.lost == 0).getD true) then 0
  else
    let t := tyOf q.mode
    let us := (sourcesOf q.word).map fun u => (tagRegs u t).length
    let part (i : Nat) : Word := lostLanes k p ((x.sources.drop (us.take i).sum).take (us.getD i 0))
    poisonedOf q.word (argsOfTags k q.word q.mode x.sources constant) (part 0) (part 1) (part 2)

/-- Some source of a computation may not be shared. -/
def Entry.spoilt (x : Entry) (k : Core) : Bool :=
  x.sources.any fun e => ((find k.entries e).map fun y => y.state == .dead && y.spoiled).getD false

/-- The key of an LDGK leaf (R67). -/
def keyedByLoad (x : Entry) : Bool := x.key.headD 0 % 256 = 0x72

/-! ### Kills (R280 to R282) -/

/-- Computations that still wait for a source, and so have read none, meet the kill of a source whose readers trap (R69, R76).
`before` is the core before the kill. -/
def Core.killReaders (k before : Core) (killed : Nat → Bool) : Core :=
  { k with
    entries := k.entries.map fun (e, x) =>
      (e, if x.state == .pending && x.sources.any killed && !sourcesReady before x then
        { x with comp := x.comp.map fun q => { q with dead := true } } else x) }

/-- Kill the entries that a test picks (R280). `traps` says that readers trap (R76). A PENDING entry dies at its
publication (R282). -/
def Core.kill (k : Core) (p : Nat → Entry → Bool) (traps : Bool) : Core :=
  let dies (e : Nat) (x : Entry) : Bool := x.state != .dead && p e x
  let after := k.entries.foldl (fun k (e, x) =>
    if !dies e x then k
    else if x.state == .pending then
      k.modEntry e fun x => { x with comp := x.comp.map fun q => { q with killed := true } }
    else ((k.modEntry e fun x => { x with state := .dead, traps := traps }).emptyWay e).countKill) k
  if traps then after.killReaders k fun e => (find k.entries e).any fun x => x.state == .published && p e x else after

/-- An error is found in the bytes of an entry that has been published (R280, R282, R283): a correctable one is corrected and
counted; an uncorrectable one kills the entry, and its readers trap. `before` is the core before the entry was published, or as it
stands. -/
def Core.entryError (k before : Core) (e : Nat) (ecc : Ecc) : Core :=
  match ecc with
  | .clean => k
  | .corrected =>
    { k.tally (fun t => { t with eccc := min (t.eccc + 1) (2 ^ 32 - 1) }) with
      life := { k.life with ecc := put 0 k.life.ecc 1 (saturate64 (findD k.life.ecc 1 0 + 1)) } }
  | .uncorrectable =>
    let k := k.tally fun t => { t with eccu := min (t.eccu + 1) (2 ^ 32 - 1) }
    match find k.entries e with
    | some x =>
      if x.state == .published then 
        (((k.modEntry e fun x => { x with state := .dead, traps := true }).emptyWay e).countKill).killReaders before (· = e)
      else (k.modEntry e fun x => { x with traps := true }).killReaders before (· = e)
    | none => k

/-- Kill entries on every core (R280). -/
def State.killAll (s : State) (p : Nat → Core → Nat → Entry → Bool) : State :=
  { s with cores := s.cores.map fun (c, k) => (c, k.kill (p c k) false) }

/-- Kill what an LDK leaf of a launch reaches (R280). -/
def State.killLaunch (s : State) (l : Nat) : State := s.killAll fun _ _ _ x => x.launch = some l

end Sys2Proof.Machine
end

