-- ==== Sys2Proof/Machine/Execute.lean ====
section
/-! DEFINITION. How a word with a register result executes (R79, R80, R357, R359): its operands, its private result lane by
lane, and its binding through lineage (R69). The meanings of the arithmetic, conversion and lane words are calls of
`laneWord`. -/

namespace Sys2Proof.Machine
open Sys2Proof

/-- The operands of a word as functions of the lane: in the order A, B, D of its table; an only source stands for A and
for D, and the second of two for B and for D. -/
def Ctx.args (c : Ctx) (i : Instr) (outs : List Nat) : Args :=
  let base : Args :=
    { mode := c.cur.mode, mask := c.eff, outs := outs, a := fun _ => 0, b := fun _ => 0, d := fun _ => 0 }
  match i with
  | .liw _ x => { base with a := fun _ => x.toNat }
  | .ldk _ x => { base with a := fun _ => (findD c.launch.consts x.toNat 0).toNat }
  | _ =>
    match sourcesOf i with
    | [] => base
    | [u] => { base with a := c.value u, d := c.value u }
    | [u, v] => { base with a := c.value u, b := c.value v, d := c.value v }
    | u :: v :: w :: _ => { base with a := c.value u, b := c.value v, d := c.value w }

/-- The poisoned lanes of the operands, in the same order. -/
def Ctx.poisons (c : Ctx) (i : Instr) : Word × Word × Word :=
  match sourcesOf i with
  | [] => (0, 0, 0)
  | [u] => (c.usePoison u, 0, 0)
  | [u, v] => (c.usePoison u, c.usePoison v, 0)
  | u :: v :: w :: _ => (c.usePoison u, c.usePoison v, c.usePoison w)

/-- The lanes a word produces: those of the effective mask, or the one value of a scalar destination. -/
def Ctx.outs (c : Ctx) (i : Instr) : List Nat :=
  if (destsOf i).any (fun u => isScalar u.reg) then [0] else lanesOf c.eff

/-- The registers a word writes. -/
def Ctx.destRegs (c : Ctx) (i : Instr) : List Reg := flatten ((destsOf i).map fun u => useRegs u c.ty)

/-- Write the lanes of a result that passed, and OR in their flags (R48, R357). -/
def Ctx.writePassed (c : Ctx) (i : Instr) (r : Results) (s : State) : State :=
  let f := r.foldl (fun f x => f ||| x.2.2) 0
  s.modThread c.ref fun th =>
    (th.writeRegs c.core c.slot (c.destRegs i) (r.map fun x => (x.1, x.2.1)) 0).orFlags f

/-- Park the lanes that failed a check, or else those that consume poison, of a word whose other lanes have completed
(R252, R357, R359). -/
def Ctx.parkFailed (c : Ctx) (i : Instr) (failed poisoned : Word) (s : State) : State :=
  if failed ≠ 0 then
    let unit := unitOf i c.ty
    let synd := c.thread.quad * 64 + (if unit = 3 || unit = 7 then 32 else 0) +
      (if unit = 8 then 0 else lowestLane failed % 32)
    let s := s.modCore c.ref.core fun k => { k with life := { k.life with traps := saturate64 (k.life.traps + 1) } }
    parkLanes s c.ref c.slot
      { cause := .pipeline, lanes := failed, synd := BitVec.ofNat 32 synd, unit := BitVec.ofNat 32 unit, pc := c.cur.pc,
        seq := c.seq } (failed ||| poisoned) c.next
  else
    parkLanes s c.ref c.slot { cause := .uncorrectable, lanes := poisoned, pc := c.cur.pc, seq := c.seq } poisoned c.next

/-- Finish a word with a vector or scalar result: the lanes that pass are written, the others parked (R357, R359). A
consumption that restarts a region writes nothing (R362). -/
def Ctx.finish (c : Ctx) (i : Instr) (r : Results) (poisoned : Word) (s : State) : State :=
  let unit := unitOf i c.ty
  let fires := unit != 0 && c.thread.armed unit
  let s := if fires then c.fire unit s else s
  let scalar := (destsOf i).any fun u => isScalar u.reg
  let failed := if !fires then 0 else if scalar then c.eff else laneBit (lowestLane c.eff)
  if failed = 0 && poisoned = 0 then c.stepOver (wordLength i) (c.writePassed i r s)
  else if failed = 0 && restarts c.thread then c.consumed poisoned 0 0 s
  else if scalar then c.parkFailed i failed poisoned s
  else
    let bad := failed ||| poisoned
    c.parkFailed i failed poisoned (c.writePassed i (r.filter fun x => !hasLane bad x.1) s)

/-- Execute a word privately (R62, R79). -/
def Ctx.compute (c : Ctx) (i : Instr) (s : State) : State :=
  let x := c.args i (c.outs i)
  let (pa, pb, pd) := c.poisons i
  match resultsOf i x with
  | none => c.stepOver (wordLength i) s
  | some r => c.finish i r ((poisonedOf i x pa pb pd ||| guardedOf i c.guardPoison c.eff) &&& c.eff) s

/-- A source of the word is bound to an entry that is not published. -/
def Ctx.sourcePending (c : Ctx) (i : Instr) : Bool :=
  (sourcesOf i).any fun u => (useRegs u c.ty).any (boundPending c.core c.thread)

/-- Execute privately a word that found no room in the store: it waits for its sources as it would without lineage (R69).
`t` is the state with the attempt counted. -/
def Ctx.computeUnbound (c : Ctx) (i : Instr) (t s : State) : State :=
  if c.sourcePending i then c.holdAt .operand s else c.compute i t

/-- The computation a new entry of this word stands for (R69). -/
def Ctx.pending (c : Ctx) (i : Instr) (odd fails : Bool) : Pending where
  word := i
  mode := c.cur.mode
  producer := c.ref
  slot := c.slot
  pc := c.cur.pc
  seq := c.seq
  odd := odd
  fails := fails
  waiters := []
  killed := false
  dead := false

/-- The binding of this word to a register, for its flags. -/
def Ctx.waiter (c : Ctx) (n : Nat) : Waiter := ⟨c.ref, n, c.cur.pc, c.seq, c.thread.depth, true⟩

/-- The core and entry of a key that was found or allocated, its flags, and whether the entry is new. -/
def Bound.parts : Bound → Option (Core × Nat × Flags × Bool)
  | .hit k e f => some (k, e, f, false)
  | .joined k e => some (k, e, 0, false)
  | .fresh k e => some (k, e, 0, true)
  | .none => Option.none

/-- Count a miss that found no room (R285). -/
def Core.countNoRoom (k : Core) : Core := k.tally fun t => { t with missn := saturate64 (t.missn + 1) }

/-- Bind the destination registers to the entries found, and OR in recorded flags (R69, R73). -/
def Ctx.bindTo (c : Ctx) (k : Core) (binds : List (Nat × Nat)) (f : Flags) (s : State) : State :=
  (s.setCore c.ref.core k).modThread c.ref fun th =>
    (binds.foldl (fun th b => th.bindReg k b.1 b.2) th).orFlags f

/-- The word has allocated entry e: its slot, now at the next word, waits for the values of the sources that are pending (R69). -/
def Ctx.awaitSources (c : Ctx) (e : Nat) (s : State) : State :=
  if ((find (s.coreAt c.ref.core).entries e).map fun x => !sourcesReady (s.coreAt c.ref.core) x).getD false then
    s.modSlot c.ref c.slot fun x => if x.park.isSome then x else { x with hold := .sources e }
  else s

/-- A word has bound its destination: it has issued. `new` is an entry it has allocated, and `fails` that its armed check has fired. -/
def Ctx.boundOn (c : Ctx) (i : Instr) (new : Option Nat) (fails : Bool) (s : State) : State :=
  match new with
  | none => c.stepOver (wordLength i) s
  | some e => c.awaitSources e (c.stepOver (wordLength i) (if fails then c.fire (unitOf i c.ty) s else s))

/-- Resolve the destination of a word that has lineage, at issue (R69, R70). An armed check fires when the word executes,
and fails the entry's computation (R71, R364). -/
def Ctx.bind (c : Ctx) (i : Instr) (s : State) : State :=
  let k := s.coreAt c.ref.core
  let regs := flatten ((sourcesOf i).map fun u => tagRegs u c.ty)
  let unit := unitOf i c.ty
  let fails := unit != 0 && c.thread.armed unit
  match resolveTags c s.tick k [] regs with
  | (k1, none) => c.computeUnbound i (s.setCore c.ref.core k1) s
  | (k1, some tags) =>
    let key (odd : Bool) : List Nat := keyOf i c.cur.mode c.part c.block.launch 0 odd tags
    match (c.destRegs i).map regNum with
    | [n] =>
      match (resolveKey k1 (key false) tags s.tick (c.pending i false fails) (c.waiter n)).parts with
      | none => c.computeUnbound i (s.setCore c.ref.core k1.countNoRoom) s
      | some (k2, e, f, new) =>
        c.boundOn i (if new then some e else none) fails (c.bindTo k2 [(n, e)] f s)
    | n :: m :: _ =>
      match (resolveKey k1 (key false) tags s.tick (c.pending i false fails) (c.waiter n)).parts with
      | none => c.computeUnbound i (s.setCore c.ref.core k1.countNoRoom) s
      | some (k2, e, f, new) =>
        match (resolveHeld k2 (key true) tags (tags ++ [e]) s.tick (c.pending i true fails) (c.waiter m)).parts with
        | none =>
          let k3 := (if new then k2.abandon e else k2).countNoRoom
          c.computeUnbound i (s.setCore c.ref.core k3) s
        | some (k3, e', f', new') =>
          c.boundOn i (if new then some e else if new' then some e' else none) fails
            (c.bindTo k3 [(n, e), (m, e')] (f ||| f') s)
    | [] => c.compute i s

/-- The meaning of an arithmetic, conversion or lane word: through lineage where R63 gives its result one, else privately. -/
def laneWord (i : Instr) (s : State) : Host.Outcome State Fault Refusal :=
  runGate (gateNaming (hasLineage i) i s) i
    (fun c s => if hasLineage i c then c.bind i s else c.compute i s) s

end Sys2Proof.Machine
end

