-- ==== Sys2Proof/Machine/Queue.lean ====
section
/-! DEFINITION. A thread's store queue seen from its accesses (R179, R187, R191): performing queued stores, the memory a
younger access of the thread sees, and reading a translated access. -/

namespace Sys2Proof.Machine
open Sys2Proof

/-- A physical address of this module (R173). -/
def isLocal (s : State) (a : Nat) : Bool := physModule a = s.fabric.module

/-- The bytes of each part, in address order. -/
def cutBytes : (parts : List (Nat × Nat)) → List Byte → List (Nat × List Byte)
  | [], _ => []
  | (a, n) :: rest, bs => (a, bs.take n) :: cutBytes rest (bs.drop n)

/-- Write the bytes of one lane's access in its space, its poison apart. -/
def writeLane (s : State) (t : ThreadRef) (part : Nat) (space : Space) (a : LaneAccess) (bs : List Byte) : State :=
  match space with
  | .global =>
    (cutBytes a.parts bs).foldl
      (fun s x => if isLocal s x.1 then s.writeBytes (s.partAt part).key (physKey x.1) x.2 else s) s
  | x => s.modBlock t.core t.block fun b => { b with regions := writeCells b.regions (regionKey (spaceCode x) a.va) bs }

/-- The local keys a lane's access covers, as ranges. -/
def laneRanges (s : State) (space : Space) (a : LaneAccess) (n : Nat) : List (Nat × Nat) :=
  match space with
  | .global => (a.parts.filter fun x => isLocal s x.1).map fun x => (physKey x.1, x.2)
  | x => [(regionKey (spaceCode x) a.va, n)]

/-- The ranges of those lanes of a store that are poisoned, or of those that are not. -/
def storeRanges (s : State) (space : Space) (ls : List LaneStore) (poison : Bool) : List (Nat × Nat) :=
  flatten ((ls.filter fun x => x.poison == poison).map fun x => laneRanges s space x.access x.bytes.length)

/-- Perform the lanes of a store, ascending: the highest lane wins where lanes overlap (R187), and the lanes are one write
(R359). -/
def performLanes (s : State) (t : ThreadRef) (part : Nat) (space : Space) (ls : List LaneStore) : State :=
  let clean := storeRanges s space ls false
  let dirty := storeRanges s space ls true
  let s := ls.foldl (fun s x => writeLane s t part space x.access x.bytes) s
  match space with
  | .global => { s with poison := poisonAfterAll s.poison clean dirty }
  | _ => s.modBlock t.core t.block fun b => { b with rpois := poisonAfterAll b.rpois clean dirty }

/-- Memory as the thread's word of issue number n sees it: with its older queued stores performed (R191). -/
def ownView (s : State) (t : ThreadRef) (part n : Nat) : State :=
  match s.threadAt t with
  | none => s
  | some th =>
    (th.stores.filter fun x => x.atomic.isNone && x.seq < n).foldl
      (fun s x => performLanes s t part x.space x.lanes) s

/-- The bytes of local parts, and whether a sector of them is poisoned. -/
def readParts (s : State) (part : Nat) (parts : List (Nat × Nat)) : List Byte × Bool :=
  (flatten (parts.map fun x => s.readMem (s.partAt part).key (physKey x.1) x.2),
   parts.any fun x => isLocal s x.1 && anyPoison s.poison (physKey x.1) x.2)

/-- The bytes of one lane's access, and whether a sector it touches is poisoned (R359). -/
def readAccess (s : State) (t : ThreadRef) (part : Nat) (space : Space) (a : LaneAccess) (n : Nat) : List Byte × Bool :=
  match space with
  | .global => readParts s part a.parts
  | x =>
    match s.blockAt t.core t.block with
    | none => (zeros n, false)
    | some b => (b.readRegion (spaceCode x) a.va n, b.regionPoison (spaceCode x) a.va n)

/-- The access reaches a frame of another module. -/
def LaneAccess.isRemote (a : LaneAccess) (s : State) : Bool := a.parts.any fun x => !isLocal s x.1

/-- The access sets of R188 as bits: R, W, A and E. -/
def setR : Nat := 1
/-- See `setR`. -/
def setW : Nat := 2
/-- See `setR`. -/
def setA : Nat := 4
/-- See `setR`. -/
def setE : Nat := 8

/-! ### Accesses still to be performed (R188, R196) -/

/-- A load of the thread issued up to n has lanes still to be written. -/
def loadsBefore (th : Thread) (n : Nat) : Bool :=
  th.loads.any fun x => x.seq ≤ n && (!x.accesses.isEmpty || x.logged ≠ 0)

/-- A store, or an atomic, of the thread issued up to n is in its queue. -/
def storesBefore (th : Thread) (n : Nat) (atomics : Bool) : Bool :=
  th.stores.any fun x => x.seq ≤ n && x.atomic.isSome == atomics

/-- A matrix or ladder operation of the thread issued up to n is queued. -/
def enginesBefore (k : Core) (t : ThreadRef) (n : Nat) : Bool :=
  (k.engine.any fun e => e.members.any fun m => m.thread = t && m.seq ≤ n) ||
  (k.ladderQ.any fun o => o.thread = t && o.wseq ≤ n)

/-- An E access issued up to n is not performed: a post, or a copy command whose last write is still to come; a CPYM that waits
for its acknowledgements alone has performed it (R188, R196, R233). -/
def commandsBefore (th : Thread) (n : Nat) : Bool :=
  (th.posts.any fun x => x.seq ≤ n) || (th.cmds.any fun x => x.seq ≤ n && x.status.isNone && !x.moved)

/-- A store still queued has been returned to a load issued up to n: the cumulative part of P (R196, R197). The stores of other agents
that a load returns have been performed before it reads them. -/
def returnedBefore (th : Thread) (n : Nat) : Bool := th.stores.any fun x => x.returned.any (decide <| · ≤ n)

/-- An access of the sets of PRED issued up to n is not performed, or a store returned to one of them (R196). -/
def predBefore (k : Core) (t : ThreadRef) (th : Thread) (pred n : Nat) : Bool :=
  (bit pred 0 && (loadsBefore th n || enginesBefore k t n || returnedBefore th n)) ||
  (bit pred 1 && (storesBefore th n false || enginesBefore k t n)) ||
  (bit pred 2 && storesBefore th n true) ||
  (bit pred 3 && commandsBefore th n)

/-- Every older R, W and A access of the wave is performed, as a release needs: matrix and ladder accesses too (R188, R200). -/
def Ctx.released (c : Ctx) : Bool :=
  !(loadsBefore c.thread c.seq || storesBefore c.thread c.seq false || storesBefore c.thread c.seq true ||
    enginesBefore c.core c.ref c.seq)

/-- A hold is a FENCE's that keeps younger accesses of these sets back. -/
def Hold.fences (h : Hold) (sets : Nat) : Bool :=
  match h with
  | .fence _ _ succ => succ &&& sets != 0
  | _ => false

/-- A FENCE of the other slot, or of a path that waits on the stack, holds a word whose accesses are in these sets (R196). FENCEs of
paths that a trap has suspended hold no word of the handler: the model's choice (log 103). -/
def Thread.fenced (th : Thread) (slot : Bool) (sets : Nat) : Bool :=
  th.paths.places.any fun x => x.1 ≠ .slot slot && x.2.mask ≠ 0 && x.2.hold.fences sets

/-- A FENCE of issue number below n, wherever its path stands, keeps accesses of these sets back (R196). -/
def Thread.fencedAt (th : Thread) (n sets : Nat) : Bool :=
  th.paths.places.any fun x => x.2.mask ≠ 0 && match x.2.hold with
    | .fence m _ succ => m < n && succ &&& sets != 0
    | _ => false

/-- A hold is a FENCE's that has nothing more to wait for. -/
def Hold.fenceOver (h : Hold) (k : Core) (t : ThreadRef) (th : Thread) : Bool :=
  match h with
  | .fence n pred _ => !predBefore k t th pred n
  | _ => false

/-- A slot that no hold keeps goes on behind its word; past the window's last word it is parked there with cause 0x03 (R146).
`window` is the window of the thread's code, and `seq` the issue number of the trap. -/
def Slot.passWord (window seq : Nat) (x : Slot) : Slot :=
  if x.pc = 0xFFFFFFFC then
    { x with
      hold := .free
      park := some { cause := .address, lanes := x.mask, va := window * 2 ^ 32 + x.pc.toNat, pc := x.pc, seq := seq } }
  else { x with hold := .free, pc := x.pc + 4 }

/-- The window of a thread's code (R146). -/
def windowOf (s : State) (t : ThreadRef) : Nat :=
  ((s.blockAt t.core t.block).map fun b => (s.launchOf b).window (t.thread == ccpThread)).getD 0

/-- FENCEs of paths on the stack end when their accesses are performed (R196): the path goes on after its FENCE once it comes
back. -/
def settleFences (s : State) (t : ThreadRef) : State :=
  match s.threadAt t with
  | none => s
  | some th =>
    if th.paths.stack.isEmpty then s
    else
      let done (x : Place × Slot) : Bool := match x.1 with
        | .slot _ => false
        | _ => x.2.hold.fenceOver (s.coreAt t.core) t th
      let p := (th.paths.places.filter done).foldl (fun p x => p.modAt x.1 (Slot.passWord (windowOf s t) s.seq)) th.paths
      s.modThread t fun th => { th with paths := p }

/-! ### The order in which a store queue drains (R179, R193) -/

/-- Bytes of a width code (R168). -/
def widthBytes (w : BitVec 3) : Nat := 2 ^ w.toNat

/-- Bytes a logged word accesses in a lane, for R193: a spill entry has 192 (R153). -/
def accessSize : Instr → Nat
  | .ldg _ _ _ w _ | .stg _ _ _ w _ | .ldgk _ _ _ w _ => widthBytes w
  | .atomg .. | .casg .. => 4
  | .atomg64 .. => 8
  | _ => 192

/-- The virtual addresses, as (first byte, length), that a store-queue entry writes: its lanes, and those of it that wait in the
operand log. -/
def Thread.storedAt (th : Thread) (x : StoreOp) : List (Nat × Nat) :=
  (x.lanes.map fun y => (y.access.va, y.bytes.length)) ++
    flatten ((th.log.filter fun e => e.seq = x.seq).map fun e => e.lanes.map fun l => (e.base + l.offset, accessSize e.word))

/-- Two lists of ranges share a byte. -/
def rangesMeet (xs ys : List (Nat × Nat)) : Bool := xs.any fun a => ys.any fun b => a.1 < b.1 + b.2 && b.1 < a.1 + a.2

/-- A handler's store or atomic drains past an entry that a page fault of a lower depth keeps in place, unless it writes the same
bytes (log 92): R263 lets REPLAY wait for the handler's page-table stores, which R193 puts behind such an entry. -/
def Thread.passes (th : Thread) (x y : StoreOp) : Bool :=
  y.waiting ≠ 0 && y.depth < x.depth && !(x.space == y.space && rangesMeet (th.storedAt x) (th.storedAt y))

/-- Those of some store-queue entries, after others, that nothing older keeps from being performed: a spill write waits for FENCEs whose
SUCC names W (R154, R196). -/
def Thread.drainFrom (th : Thread) (before : List StoreOp) : List StoreOp → List StoreOp
  | [] => []
  | x :: rest =>
    (if x.waiting = 0 && before.all (th.passes x) && !(x.spill && th.fencedAt x.seq setW) then [x] else []) ++ Thread.drainFrom th (before ++ [x]) rest

/-- The entries of a store queue that can be performed next, in queue order. -/
def Thread.drains (th : Thread) : List StoreOp := th.drainFrom [] th.stores

/-- An entry leaves the store queue. Its counter falls once every older entry of its path has left too (R209). -/
def Thread.dropStore (th : Thread) (x : StoreOp) : Thread :=
  let stores := th.stores.filter (· ≠ x)
  let path := x.atomic.isSome
  let noted := if x.spill then th.overtaken else th.overtaken ++ [(x.seq, path)]
  { th with
    stores := stores
    overtaken := noted.filter fun y => stores.any fun z => z.seq < y.1 && z.atomic.isSome == y.2 && !z.spill }

/-- The wave's queued stores older than access n that a load of some bytes reads are returned to it (R178, R196). -/
def Thread.returnStores (th : Thread) (n : Nat) (space : Space) (at_ : List (Nat × Nat)) : Thread :=
  { th with
    stores := th.stores.map fun x =>
      if x.atomic.isNone && x.seq < n && x.space == space && x.returned.isNone &&
          rangesMeet (x.lanes.map fun y => (y.access.va, y.bytes.length)) at_ then { x with returned := some n } else x }

/-- Loads at the head of the list that have ended leave it: path 0 falls in issue order (R179). -/
def Thread.popLoads (th : Thread) : Thread :=
  { th with loads := th.loads.dropWhile fun x => x.accesses.isEmpty && x.logged = 0 }

/-- Log entries a thread holds or is about to write: at most 8 (R254). -/
def Thread.logged (th : Thread) : Nat := th.log.length + th.faulted.length

/-- The operand log has a free entry (R254). -/
def Thread.logFree (th : Thread) : Bool := th.logged < 8

/-- A spill access that page-faults: its log entry, which holds the effective lanes at the faulting address (R154, R254). -/
def spillEntry (th : Thread) (slot : Bool) (word : Instr) (kind : AccessKind) (seq : Nat) (pc : Word) (mode : Half)
    (lanes : Word) (va : Nat) (vas : List (Nat × Nat)) : LogEntry where
  number := 0
  seq := seq
  pc := pc
  word := word
  kind := kind
  mode := mode
  slot := slot
  depth := th.depth
  base := va
  lanes := (lanesOf lanes).map fun l => { lane := l, offset := 0, vas := vas, bytes := [], poison := false }
  shared := 0
  queued := []

end Sys2Proof.Machine
end

