-- ==== Sys2Proof/Machine/Footprint.lean ====
section
/-! DEFINITION. Which buffer bytes a matrix or ladder operation reads and writes (R121 to R124, R134, R137 to R145, R245 to
R248), for the checks at issue, the scoreboard of R134 and the events of R216. -/

namespace Sys2Proof.Machine
open Sys2Proof

/-! ### Spans -/

/-- A run of bytes of a region. -/
structure Span where
  code : Nat
  offset : Nat
  size : Nat
  deriving DecidableEq, Repr

/-- Two runs share a byte. -/
def Span.meets (a b : Span) : Bool :=
  a.code = b.code && a.offset < b.offset + b.size && b.offset < a.offset + a.size && 0 < a.size && 0 < b.size

/-- What an operation reads and what it writes. -/
structure Footprint where
  reads : List Span
  writes : List Span
  deriving DecidableEq, Repr

/-- Some run of one list meets one of the other. -/
def anyMeet (xs ys : List Span) : Bool := xs.any fun x => ys.any x.meets

/-- A younger access waits for an older operation: it writes what the older one reads or writes, or reads what it writes
(R134). -/
def Footprint.blocks (older younger : Footprint) : Bool :=
  anyMeet younger.writes (older.reads ++ older.writes) || anyMeet younger.reads older.writes

/-! ### FMT (R29) and the tiles of the matrix engine -/

/-- FMT.SP. -/
def fmtSp (f : Word) : Nat := bits f.toNat 23 20
/-- FMT.LUTR. -/
def fmtLutr (f : Word) : Nat := bits f.toNat 19 12
/-- FMT.SC. -/
def fmtSc (f : Word) : Nat := bits f.toNat 11 10
/-- FMT.ACC. -/
def fmtAcc (f : Word) : Nat := bits f.toNat 9 8
/-- FMT.AF. -/
def fmtAf (f : Word) : Nat := bits f.toNat 7 4
/-- FMT.WF. -/
def fmtWf (f : Word) : Nat := bits f.toNat 3 0

/-- Bits of an element of a weight format; 2 for the quarter byte of cb2 (R39). -/
def weightBits (wf : Nat) : Nat :=
  match wf with
  | 0 | 1 | 9 => 8
  | 2 | 3 => 16
  | 7 => 2
  | 10 => 32
  | 11 => 64
  | _ => 4

/-- A reserved code of FMT.WF. -/
def wfReserved (wf : Nat) : Bool := 12 ≤ wf
/-- A reserved code of FMT.AF. -/
def afReserved (af : Nat) : Bool := (4 ≤ af && af ≤ 7) || 12 ≤ af

/-- Bytes of a step's A elements (R122). -/
def tileBytesA (af : Nat) : Nat := 128 * weightBits af
/-- stride_A (R122). -/
def strideA (af sc : Nat) : Nat := tileBytesA af + (if sc = 2 then 64 else 0)
/-- Bytes of one B column of a step (R123). -/
def columnBytes (wf sp : Nat) : Nat := if sp = 1 then 2 * weightBits wf + 4 else 4 * weightBits wf
/-- stride_B (R123). -/
def strideB (wf sc sp : Nat) : Nat := 32 * columnBytes wf sp + (if sc = 2 then 64 else 0)
/-- Bytes of a C tile with its row sums (R124). -/
def tileBytesC (acc : Nat) (rowsum : Bool) : Nat := (if acc = 2 then 8192 else 4096) + (if rowsum then 128 else 0)

/-! ### Matrix operations -/

/-- Field n of the descriptor a member read at issue. -/
def EngineMember.field (m : EngineMember) (n : Nat) : Nat := (m.desc.getD n 0).toNat
/-- Steps of an MMA, MMAZ or MMAS (R128). -/
def EngineMember.steps (m : EngineMember) : Nat := m.field 3 % 256
/-- Row sums are enabled (R128). -/
def EngineMember.rowsum (m : EngineMember) : Bool := bit (m.field 3) 8

/-- The word of step s of an MMAS step table (R138). -/
def tableWord (b : Block) (table s : Nat) : Nat := b.regionWord 2 (table + 4 * s)

/-- The non-zero entries of the CSR block at an offset of WB: rp[32] (R138). -/
def csrCount (b : Block) (block : Nat) : Nat := leNat (b.readRegion 2 (block + 64) 2)

/-- Bytes of a CSR block (R138). -/
def csrBytes (wf nnz : Nat) : Nat := 68 + 4 * ceilDiv nnz 4 + ceilDiv (nnz * weightBits wf) 8

/-- The CSR blocks that a step table names, as the table and the row pointers stand (R138). -/
def csrSpans (b : Block) (wf table steps : Nat) : List Span :=
  (List.range steps).filterMap fun s =>
    let w := tableWord b table s
    if bit w 31 then none
    else
      let block := table + w % 2 ^ 20
      some ⟨2, block, csrBytes wf (min (csrCount b block) 1024)⟩

/-- Bytes of an element of MTRN (R144). -/
def mtrnBytes (m : Half) : Nat := tyBits (tyOf m) / 8

/-- What a matrix operation reads and writes for one member (R128, R136 to R145). -/
def matrixFootprint (b : Block) (opcode : Nat) (m : EngineMember) : Footprint :=
  let f := m.field
  let af := fmtAf m.fmt
  let sc := fmtSc m.fmt
  let wf := fmtWf m.fmt
  let a : Span := ⟨0, f 0, m.steps * strideA af sc⟩
  let c : Span := ⟨1, f 2, tileBytesC (fmtAcc m.fmt) m.rowsum⟩
  let weights : Span := ⟨2, f 1, m.steps * strideB wf sc (fmtSp m.fmt)⟩
  match opcode with
  | 0x90 => ⟨[a, weights, c], [c]⟩
  | 0x91 => ⟨[a, weights], [c]⟩
  | 0x92 => ⟨a :: ⟨2, f 1, 4 * m.steps⟩ :: c :: csrSpans b wf (f 1) m.steps, [c]⟩
  | 0x93 => ⟨[⟨1, f 0, 4224⟩, ⟨1, f 1, 128⟩, ⟨1, f 2, 128⟩, ⟨1, f 3, 4096⟩], [⟨1, f 3, 4096⟩]⟩
  | 0x94 =>
    let v : Span := ⟨1, f 1, 128⟩
    ⟨⟨0, f 0, f 2 % 256 * strideA af sc⟩ :: (if bit (f 2) 8 then [v] else []), [v]⟩
  | 0x95 =>
    let lines := f 2 % 64
    ⟨[⟨0, f 0, lines * 4 * weightBits af⟩], [⟨0, f 1, lines * (2 * weightBits af + 4)⟩]⟩
  | 0x96 => ⟨[⟨3, f 0, 1024⟩], []⟩
  | 0x97 => ⟨[⟨1, f 0, 4096⟩], [⟨0, f 1, tileBytesA af + (if bit (f 2) 0 then 64 else 0)⟩]⟩
  | 0x98 => ⟨[], [⟨1, f 0, 4096⟩]⟩
  | _ => ⟨[⟨0, f 0, 1024 * mtrnBytes m.mode⟩], [⟨0, f 1, 1024 * mtrnBytes m.mode⟩]⟩

/-! ### Ladders (R240, R241) -/

/-- Rung k is occupied (R241). -/
def Ladder.occupied (x : Ladder) (k : Nat) : Bool := if k + 1 = x.nr then 2 ^ k ≤ x.n else k + 1 < x.nr && bit x.n k
/-- The offset of rung k (R240). -/
def Ladder.rung (x : Ladder) (k : Nat) : Nat := x.rung0 + 4096 * k
/-- The occupied rungs, in ascending order. -/
def Ladder.rungs (x : Ladder) : List Nat := (List.range x.nr).filter x.occupied
/-- The rung that a push writes: the first unoccupied one below the top, else the top (R246). -/
def Ladder.pushRung (x : Ladder) : Nat := ((List.range (x.nr - 1)).find? fun k => !x.occupied k).getD (x.nr - 1)
/-- n after a push (R246). -/
def Ladder.pushed (x : Ladder) : Ladder := { x with n := if x.n = 0xFFFFFFFF then 0x80000000 else x.n + 1 }

/-- Field n of a ladder operation's descriptor. -/
def LadderOp.field (o : LadderOp) (n : Nat) : Nat := (o.words.getD n 0).toNat

/-- The ladder that an operation leaves, where none of its checks fails (R245 to R249). -/
def LadderOp.leaves (o : LadderOp) (x : Ladder) : Ladder :=
  if o.fails then x
  else match o.opcode with
    | 0xA0 => { defined := true, rung0 := o.field 0, nr := o.field 1 % 32, dec := o.field 2, wgt := o.field 3, n := 0 }
    | 0xA1 => x.pushed
    | 0xA6 => { x with n := o.field 0 }
    | 0xA7 => { x with n := 0 }
    | _ => x

/-- A ladder as the operations of a queue leave it, in order (R242). -/
def ladderAfter (b : Block) (block ladder : Nat) (q : List LadderOp) : Ladder :=
  q.foldl (fun x o => if o.thread.block = block && o.ladder = ladder then o.leaves x else x)
    (findD b.ladders ladder freshLadder)

/-- What a ladder operation reads and writes on a ladder (R246 to R248). -/
def ladderFootprint (x : Ladder) (o : LadderOp) : Footprint :=
  let rung (k : Nat) : Span := ⟨1, x.rung k, 4096⟩
  let tile : Span := ⟨1, o.field 0, 4096⟩
  match o.opcode with
  | 0xA1 => ⟨tile :: ⟨1, x.dec, 4 * x.nr⟩ :: x.rungs.map rung, [rung x.pushRung]⟩
  | 0xA2 => ⟨⟨1, x.wgt, 4 * x.nr⟩ :: x.rungs.map rung, [tile]⟩
  | 0xA3 => ⟨[rung (o.field 1)], [tile]⟩
  | 0xA4 => ⟨[tile], [rung (o.field 1)]⟩
  | _ => ⟨[], []⟩

/-! ### Queued operations -/

/-- A queued ladder operation's footprint, on the ladder as the older ones leave it. -/
def queuedLadder (k : Core) (b : Block) (o : LadderOp) : Footprint :=
  ladderFootprint (ladderAfter b o.thread.block o.ladder (k.ladderQ.filter fun p => p.seq < o.seq)) o

/-- The footprints of a wave's queued matrix and ladder operations (R134). -/
def ownFootprints (k : Core) (b : Block) (t : ThreadRef) : List Footprint :=
  flatten (k.engine.map fun e => (e.members.filter fun m => m.thread = t).map (matrixFootprint b e.opcode)) ++
  (k.ladderQ.filter fun o => o.thread = t).map (queuedLadder k b)

/-- A younger access of a wave waits for one of its queued operations (R134). -/
def waitsForEngines (k : Core) (b : Block) (t : ThreadRef) (f : Footprint) : Bool :=
  (ownFootprints k b t).any fun o => o.blocks f

/-- Bytes of a region that the block's queued matrix and ladder operations numbered below n have still to read: the
operations' numbers (R216). -/
def readersOf (k : Core) (b : Block) (block : Nat) (x : Span) : List Nat :=
  (k.engine.filter fun e =>
    e.members.any fun m => m.thread.block = block && anyMeet (matrixFootprint b e.opcode m).reads [x]).map (·.seq) ++
  (k.ladderQ.filter fun o => o.thread.block = block && anyMeet (queuedLadder k b o).reads [x]).map (·.seq)

end Sys2Proof.Machine
end

