-- ==== Sys2Proof/Machine/Yarrow.lean ====
section
/-! DEFINITION. Sending over Yarrow (R344 to R351): the flits of a message, routes and live ports, the end-to-end numbers,
credits and replay windows, and what has become of a message. -/

namespace Sys2Proof.Machine
open Sys2Proof

/-- What this module keeps toward a home. -/
def State.towardAt (s : State) (home : Nat) : Toward := findD s.fabric.toward home freshToward
/-- Change it. -/
def State.modToward (s : State) (home : Nat) (f : Toward → Toward) : State :=
  { s with fabric := { s.fabric with toward := insert s.fabric.toward home (f (s.towardAt home)) } }
/-- A port (R344). -/
def State.portAt (s : State) (p : Nat) : Port := findD s.fabric.ports p freshPort
/-- Change a port. -/
def State.modPort (s : State) (p : Nat) (f : Port → Port) : State :=
  { s with fabric := { s.fabric with ports := insert s.fabric.ports p (f (s.portAt p)) } }

/-- The live ports of the route to a module (R349). -/
def livePorts (s : State) (home : Nat) : List Nat :=
  (List.range 36).filter fun p => bit (findD s.fabric.routes home 0) p && (s.portAt p).up

/-! ### Flits (R344 to R346, R348) -/

/-- The flits of a message whose data has n bytes: the 60-byte body of the head holds what names the access, and every 60
bytes of data take one flit more (log 18). -/
def flitCount (n : Nat) : Nat := 1 + ceilDiv n 60

/-- The KINDs of a message's flits (R344, R345). -/
def flitKinds (count : Nat) : List Nat := if count ≤ 1 then [4] else [1] ++ List.replicate (count - 2) 2 ++ [3]

/-- A flit header without credits (R345). -/
def flitHeader (kind vl seq : Nat) : Word := BitVec.ofNat 32 (kind * 2 ^ 29 + vl % 8 * 2 ^ 26 + seq % 1024 * 2 ^ 16)

/-- The header with credits returned: n flits of a lane, 64 as 0 (R345). -/
def withCredits (h : Word) (vl n : Nat) : Word := h ||| BitVec.ofNat 32 (2 ^ 15 + vl % 8 * 2 ^ 12 + n % 64 * 2 ^ 6)

/-- The header of a flit in the replay buffer. -/
def Flit.header (f : Flit) : Word := flitHeader f.kind f.msg.vl f.seq

/-- A port sends a further flit on a virtual lane: its window and its credits allow it (R346, R348). -/
def Port.takes (x : Port) (vl : Nat) : Bool := x.unacked.length < 1023 && findD x.credits vl 0 < 64

/-- A port begins a further message on a virtual lane: no earlier one of the lane still waits on it. -/
def portTakes (s : State) (vl p : Nat) : Bool :=
  (s.portAt p).takes vl && (s.portAt p).outbox.all fun x => x.2.vl ≠ vl

/-- A port with a further flit in its replay buffer and a credit of its lane used (R346, R348). -/
def Port.sendFlit (x : Port) (kind : Nat) (m : Sending) : Port :=
  let f : Flit := { seq := x.nextSeq, kind := kind, msg := m }
  { x with
    nextSeq := (x.nextSeq + 1) % 1024
    unacked := x.unacked ++ [f]
    wire := x.wire ++ [f.header]
    credits := put 0 x.credits m.vl (findD x.credits m.vl 0 + 1) }

/-- Send the flits that can go, each lane's in order; the others wait. -/
def Port.drainFrom (x : Port) (blocked : List Nat) : List (Nat × Sending) → Port
  | [] => x
  | (kind, m) :: rest =>
    if blocked.contains m.vl || !x.takes m.vl then
      ({ x with outbox := x.outbox ++ [(kind, m)] } : Port).drainFrom (m.vl :: blocked) rest
    else (x.sendFlit kind m).drainFrom blocked rest

/-- Send what waits on a port as far as its window and credits go. -/
def Port.drain (x : Port) : Port := ({ x with outbox := [] } : Port).drainFrom [] x.outbox

/-- A message begins on a port. -/
def Port.push (x : Port) (m : Sending) : Port :=
  ({ x with outbox := x.outbox ++ (flitKinds m.count).map fun k => (k, m) } : Port).drain

/-- The agent's armed fabric error is for a port (R364). -/
def armedFor (p : Nat) (a : Arm) : Bool := match a with
  | .fabric q => q = p
  | _ => false

/-- A port after something that may have sent flits on it: the errors armed for the port fire on the first (R346, R364, kind 2). -/
def sentOn (s : State) (p : Nat) (y : Port) : State :=
  let x := s.portAt p
  let armed := s.threads.filter fun (_, th) => th.arms.any (armedFor p)
  if armed.isEmpty || y.nextSeq = x.nextSeq then s.modPort p fun _ => y
  else
    let s := armed.foldl (fun s (t, _) => s.modThread t fun th => { th with arms := th.arms.filter fun a => !armedFor p a }) s
    s.modPort p fun _ => { y with injected := some x.nextSeq }

/-- A message begins on a port. -/
def pushMessage (s : State) (p : Nat) (m : Sending) : State := sentOn s p ((s.portAt p).push m)

/-- The operation is an atomic. -/
def atomicOp : RemoteOp → Bool
  | .atomic .. | .cas .. => true
  | _ => false

/-- A FABRIC event naming a module (R351). -/
def sendFabric (s : State) (part home : Nat) : State := sendEvent s part 0x8008 noPart part 0 (leBytes 2 home)

/-- The partition of a thread's block. -/
def partOf (s : State) (t : ThreadRef) : Nat :=
  ((s.blockAt t.core t.block).map fun b => (s.launchOf b).partition).getD 0

/-- A message fails (R351). -/
def failMessage (s : State) (part home number : Nat) : State :=
  let s := s.modToward home fun x =>
    { x with waiting := x.waiting.filter (fun w => w.msg.number ≠ number), failed := x.failed ++ [number] }
  sendFabric s part home

/-- Data bytes that a request carries. -/
def opData : RemoteOp → Nat
  | .write bs => bs.length
  | _ => 0

/-- The status code of a copy that the fabric failed (R228, R351). -/
def codeFabric : Nat := 9

/-- The end of the round of a sum that cannot leave: the REDX commands of this module in it fail (R351). -/
def lostSum (c : Contribution) : Instr :=
  .reductionResult
    { via := none
      result :=
        { partition := c.partition, group := c.group, round := c.round, status := codeFabric, poison := false, bytes := [] } }

/-- A message has no live port toward its module (R346, R351): a request fails, and so does the part of this module in the
round of a sum; an answer or a result is lost. -/
def loseMessage (s : State) (m : Sending) : State :=
  match m.vl with
  | 1 => s
  | 3 => match s.fabric.contributions.find? fun x => x.1 = m.number && x.2.root = m.home with
    | some (_, c) =>
      let s := s.modToward m.home fun x => { x with sums := x.sums.filter (· ≠ m.number) }
      sendFabric { s with agenda := s.agenda ++ [lostSum c] } c.partition m.home
    | none => s
  | 4 => sendFabric s (m.number / 2 ^ 48) m.home
  | _ => match (s.towardAt m.home).waiting.find? fun w => w.msg.number = m.number with
    | some w => failMessage s w.part m.home m.number
    | none => s

/-- A message leaves on a live port of its route, waits for one, or is lost (R346, R348, R349). -/
def dispatchMessage (s : State) (m : Sending) : State :=
  match livePorts s m.home with
  | [] => loseMessage s m
  | ports => match ports.filter (portTakes s m.vl) with
    | [] => { s with fabric := { s.fabric with resend := s.fabric.resend ++ [m] } }
    | usable => pushMessage s (usable.getD (m.number % usable.length) 0) m

/-- What sending a message finds. -/
inductive Sent where
  | wait
  | done (s : State) (number : Nat)

/-- A number lies a whole window below the next one (R347). -/
def Toward.windowEnds (x : Toward) (n : Nat) : Bool := 1024 ≤ (x.next + 2 ^ 32 - n) % 2 ^ 32

/-- The limit of R347 on a source: 1,024 messages without a response, sums among them, and within the numbers' window. -/
def Toward.full (x : Toward) : Bool :=
  1024 ≤ x.waiting.length + x.sums.length || x.waiting.head?.any (fun w => x.windowEnds w.msg.number) || x.sums.head?.any x.windowEnds

/-- The limits of R347 on a source for an operation: 256 messages may be atomics. -/
def towardFull (x : Toward) (op : RemoteOp) : Bool :=
  x.full || (atomicOp op && 256 ≤ (x.waiting.filter fun w => atomicOp w.msg.op).length)

/-- Send a request toward a home (R347 to R350). A home without a live route fails it at once (R349, R351). -/
def sendRemote (s : State) (vl part home addr : Nat) (poison : Bool) (op : RemoteOp) : Sent :=
  let x := s.towardAt home
  let n := x.next
  let step (x : Toward) : Toward := { x with next := (n + 1) % 2 ^ 32 }
  match livePorts s home with
  | [] => .done (failMessage (s.modToward home step) part home n) n
  | ports =>
    if towardFull x op then .wait
    else match ports.filter (portTakes s vl) with
      | [] => .wait
      | usable =>
        let p := usable.getD (n % usable.length) 0
        let msg : RemoteMsg :=
          { source := s.fabric.module, home := home, number := n, tenancy := (s.partAt part).tenancy, addr := addr,
            poison := poison, op := op }
        let s := s.modToward home fun x => step { x with waiting := x.waiting ++ [{ msg := msg, part := part }] }
        let s := pushMessage s p { vl := vl, home := home, number := n, count := flitCount (opData op) }
        .done { s with fabric := { s.fabric with sentMsgs := s.fabric.sentMsgs ++ [msg] } } n

/-- What has become of a message. -/
inductive Answer where
  | waiting
  | failed
  | reply (r : RemoteReply)
  deriving DecidableEq, Repr

/-- The answer to message n toward a home. -/
def answerOf (s : State) (home n : Nat) : Answer :=
  let x := s.towardAt home
  if x.failed.contains n then .failed
  else match x.replies.find? fun r => r.number = n with
    | some r => .reply r
    | none => .waiting

/-- Forget the answers to messages whose access has used them. -/
def forgetAnswers (s : State) (ns : List (Nat × Nat)) : State :=
  ns.foldl (fun s x => s.modToward x.1 fun y =>
    { y with replies := y.replies.filter (fun r => r.number ≠ x.2), failed := y.failed.filter (· ≠ x.2) }) s

/-- Send the remote parts of one lane's access; none while one of them must wait. -/
def sendParts (s : State) (part : Nat) (poison : Bool) (op : Nat → List Byte → RemoteOp) :
    List (Nat × List Byte) → Option (State × List (Nat × Nat))
  | [] => some (s, [])
  | (a, bs) :: rest =>
    if isLocal s a then sendParts s part poison op rest
    else match sendRemote s 0 part (physModule a) (physKey a) poison (op bs.length bs) with
      | .wait => none
      | .done s n => (sendParts s part poison op rest).map fun r => (r.1, (physModule a, n) :: r.2)

/-- The messages of accesses. -/
def messagesOf (xs : List LaneAccess) : List (Nat × Nat) := flatten (xs.map (·.remote))

/-- Send what the accesses of a load read from other modules; the accesses with their messages. -/
def sendReads (s : State) (part : Nat) : List LaneAccess → Option (State × List LaneAccess)
  | [] => some (s, [])
  | a :: rest =>
    match sendParts s part false (fun n _ => .read n) (a.parts.map fun x => (x.1, zeros x.2)) with
    | none => none
    | some (s, ns) => (sendReads s part rest).map fun r => (r.1, { a with remote := ns } :: r.2)

/-- How the remote parts of an access ended, the worst first: a failure, a seal, a refusal, or data. -/
inductive RemoteEnd where
  | waiting | failed | sealed | refused | data
  deriving DecidableEq, Repr

/-- The end of an access's remote parts. -/
def remoteEnd (s : State) (a : LaneAccess) : RemoteEnd :=
  let xs := a.remote.map fun r => answerOf s r.1 r.2
  if xs.contains .waiting then .waiting
  else if xs.contains .failed then .failed
  else if xs.any (fun x => match x with | .reply r => r.sealed | _ => false) then .sealed
  else if xs.any (fun x => match x with | .reply r => r.refused | _ => false) then .refused
  else .data

/-- The trap of lanes whose remote access did not end well (R182, R350, R351). -/
def remoteTrap (e : RemoteEnd) (lanes : Word) (va : Nat) (pc : Word) (seq depth : Nat) : LateTrap where
  info :=
    { cause := if e = .sealed then .sealedWrite else .address, lanes := lanes,
      synd := match e with | .failed => 0x80 | .refused => 0x20 | _ => 0, va := va, pc := pc, seq := seq }
  depth := depth
  atNext := true

/-- Bytes of this module's memory, each with the poison of its sector. -/
def readMarked (s : State) (part a n : Nat) : List (Byte × Bool) :=
  (s.readMem (s.partAt part).key (physKey a) n).zip ((List.range n).map fun i => s.poison.contains (physKey (a + i) / 32))

/-- The bytes of an access's parts, local ones from memory and remote ones from their responses, each with its poison. -/
def readPieces (s : State) (part : Nat) : List (Nat × Nat) → List (Nat × Nat) → List (Byte × Bool)
  | [], _ => []
  | (a, n) :: rest, ns =>
    if isLocal s a then readMarked s part a n ++ readPieces s part rest ns
    else match ns with
      | [] => ((zeros n).map fun b => (b, false)) ++ readPieces s part rest []
      | (h, m) :: ns => match answerOf s h m with
        | .reply r => (r.bytes.map fun b => (b, r.poison)) ++ readPieces s part rest ns
        | _ => ((zeros n).map fun b => (b, false)) ++ readPieces s part rest ns

/-- The bytes of an access and its poison. -/
def readAll (s : State) (part : Nat) (a : LaneAccess) : List Byte × Bool :=
  let xs := readPieces s part a.parts a.remote
  (xs.map (·.1), xs.any (·.2))

end Sys2Proof.Machine
end

