-- ==== Sys2Proof/Machine/Memory.lean ====
section
/-! DEFINITION. Issuing loads, stores, LDGK and PRF (R164 to R181): which lanes perform and which fault, what is logged or
parked (R176, R254), and the entry each word leaves in the wave's load list or store queue (R179). -/

namespace Sys2Proof.Machine
open Sys2Proof

/-! ### An access -/

/-- What a memory word does in each lane. -/
structure Access where
  space : Space
  kind : AccessKind
  size : Nat
  /-- The translation register of a global access. -/
  reg : TReg
  /-- One access stands for the whole effective mask (R178). -/
  once : Bool
  offset : Nat → Nat
  data : Nat → List Byte
  /-- Lanes whose data travels poisoned, and lanes that consume poison (R359). -/
  tainted : Word
  consumed : Word
  /-- The cache hint H (R178). -/
  hint : Nat := 0

/-- The lanes that access: each lane of the effective mask, or lane 0 for all of them. -/
def Ctx.accessLanes (c : Ctx) (a : Access) : List Nat := if a.once then [0] else lanesOf c.eff

/-- The lanes of the effective mask that an accessing lane stands for. -/
def Ctx.standsFor (c : Ctx) (a : Access) (lane : Nat) : Word := if a.once then c.eff else laneBit lane

/-- Why a lane does not perform its access: cause, SYND, FAULTVA and, for a page fault, the faulting pages' bytes. -/
structure LaneFail where
  lane : Nat
  cause : Cause
  synd : Nat
  va : Nat
  vas : List (Nat × Nat)
  deriving DecidableEq, Repr

/-- The lanes of an access that perform, those that fault, and addresses still to be walked. -/
structure Resolved where
  ok : List LaneAccess
  fails : List LaneFail
  walks : List Nat
  deriving DecidableEq, Repr

/-- One lane's access to a region (R166). -/
def Ctx.regionLane (c : Ctx) (a : Access) (lane : Nat) : Resolved :=
  let code := spaceCode a.space
  let o := a.offset lane
  let fail (cause : Cause) : Resolved := ⟨[], [⟨lane, cause, code, o, []⟩], []⟩
  if a.kind == .atomic && o % 4 != 0 then fail .misaligned
  else if !insideRegion (c.launch.regionSize code) o a.size || o % a.size ≠ 0 then fail .address
  else ⟨[{ lane := lane, va := o, parts := [], remote := [] }], [], []⟩

/-- One lane's access to global memory (R167, R174, R176). -/
def Ctx.globalLane (c : Ctx) (s : State) (a : Access) (lane : Nat) : Resolved :=
  match resolveLane s c.ref c.slot c.part a.reg a.kind lane (a.offset lane) a.size with
  | .ok x => ⟨[x], [], []⟩
  | .fault cause synd va vas => ⟨[], [⟨lane, cause, 16 * synd, va, vas⟩], []⟩
  | .waits vas => ⟨[], [], vas⟩

/-- A lane that consumes poison, as its access resolves: it faults with cause 0x07, which a misaligned atomic, an address fault and
a sealed write come before (R176, R359). -/
def Resolved.eaten (x : Resolved) (l : Nat) : Resolved :=
  if !x.walks.isEmpty || x.fails.any fun f => causeRank f.cause < causeRank .uncorrectable then x
  else ⟨[], [⟨l, .uncorrectable, 0, 0, []⟩], []⟩

/-- Every lane of an access (R176). -/
def Ctx.resolve (c : Ctx) (s : State) (a : Access) : Resolved :=
  (c.accessLanes a).foldl (fun r l =>
    let x := if a.space = .global then c.globalLane s a l else c.regionLane a l
    let x := if c.standsFor a l &&& a.consumed ≠ 0 then x.eaten l else x
    ⟨r.ok ++ x.ok, r.fails ++ x.fails, r.walks ++ x.walks⟩) ⟨[], [], []⟩

/-! ### Waiting -/

/-- The bytes of a region that the lanes of an access name. -/
def Ctx.accessSpans (c : Ctx) (a : Access) : List Span :=
  (c.accessLanes a).map fun l => ⟨spaceCode a.space, a.offset l, a.size⟩

/-- A load, store or atomic of a region waits for the wave's own queued operations (R36, R134). -/
def Ctx.engineConflict (c : Ctx) (a : Access) : Bool :=
  a.space ≠ .global &&
    waitsForEngines c.core c.block c.ref
      ⟨if a.kind == .store then [] else c.accessSpans a, if a.kind.writes then c.accessSpans a else []⟩

/-- A load overlaps a lane that waits in the operand log, or a lane of an atomic that such a lane keeps in place (R191, R193,
R264). -/
def Ctx.logConflict (c : Ctx) (a : Access) : Bool :=
  a.space = .global && a.kind = .load &&
    rangesMeet ((c.accessLanes a).map fun l => (a.reg.base + a.offset l, a.size))
      (flatten (c.thread.log.map fun e => e.lanes.map fun x => (e.base + x.offset, accessSize e.word)) ++
        flatten ((c.thread.stores.filter fun x => x.atomic.isSome && x.waiting ≠ 0 && x.space == .global).map c.thread.storedAt))

/-- The path an access counts on (R209): none for LDS and LDB. -/
def accessPath (a : Access) : Option Nat :=
  match a.kind with
  | .load => if a.space = .global then some 0 else none
  | .store => some 1
  | .atomic => some 5
  | _ => none

/-- The access set of an access (R188). -/
def accessSet (a : Access) : Nat :=
  match a.kind with
  | .load | .spillRead => setR
  | .store | .spillWrite => setW
  | .atomic => setA

/-- The word cannot issue yet: its counter, the store queue or the operand log is full, or R134, R193 or a FENCE of the
other slot holds it. -/
def Ctx.accessWaits (c : Ctx) (a : Access) : Bool :=
  c.thread.fenced c.slot (accessSet a) ||
  (accessPath a).any (fun p => 255 ≤ pathCount c.core c.ref c.thread p) ||
  (a.kind.writes && 16 ≤ c.thread.stores.length) ||
  (a.space = .global && !c.thread.logFree) ||
  c.engineConflict a || c.logConflict a

/-! ### Finishing -/

/-- The mask of all lanes that some accessing lanes stand for. -/
def Ctx.maskFor (c : Ctx) (a : Access) (ls : List Nat) : Word := ls.foldl (fun m l => m ||| c.standsFor a l) 0

/-- The cause an access reports: the highest of R176. -/
def topFail (r : Resolved) : Option LaneFail :=
  let best := r.fails.foldl (fun m f => min m (causeRank f.cause)) 9
  r.fails.find? fun f => causeRank f.cause = best

/-- The log entry of an access whose lanes page-fault (R254). -/
def Ctx.logEntry (c : Ctx) (i : Instr) (a : Access) (r : Resolved) : LogEntry where
  number := 0
  seq := c.seq
  pc := c.cur.pc
  word := i
  kind := a.kind
  mode := c.cur.mode
  slot := c.slot
  depth := c.thread.depth
  base := a.reg.base
  lanes := r.fails.map fun f =>
    { lane := f.lane, offset := a.offset f.lane, vas := f.vas, bytes := a.data f.lane,
      poison := c.standsFor a f.lane &&& a.tainted ≠ 0 }
  shared := if a.once then c.eff else 0
  queued := []

/-- Complete a resolved access (R176): `enter` puts the lanes that perform, and the lanes that wait in the log, into the
wave's queues. -/
def Ctx.finishAccess (c : Ctx) (i : Instr) (a : Access) (r : Resolved)
    (enter : List LaneAccess → Word → State → State) (s : State) : State :=
  match topFail r with
  | none => c.stepOn (enter r.ok 0 s)
  | some f =>
    if f.cause = .page && !c.thread.ccp then
      let s := s.modThread c.ref fun th => { th with faulted := th.faulted ++ [c.logEntry i a r] }
      c.stepOn (enter r.ok (c.maskFor a (r.fails.map (·.lane))) s)
    else if f.cause = .uncorrectable && restarts c.thread then c.consumed 0 0 0 s
    else
      let s := if r.ok.isEmpty then s else enter r.ok 0 s
      parkLanes s c.ref c.slot
        { cause := f.cause, lanes := c.maskFor a ((r.fails.filter fun g => g.cause = f.cause).map (·.lane)),
          synd := BitVec.ofNat 32 f.synd, va := f.va, pc := c.cur.pc, seq := c.seq }
        (c.maskFor a (r.fails.map (·.lane))) c.next

/-- Issue an access: an armed check of the address unit traps the whole mask (R357); else the word waits, walks, or
completes. -/
def Ctx.access (c : Ctx) (a : Access) (finish : Resolved → State → State) (s : State) : State :=
  if c.thread.armed 12 then c.raiseUnit 12 c.eff (c.fire 12 s)
  else if c.accessWaits a then c.holdAt .queue s
  else
    let r := c.resolve s a
    if !r.walks.isEmpty then c.holdAt .walk (r.walks.foldl (fun s va => startWalk s c.ref c.slot va none 0) s)
    else finish r (dropWalks s c.ref)

/-! ### Loads -/

/-- The offset operand's value in a lane. -/
def Ctx.offsetOf (c : Ctx) (o : Reg) (lane : Nat) : Nat := c.reg o lane

/-- A load's access: one for all lanes under a scalar offset (R178). -/
def Ctx.loadAccess (c : Ctx) (space : Space) (reg : TReg) (d o : Reg) (w : BitVec 3) (hint : Nat := 0) : Access where
  space := space
  kind := .load
  size := widthBytes w
  reg := reg
  once := isScalar d || isUniform o
  offset := c.offsetOf o
  data := fun _ => []
  tainted := c.poison o
  consumed := c.guardPoison
  hint := hint

/-- The registers of a load become private as it issues (R62). -/
def Thread.privatiseDest (th : Thread) (k : Core) (d : Reg) (size : Nat) : Thread :=
  match d with
  | .v _ => (loadRegs d size).foldl (fun th r => th.privatise k (regNum r)) th
  | _ => th

/-- The load list entry of a word (R179). -/
def Ctx.loadOp (c : Ctx) (a : Access) (d : Reg) (ok : List LaneAccess) (logged : Word) (entries : List (Option Nat)) :
    LoadOp where
  seq := c.seq
  space := a.space
  dest := d
  tainted := a.tainted
  slot := c.slot
  size := a.size
  signed := tySigned c.ty
  accesses := ok
  logged := logged
  shared := if a.once then c.eff else 0
  counted := a.space = .global
  missed := a.space = .global && !c.core.inL1 (flatten (ok.map (·.parts)))
  hint := a.hint
  entries := entries
  pc := c.cur.pc
  depth := c.thread.depth
  order := c.seq

/-- Enter a load into the wave's list (R179). -/
def Ctx.enterLoad (c : Ctx) (a : Access) (d : Reg) (ok : List LaneAccess) (logged : Word) (s : State) : State :=
  s.modThread c.ref fun th =>
    { th.privatiseDest c.core d a.size with loads := th.loads ++ [c.loadOp a d ok logged []] }

/-- A load that is not bound. -/
def Ctx.load (c : Ctx) (i : Instr) (a : Access) (d : Reg) (s : State) : State :=
  c.access a (fun r s => c.finishAccess i a r (c.enterLoad a d) s) s

/-- LDG (R178). -/
def execLdg (d o : Reg) (x w : BitVec 3) (h : BitVec 2) (s : State) : Host.Outcome State Fault Refusal :=
  let i := Instr.ldg d o x w h
  issue i (fun c s => c.load i (c.loadAccess .global (c.thread.treg x.toNat) d o w h.toNat) d s) s

/-- LDS (R178). -/
def execLds (d o : Reg) (w : BitVec 3) (s : State) : Host.Outcome State Fault Refusal :=
  let i := Instr.lds d o w
  issue i (fun c s => c.load i (c.loadAccess .sm freshTReg d o w) d s) s

/-- LDB (R178): X = 0 AB, 1 CB. -/
def execLdb (d o : Reg) (x w : BitVec 3) (s : State) : Host.Outcome State Fault Refusal :=
  let i := Instr.ldb d o x w
  issue i (fun c s => c.load i (c.loadAccess (codeSpace x.toNat) freshTReg d o w) d s) s

/-! ### LDGK (R180) -/

/-- Every page of a lane's access is a sealed leaf (R63, R180). -/
def Ctx.sealedLane (c : Ctx) (s : State) (a : Access) (lane : Nat) : Bool :=
  (cutPages (a.reg.base + a.offset lane) a.size).all fun x => match partPage s c.ref c.slot c.part a.reg x.1 with
    | some (.leaf e) => e.sealed
    | _ => false

/-- The conditions of R63 and R180 on an LDGK; four registers have no key of R67 and stay private (log 19). -/
def Ctx.keyedLoad (c : Ctx) (s : State) (a : Access) (d o : Reg) (r : Resolved) : Bool :=
  lineageOn c && isVec d && nameable c.thread o && a.size ≤ 8 && r.fails.isEmpty && (lanesOf c.eff).all (c.sealedLane s a)

/-- The key of an LDGK leaf (R67). Under a signed MODE.T a narrow load gives other bits, and R75 lets it match no entry of an unsigned one:
the model's key then has a word more (log 57). -/
def Ctx.loadKey (c : Ctx) (i : Instr) (a : Access) (tags : List Nat) (odd : Bool) : List Nat :=
  keyOf i c.cur.mode c.part c.block.launch a.reg.base odd tags ++ (if a.size < 4 && tySigned c.ty then [1] else [])

/-- Every register of an LDGK finds an entry, so that it binds without any memory access (R180). -/
def Ctx.keysHit (c : Ctx) (i : Instr) (a : Access) (o : Reg) (s : State) : Bool :=
  match resolveTags c s.tick (s.coreAt c.ref.core) [] [o] with
  | (k, some tags) => ((if a.size < 8 then [false] else [false, true]).map (c.loadKey i a tags)).all fun key => (lookup k key).isSome
  | (_, none) => false

/-- Bind an LDGK's registers to their entries, loading for those that are new (R69, R180). -/
def Ctx.bindLoad (c : Ctx) (i : Instr) (a : Access) (d o : Reg) (r : Resolved) (s : State) : State :=
  let k := s.coreAt c.ref.core
  let plain (s : State) : State := c.stepOn (c.enterLoad a d r.ok 0 s)
  match resolveTags c s.tick k [] [o] with
  | (k1, none) => plain (s.setCore c.ref.core k1)
  | (k1, some tags) =>
    let key := c.loadKey i a tags
    let n := regNum d
    let enter (es : List (Option Nat)) (s : State) : State :=
      if es.all (·.isNone) then c.stepOn s
      else c.stepOn (s.modThread c.ref fun th => { th with loads := th.loads ++ [c.loadOp a d r.ok 0 es] })
    let fresh (e : Nat) (new : Bool) : Option Nat := if new then some e else none
    match (resolveKey k1 (key false) tags s.tick (c.pending i false false) (c.waiter n)).parts with
    | none => plain (s.setCore c.ref.core k1.countNoRoom)
    | some (k2, e, f, new) =>
      if a.size < 8 then enter [fresh e new] (c.bindTo k2 [(n, e)] f s)
      else
        match (resolveHeld k2 (key true) tags (tags ++ [e]) s.tick (c.pending i true false) (c.waiter (n + 1))).parts with
        | none => plain (s.setCore c.ref.core (if new then k2.abandon e else k2).countNoRoom)
        | some (k3, e', f', new') =>
          enter [fresh e new, fresh e' new'] (c.bindTo k3 [(n, e), (n + 1, e')] (f ||| f') s)

/-- LDGK (R180). Condition 5 of R63 needs the addresses, so the word waits at issue for an offset register bound to a PENDING
entry, though R69 has no wait at a binding word (DESIGN CHOICE, log 98). A hit is no memory access: no FENCE, counter or queue holds
it (R74, R188). -/
def execLdgk (d o : Reg) (x w : BitVec 3) (h : BitVec 2) (s : State) : Host.Outcome State Fault Refusal :=
  let i := Instr.ldgk d o x w h
  issue i (fun c s =>
    let a := c.loadAccess .global (c.thread.treg x.toNat) d o w h.toNat
    let r := c.resolve s a
    let keyed := c.keyedLoad s a d o r
    if !c.thread.armed 12 && r.walks.isEmpty && keyed && c.keysHit i a o s then c.bindLoad i a d o r (dropWalks s c.ref)
    else c.access a (fun r s => if keyed then c.bindLoad i a d o r s else c.finishAccess i a r (c.enterLoad a d) s) s) s

/-! ### Stores -/

/-- The bytes a store's data operand gives in a lane (R168). -/
def Ctx.storeBytes (c : Ctx) (d : Reg) (w : BitVec 3) (lane : Nat) : List Byte :=
  leBytes (widthBytes w) (c.value (srcR d (.mem w)) lane)

/-- A store's access. Poison of its data or offset travels with it (R359). -/
def Ctx.storeAccess (c : Ctx) (space : Space) (reg : TReg) (d o : Reg) (w : BitVec 3) (hint : Nat := 0) : Access where
  space := space
  kind := .store
  size := widthBytes w
  reg := reg
  once := isScalar d && isUniform o
  offset := c.offsetOf o
  data := c.storeBytes d w
  tainted := c.poison o ||| c.usePoison (srcR d (.mem w))
  consumed := c.guardPoison
  hint := hint

/-- The store-queue lanes of an access. -/
def Ctx.storeLanes (c : Ctx) (a : Access) (ok : List LaneAccess) : List LaneStore :=
  ok.map fun x => { access := x, bytes := a.data x.lane, poison := c.standsFor a x.lane &&& a.tainted ≠ 0 }

/-- Enter a store into the wave's queue (R179). -/
def Ctx.enterStore (c : Ctx) (a : Access) (ok : List LaneAccess) (waiting : Word) (s : State) : State :=
  let op : StoreOp :=
    { seq := c.seq, space := a.space, lanes := c.storeLanes a ok, atomic := none, waiting := waiting,
      shared := if a.once then c.eff else 0, spill := false, returned := none,
      pc := c.cur.pc, depth := c.thread.depth }
  s.modThread c.ref fun th => { th with stores := th.stores ++ [op] }

/-- A store. -/
def Ctx.store (c : Ctx) (i : Instr) (a : Access) (s : State) : State :=
  c.access a (fun r s => c.finishAccess i a r (c.enterStore a) s) s

/-- STG (R178). -/
def execStg (d o : Reg) (x w : BitVec 3) (h : BitVec 2) (s : State) : Host.Outcome State Fault Refusal :=
  let i := Instr.stg d o x w h
  issue i (fun c s => c.store i (c.storeAccess .global (c.thread.treg x.toNat) d o w h.toNat) s) s

/-- STS (R178). -/
def execSts (d o : Reg) (w : BitVec 3) (s : State) : Host.Outcome State Fault Refusal :=
  let i := Instr.sts d o w
  issue i (fun c s => c.store i (c.storeAccess .sm freshTReg d o w) s) s

/-- STB (R178): X = 0 AB, 1 CB. -/
def execStb (d o : Reg) (x w : BitVec 3) (s : State) : Host.Outcome State Fault Refusal :=
  let i := Instr.stb d o x w
  issue i (fun c s => c.store i (c.storeAccess (codeSpace x.toNat) freshTReg d o w) s) s

/-- A prefetch's access: one byte of each lane's line. -/
def Ctx.fillAccess (c : Ctx) (reg : TReg) (o : Reg) (hint : Nat) : Access where
  space := .global
  kind := .load
  size := 1
  reg := reg
  once := isUniform o
  offset := c.offsetOf o
  data := fun _ => []
  tainted := 0
  consumed := c.poison o ||| c.guardPoison
  hint := hint

/-- PRF (R181): it fills the lines of the lanes that would not fault, writes nothing and is ordered by nothing; a page that no TLB holds
is walked first, as for any access (R175). An armed check of the address unit still fails (R357), and lanes with a poisoned offset
or guard consume it (R359). -/
def execPrf (o : Reg) (x : BitVec 3) (h : BitVec 2) (s : State) : Host.Outcome State Fault Refusal :=
  issue (.prf o x h) (fun c s =>
    if c.thread.armed 12 then c.raiseUnit 12 c.eff (c.fire 12 s)
    else
      let r := c.resolve s (c.fillAccess (c.thread.treg x.toNat) o h.toNat)
      if !r.walks.isEmpty then c.holdAt .walk (r.walks.foldl (fun s va => startWalk s c.ref c.slot va none 0) s)
      else
        c.parkPoisoned ((c.poison o ||| c.guardPoison) &&& c.eff)
          ((dropWalks s c.ref).fillCaches c.ref.core h.toNat true (flatten (r.ok.map (·.parts))))) s

end Sys2Proof.Machine
end

