-- ==== Sys2Proof/Machine/Atomics.lean ====
section
/-! DEFINITION. Issuing atomics (R183 to R185, R302), and what one lane's atomic does to its location (R184). -/

namespace Sys2Proof.Machine
open Sys2Proof

/-! ### The value an atomic leaves (R184) -/

/-- The value of an arithmetic atomic's location of w bits from its old contents and the operand: add, min, max, and, or,
xor, xchg and fadd. MODE.SAT and MODE.FTZ take no part (R184, log 20). -/
def atomicValue (op : BitVec 3) (t : Ty) (w old x : Nat) : Nat :=
  let pick (larger : Bool) : Nat :=
    if t = .f32 then
      (writeFloat .f32 nearestEven (pickFloat larger (decodeFloat .f32 old) (decodeFloat .f32 x)).1).1
    else
      let a := intOf t old
      let b := intOf t x
      wrapTo w (if larger then max a b else min a b)
  match op.toNat with
  | 0 => (old + x) % 2 ^ w
  | 1 => pick false
  | 2 => pick true
  | 3 => old &&& x
  | 4 => old ||| x
  | 5 => old ^^^ x
  | 6 => x % 2 ^ w
  | _ => (rounded .f32 nearestEven (addExact 0 (decodeFloat .f32 old) (decodeFloat .f32 x))).1

/-- The value an atomic stores, none where a compare and swap stores nothing: the operand's low half is D and its high
half D + 1 (R184). -/
def atomicStores (a : AtomicOp) (old x : Nat) : Option Nat :=
  if a.cas then (if old = x % 2 ^ 32 then some (x / 2 ^ 32 % 2 ^ 32) else none)
  else some (atomicValue a.op ((tyOfCode (BitVec.ofNat 4 a.ty)).getD .i32) (8 * a.size) old x)

/-- An atomic as a message to another module (R350). -/
def remoteAtomic (a : AtomicOp) (x : Nat) : RemoteOp :=
  let t := (tyOfCode (BitVec.ofNat 4 a.ty)).getD .i32
  if a.cas then .cas (x % 2 ^ 32) (x / 2 ^ 32 % 2 ^ 32) else .atomic a.op (t = .f32) (tySigned t) a.size x

/-! ### Issue -/

/-- An atomic word: its space, translation register, operands and operation. -/
structure AtomicWord where
  space : Space
  reg : TReg
  d : Reg
  o : Reg
  op : AtomicOp
  /-- Deterministic launches refuse it (R302). -/
  ordered : Bool

/-- An atomic's access: it consumes whatever poison it reads (R359). -/
def Ctx.atomicAccess (c : Ctx) (x : AtomicWord) : Access where
  space := x.space
  kind := .atomic
  size := x.op.size
  reg := x.reg
  once := isScalar x.d
  offset := c.offsetOf x.o
  data := fun l => leBytes 8 (c.value (srcR x.d (if x.op.cas || x.op.size = 8 then .pair else .one)) l)
  tainted := 0
  consumed := c.guardPoison ||| c.poison x.o ||| c.usePoison (srcR x.d (if x.op.cas || x.op.size = 8 then .pair else .one))

/-- Enter an atomic into the wave's queue (R179): its destination is private and scoreboarded from here on. -/
def Ctx.enterAtomic (c : Ctx) (x : AtomicWord) (a : Access) (ok : List LaneAccess) (waiting : Word) (s : State) : State :=
  let op : StoreOp :=
    { seq := c.seq, space := x.space, lanes := c.storeLanes a ok, atomic := some x.op, waiting := waiting,
      shared := if a.once then c.eff else 0, spill := false, returned := none,
      pc := c.cur.pc, depth := c.thread.depth }
  s.modThread c.ref fun th => { th.privatiseDest c.core x.d x.op.size with stores := th.stores ++ [op] }

/-- Issue an atomic. -/
def Ctx.atomic (c : Ctx) (i : Instr) (x : AtomicWord) (s : State) : State :=
  if c.launch.det && x.ordered then c.raise .orderDependent c.eff 0 0 s
  else
    let a := c.atomicAccess x
    c.access a (fun r s => c.finishAccess i a r (c.enterAtomic x a) s) s

/-- The operation of a word with an operation code. -/
def Ctx.atomicOp (c : Ctx) (op : BitVec 3) (cas : Bool) (size : Nat) (d : Reg) (scope : Nat) : AtomicOp where
  op := op
  cas := cas
  ty := (modeT c.cur.mode).toNat
  size := size
  dest := d
  slot := c.slot
  scope := scope

/-- An operation whose old values depend on the order of the lanes' agents (R302). -/
def orderedOp (op : BitVec 3) (t : Ty) : Bool :=
  op.toNat = 6 || op.toNat = 7 || ((op.toNat = 1 || op.toNat = 2) && t = .f32)

/-- ATOMG (R184). -/
def execAtomg (d o : Reg) (x w : BitVec 3) (h : BitVec 2) (s : State) : Host.Outcome State Fault Refusal :=
  let i := Instr.atomg d o x w h
  issue i (fun c s => c.atomic i
    ⟨.global, c.thread.treg x.toNat, d, o, c.atomicOp w false 4 d h.toNat, orderedOp w c.ty⟩ s) s

/-- ATOMG64 (R184). -/
def execAtomg64 (d o : Reg) (x w : BitVec 3) (h : BitVec 2) (s : State) : Host.Outcome State Fault Refusal :=
  let i := Instr.atomg64 d o x w h
  issue i (fun c s => c.atomic i
    ⟨.global, c.thread.treg x.toNat, d, o, c.atomicOp w false 8 d h.toNat, w.toNat = 6⟩ s) s

/-- CASG (R184). -/
def execCasg (d o : Reg) (x : BitVec 3) (h : BitVec 2) (s : State) : Host.Outcome State Fault Refusal :=
  let i := Instr.casg d o x h
  issue i (fun c s => c.atomic i ⟨.global, c.thread.treg x.toNat, d, o, c.atomicOp 0 true 4 d h.toNat, true⟩ s) s

/-- ATOMS (R184). -/
def execAtoms (d o : Reg) (w : BitVec 3) (s : State) : Host.Outcome State Fault Refusal :=
  let i := Instr.atoms d o w
  issue i (fun c s => c.atomic i ⟨.sm, freshTReg, d, o, c.atomicOp w false 4 d 0, orderedOp w c.ty⟩ s) s

/-- CASS (R184). -/
def execCass (d o : Reg) (s : State) : Host.Outcome State Fault Refusal :=
  let i := Instr.cass d o
  issue i (fun c s => c.atomic i ⟨.sm, freshTReg, d, o, c.atomicOp 0 true 4 d 0, true⟩ s) s

end Sys2Proof.Machine
end

