-- ==== Sys2Proof/Machine/Inject.lean ====
section
/-! DEFINITION. Errors in the buffers (R359, R364, R366): what a single-bit or uncorrectable error found by a read does, and the
armed errors that the next read of a sector finds. -/

namespace Sys2Proof.Machine
open Sys2Proof

/-- The counter of correctable errors of a buffer (R366), by buffer code. -/
def eccIndex (code : Nat) : Nat :=
  match code with
  | 0 => 3 | 1 => 4 | 2 => 2 | _ => 5

/-- Count a correctable error in a core's lifetime record (R366). -/
def countEcc (s : State) (core index : Nat) : State :=
  s.modCore core fun k =>
    { k with life := { k.life with ecc := put 0 k.life.ecc index (saturate64 (findD k.life.ecc index 0 + 1)) } }

/-- An error found in the sector at an offset of a region: corrected and counted, or the sector is poisoned (R359). -/
def regionError (s : State) (core block code offset : Nat) (unc : Bool) : State :=
  if unc then s.modBlock core block fun b => { b with rpois := setAdd b.rpois (regionKey code offset / 32) }
  else countEcc s core (eccIndex code)

/-- A read of spans of a block's regions finds the errors armed for their sectors (R364). -/
def fireEcc (s : State) (core block : Nat) (spans : List Span) : State :=
  match s.blockAt core block with
  | none => s
  | some b =>
    b.threads.foldl (fun s (t, th) => th.arms.foldl (fun s a => match a with
      | .ecc space offset unc =>
        if spans.any (Span.meets ⟨spaceCode space, offset, 32⟩) then
          regionError (s.modThread ⟨core, block, t⟩ fun th => th.disarm a) core block (spaceCode space) offset unc
        else s
      | _ => s) s) s

end Sys2Proof.Machine
end

