-- ==== Sys2Proof/Machine/Rings.lean ====
section
/-! DEFINITION. Rings (R212 to R217, R239): pointers, claims, fills, releases and operands-consumed events. A pointer is a
position modulo 2 × count, whose slot index is its remainder modulo count. -/

namespace Sys2Proof.Machine
open Sys2Proof

/-- The buffer code of R121 for a ring's buffer code: 0 SM, 1 AB, 2 CB, 3 WB (R212). -/
def ringRegion (buffer : Nat) : Nat :=
  match buffer with
  | 0 => 3 | 1 => 0 | 2 => 1 | _ => 2

/-- The position k places after a pointer. -/
def Ring.plus (r : Ring) (p k : Nat) : Nat := (p + k) % (2 * r.count)
/-- How far pointer a is ahead of pointer b. -/
def Ring.ahead (r : Ring) (a b : Nat) : Nat := (a + 2 * r.count - b) % (2 * r.count)
/-- The slot index of a position. -/
def Ring.index (r : Ring) (p : Nat) : Nat := p % r.count
/-- The offset of a position's slot in the block's region. -/
def Ring.slotAt (r : Ring) (p : Nat) : Nat := r.base + r.index p * r.size
/-- A slot can be claimed (R214). -/
def Ring.claimable (r : Ring) : Bool := r.ahead r.cp r.fp < r.count
/-- The bytes of a position's slot. -/
def Ring.span (r : Ring) (p : Nat) : Span := ⟨ringRegion r.buffer, r.slotAt p, r.size⟩

/-- WP advances over every consecutive filled slot (R214). -/
def Ring.advance (r : Ring) : Nat → Ring
  | 0 => r
  | n + 1 =>
    if r.filled.contains r.wp then
      Ring.advance { r with filled := setDrop r.filled r.wp, wp := r.plus r.wp 1 } n
    else r

/-- A claimed position is marked filled (R214). -/
def Ring.fill (r : Ring) (p : Nat) : Ring := Ring.advance { r with filled := setAdd r.filled p } r.count

/-- Change a ring of a block. -/
def State.modRing (s : State) (c b n : Nat) (f : Ring → Ring) : State :=
  s.modBlock c b fun x => { x with rings := adjust x.rings n f }

/-- A ring of a block. -/
def State.ringAt (s : State) (c b n : Nat) : Option Ring := (s.blockAt c b).bind fun x => find x.rings n

/-- The acknowledgement of a CPYM slot reaches its sender (R216, R233). -/
def acknowledge (s : State) (sender : Nat × Nat × Nat) (receiver : Nat × Nat × Nat × Nat) : State :=
  s.modThread ⟨sender.1, sender.2.1, ccpThread⟩ fun th =>
    { th with cmds := th.cmds.map fun x =>
        if x.seq = sender.2.2 then { x with acks := x.acks.filter (· ≠ receiver) } else x }

/-- The oldest operands-consumed event of a ring fires: FP advances and a CPYM slot's acknowledgement is sent (R214). -/
def fireConsumed (s : State) (c b n : Nat) : State :=
  match s.ringAt c b n with
  | none => s
  | some r =>
    let p := r.fp
    let s' := s.modRing c b n fun r =>
      { r with fp := r.plus r.fp 1, waiting := r.waiting.drop 1, senders := r.senders.filter fun x => x.1 ≠ p }
    match r.senders.find? fun x => x.1 = p with
    | some (_, sc, sb, cmd) => acknowledge s' (sc, sb, cmd) (c, b, n, p)
    | none => s'

/-- Some engine or ladder operation that an event waits for is still queued (R216). -/
def stillReading (k : Core) (ns : List Nat) : Bool :=
  ns.any fun n => (k.engine.any fun e => e.seq = n) || (k.ladderQ.any fun o => o.seq = n)

/-- A command of a CCP that has claimed a slot of the ring is outstanding (R213). -/
def ringClaimed (s : State) (c b n : Nat) : Bool :=
  s.threads.any fun (_, th) => th.cmds.any fun x =>
    x.status.isNone && x.claims.any fun y => y.1 = c && y.2.1 = b && y.2.2.1 = n

end Sys2Proof.Machine
end

