-- ==== Sys2Proof/Machine/Gears.lean ====
section
/-! DEFINITION. Operating points (R318 to R322, R329): nominal voltages, the floor, which point a core resolves to, what
GEARS reads, and the operating-point table. -/

namespace Sys2Proof.Machine
open Sys2Proof

/-- Current budget of a point in mA (R319). -/
def pointCurrent (p : Point) : Nat :=
  match p.bake, p.level with
  | true, 0 => 3000 | true, 1 => 2400 | true, _ => 1800
  | false, _ => 640

/-- Energy budget of a bake level in nJ per 10 µs (R319). -/
def levelEnergy (level : Nat) : Nat :=
  match level with
  | 0 => 24000 | 1 => 17000 | _ => 12000

/-- A proof level that a core's floor allows (R319). -/
def proofAllowed (g : Gear) (level : Nat) : Bool := g.floor ≤ pointVolt ⟨false, level⟩

/-- The slowest allowed proof level, or bake 2 where the floor allows none (R321, R365). -/
def slowestProof (g : Gear) : Point :=
  match [2, 1, 0].find? (proofAllowed g) with
  | some l => ⟨false, l⟩
  | none => ⟨true, 2⟩

/-- The fastest bake level a core may run: its cap level, forced to 2 above 105 °C (R319, R331). -/
def Gear.capLevel (g : Gear) : Nat := if g.hot then 2 else g.cap

/-- What a block's recorded request counts as on a core (R321). -/
def countedRequest (g : Gear) (r : Nat) : Point :=
  if bit r 0 then ⟨true, bits r 5 4⟩
  else if proofAllowed g (bits r 5 4) then ⟨false, bits r 5 4⟩ else slowestProof g

/-- The fastest level among points of one gear. -/
def fastest (ps : List Point) (bake : Bool) : Option Nat :=
  (ps.filter fun p => p.bake == bake).foldl (fun m p => some (min (m.getD p.level) p.level)) none

/-- A block of a deterministic launch is resident, an aborted one until it has left its core (R302, R321). -/
def detResident (s : State) (core : Nat) : Bool :=
  (s.coreAt core).blocks.any fun (_, b) => (s.launchOf b).det

/-- The point a core resolves to (R321, R331). -/
def resolvePoint (s : State) (core : Nat) : Point :=
  let k := s.coreAt core
  let g := k.gear
  let ps := k.blocks.map fun (_, b) => countedRequest g b.request
  if detResident s core then ⟨true, 0⟩
  else if g.held || g.auto then slowestProof g
  else match fastest ps true with
    | some l => ⟨true, max l g.capLevel⟩
    | none => match fastest ps false with
      | some l => ⟨false, l⟩
      | none => slowestProof g

/-! ### Slew and shifts (R321, R323, R328) -/

/-- The current step of a change of point; 0 for a downshift. -/
def stepOf (old new : Point) : Nat := pointCurrent new - pointCurrent old

/-- The partition whose allowance a core's upshift draws on. -/
def slewPart (k : Core) : Option Nat := if k.blocks.isEmpty then none else k.partition

/-- The allowance holds a step: a step above the most it can hold waits until it is full (R328). -/
def slewHolds (p : Partition) (step : Nat) : Bool :=
  p.slew = 0 || decide (step ≤ p.allowance) || p.allowance = 10 * p.slew

/-- A core's allowance holds a step. -/
def coreSlew (s : State) (k : Core) (step : Nat) : Bool :=
  match slewPart k with
  | some p => step = 0 || slewHolds (s.partAt p) step
  | none => true

/-- A core may begin a shift (R321, R323). -/
def shiftDue (s : State) (core : Nat) : Bool :=
  let k := s.coreAt core
  let target := resolvePoint s core
  k.gear.shift.isNone && k.gear.point ≠ target && coreSlew s k (stepOf k.gear.point target)

/-- A shift is pending or in progress on a core (R321, R322). One that waits for its slew allowance is neither: GEAR answers 1
then (R322, R332). -/
def shiftPending (s : State) (core : Nat) : Bool := (s.coreAt core).gear.shift.isSome || shiftDue s core

/-- No shift is in progress on the core (R323), nor is it about to return from auto-proof (R325). -/
def coreFree (k : Core) : Bool := k.gear.shift.isNone && !k.gear.returning

/-- The core issues and its units run: with a deterministic launch on it, at bake 0 alone (R302). -/
def coreRuns (s : State) (core : Nat) : Bool :=
  coreFree (s.coreAt core) && (!detResident s core || (s.coreAt core).gear.point == ⟨true, 0⟩)

/-- GEARS (R320): the point, or the point being left while a shift is in progress. -/
def gearsWord (g : Gear) : Nat :=
  pointVolt g.point * 4096 + boolNat g.shift.isSome * 256 + g.point.level * 16 + boolNat g.point.bake

/-- A table hit replaces the level of a bake request (R329). -/
def markPhase (s : State) (core block : Nat) : State :=
  match s.blockAt core block with
  | none => s
  | some b =>
    let l := s.launchOf b
    let key := l.kernel * 65536 + b.marker
    if l.det || l.kernel = 0 || !bit b.request 0 then s
    else match find (s.partAt l.partition).points key with
      | none => s
      | some (level, _) =>
        let s := s.modPart l.partition fun p => { p with points := insert p.points key (level, s.tick) }
        s.modBlock core block fun b => { b with request := level * 16 + 1 }

end Sys2Proof.Machine
end

