-- ==== Sys2Proof/Machine/Grid.lean ====
section
/-! DEFINITION. The clusters of a launch's grid and the order in which they are placed and retired (R289, R295, R300, R303). -/

namespace Sys2Proof.Machine
open Sys2Proof

/-- Columns of the cluster grid, CX (R303). -/
def Launch.cx (l : Launch) : Nat := l.gridX / l.clusterW
/-- Rows of the cluster grid, CY (R303). -/
def Launch.cy (l : Launch) : Nat := l.gridY / l.clusterH
/-- Clusters of the grid as launched. -/
def Launch.clusterCount (l : Launch) : Nat := l.cx * l.cy * l.gridZ

/-- The smallest power of two not below x, for x up to 2^n. -/
def powerAbove : (n x : Nat) → Nat
  | 0, _ => 1
  | n + 1, x => if powerAbove n x < x then 2 ^ (n + 1) else powerAbove n x

/-- HilbertIndex of R303, from half the side down; `n` is the side. -/
def hilbertFrom (n : Nat) : (fuel s x y d : Nat) → Nat
  | 0, _, _, _, d => d
  | f + 1, s, x, y, d =>
    if s = 0 then d
    else
      let rx := if x &&& s ≠ 0 then 1 else 0
      let ry := if y &&& s ≠ 0 then 1 else 0
      let d := d + s * s * ((3 * rx) ^^^ ry)
      let (x, y) := if ry = 0 then (if rx = 1 then (n - 1 - y, n - 1 - x) else (y, x)) else (x, y)
      hilbertFrom n f (s / 2) x y d

/-- HilbertIndex (R303). -/
def hilbertIndex (x y n : Nat) : Nat := hilbertFrom n (numBits n) (n / 2) x y 0

/-- The side of the square that the index of a launch's clusters is taken in. -/
def Launch.side (l : Launch) : Nat := powerAbove 32 (max l.cx l.cy)

/-- Columns and rows of a slice's clusters. -/
def Launch.slice2 (l : Launch) : List (Nat × Nat) :=
  flatten ((List.range l.cy).map fun y => (List.range l.cx).map fun x => (x, y))

/-- The rank of a cluster inside its slice, of a deterministic launch (R303). -/
def Launch.hilbertRank (l : Launch) (x y : Nat) : Nat :=
  (l.slice2.filter fun p => hilbertIndex p.1 p.2 l.side < hilbertIndex x y l.side).length

/-- The cluster (column, row, slice) of a rank (R295, R303). -/
def Launch.clusterOf (l : Launch) (r : Nat) : Nat × Nat × Nat :=
  let z := r / (l.cx * l.cy)
  let k := r % (l.cx * l.cy)
  if l.det then
    let (x, y) := (l.slice2.find? fun p => l.hilbertRank p.1 p.2 = k).getD (0, 0)
    (x, y, z)
  else (k % l.cx, k / l.cx, z)

/-- The blocks of a cluster of the grid: place in the cluster's rectangle (column, row) and BLKLIN. The index of a block
within its cluster is row × (CW + 1) + column (log 23). -/
def Launch.clusterBlocks (l : Launch) (x y z : Nat) : List (Nat × Nat × Nat) :=
  flatten ((List.range l.clusterH).map fun j => (List.range l.clusterW).map fun i =>
    (i, j, (x * l.clusterW + i) + l.gridX * ((y * l.clusterH + j) + l.gridY * z)))

/-- The blocks of a cluster of raised blocks: consecutive ones (log 23). -/
def Launch.raisedBlocks (l : Launch) (first : Nat) : List (Nat × Nat × Nat) :=
  (List.range l.clusterSize).map fun n => (n % l.clusterW, n / l.clusterW, first + n)

/-- The rank of the cluster that a block of the grid belongs to (R303). -/
def Launch.rankOf (l : Launch) (b : Nat) : Nat :=
  let x := l.blkx b / l.clusterW
  let y := l.blky b / l.clusterH
  l.blkz b * (l.cx * l.cy) + (if l.det then l.hilbertRank x y else x + l.cx * y)

/-- A deterministic launch's block may give back its resources: every cluster of lower rank has been retired (R303). -/
def Launch.mayRetire (l : Launch) (b : Nat) : Bool :=
  !l.det || (List.range (l.rankOf b)).all fun r =>
    let (x, y, z) := l.clusterOf r
    (l.clusterBlocks x y z).all fun e => l.ended.contains e.2.2

/-- The place of an evicted block in its cluster: no core has this number. -/
def awayPlace (blklin : Nat) : Nat × Nat := (coreCount, blklin)

end Sys2Proof.Machine
end

