-- ==== Sys2Proof/Machine/Scheduler.lean ====
section
/-! DEFINITION. Which slot may issue, the active and pending sets of a quadrant (R148 to R150), what a wave's end gives back
(R160), and the block and cluster barriers that every step may complete (R204 to R207). -/

namespace Sys2Proof.Machine
open Sys2Proof

/-! ### Slots that may issue (R148) -/

/-- A hold that ends only by a step of its own; every other hold is tried again by issuing the word. -/
def heldFast (b : Block) (h : Hold) : Bool :=
  match h with
  | .bar _ | .latch | .sleep _ | .sources _ => true
  | .rawait r => match find b.rings r with
    | some x => x.rp = x.wp
    | none => false
  | _ => false

/-- A slot may issue its next word: it is live, neither parked nor stopped, not at its join, no hold keeps it, and no trap of its
lanes is still to be parked (R129, R148, R253). -/
def slotFree (b : Block) (th : Thread) (n : Bool) : Bool :=
  let x := th.paths.slot n
  x.mask ≠ 0 && x.park.isNone && !x.stopped && !atJoin th.paths n && !heldFast b x.hold && !overCount th n && !lateLanes th n

/-- A thread may issue: its block runs, it is not leaving or restarting, and no page fault of its depth is waiting
(R254, R272, R307, R362). -/
def threadFree (b : Block) (th : Thread) : Bool :=
  !haltsThread b (if th.ccp then ccpThread else th.wave) && b.leaving.isNone && !th.ended && !th.stopped && !th.restarting && th.evict = .here && th.faulted.isEmpty &&
    (dueLog th).isEmpty

/-- A maintenance window is open on the core: nothing is placed there (R365). -/
def Core.windowOpen (k : Core) : Bool := !k.maint.isEmpty && k.blocks.isEmpty

/-! ### Active and pending sets (R149, R150) -/

/-- A wave's name in its quadrant's sets. -/
def waveKey (t : ThreadRef) : Nat := t.block * 64 + t.thread
/-- The thread a name stands for. -/
def keyThread (core key : Nat) : ThreadRef := ⟨core, key / 64, key % 64⟩

/-- Exchange an active wave with a pending one: the wave that leaves goes to the tail of the pending set. -/
def Quadrant.exchange (q : Quadrant) (out into : Nat) : Quadrant :=
  { q with
    active := q.active.map fun x => if x = out then into else x
    pending := q.pending.filter (· ≠ into) ++ [out] }

/-- Change a quadrant of a core. -/
def Core.modQuad (k : Core) (n : Nat) (f : Quadrant → Quadrant) : Core :=
  { k with quads := insert k.quads n (f (findD k.quads n freshQuadrant)) }

/-- A wave issued: it is the most recent of its quadrant, and the next search begins behind the active position it issued from (R148);
or the most recent of the CCPs (R219). -/
def Core.noteIssue (k : Core) (t : ThreadRef) (quad position : Nat) : Core :=
  if t.thread = ccpThread then { k with ccpLast := t.block }
  else k.modQuad quad fun q =>
    { q with recent := waveKey t :: q.recent.filter (· ≠ waveKey t), start := position + 1 }

/-- A wave enters a quadrant: the active set while it has room, else the pending set (R149). -/
def Quadrant.enter (q : Quadrant) (key : Nat) : Quadrant :=
  if q.active.length < 8 then { q with active := q.active ++ [key] } else { q with pending := q.pending ++ [key] }

/-- A wave leaves its quadrant. Where it was active, the head of the pending set, ready or not, becomes the last of the active set, and
the search goes on behind the wave that issued last or where that wave stood (log 107). -/
def Quadrant.leave (q : Quadrant) (key : Nat) : Quadrant :=
  let q' := { q with active := q.active.filter (· ≠ key), pending := q.pending.filter (· ≠ key),
                     recent := q.recent.filter (· ≠ key)
                     start := if q.active.contains key && q.active.idxOf key < q.start then q.start - 1 else q.start }
  if q.active.contains key then
    match q'.pending with
    | [] => q'
    | x :: rest => { q' with active := q'.active ++ [x], pending := rest }
  else q'

/-- The waves of a quadrant. -/
def Quadrant.waves (q : Quadrant) : Nat := q.active.length + q.pending.length

/-! ### Block barriers (R204, R205) -/

/-- The slots of some paths make their wave arrive at block barrier n (R204). -/
def Paths.atBar (p : Paths) (n : Nat) : Bool :=
  let at_ (k : Bool) : Bool := (p.slot k).mask ≠ 0 && (p.slot k).hold = .bar n
  let ok (k : Bool) : Bool := (p.slot k).mask = 0 || at_ k || atJoin p k
  (at_ false || at_ true) && ok false && ok true

/-- Every R, W and A access that words of a thread issued up to a depth is performed: what its arrival at a barrier releases
(R200). -/
def accessesDone (th : Thread) (d : Nat) : Bool :=
  (th.loads.all fun x => d < x.depth || (x.accesses.isEmpty && x.logged = 0)) && th.stores.all fun x => d < x.depth

/-- The depths at which a wave has arrived at block barrier n: its own, and the depth 0 that a handler leaves as it was (R259).
One that is leaving has withdrawn its arrival (R307). -/
def barDepths (th : Thread) (n : Nat) : List Nat :=
  if th.evict ≠ .here then []
  else ([0, th.depth].eraseDups).filter fun d => (th.pathsAt d).atBar n && accessesDone th d

/-- A wave has arrived at block barrier n. -/
def arrivedBar (th : Thread) (n : Nat) : Bool := !(barDepths th n).isEmpty

/-- The waves of a block that count at its barriers: those that have not ended. -/
def Block.members (b : Block) : List (Nat × Thread) := b.threads.filter fun (_, th) => !th.ccp && !th.ended

/-- Barrier n completes a phase: no wave is out of the core and every wave has arrived (R205). -/
def barDone (b : Block) (n : Nat) : Bool :=
  b.out.isEmpty && !b.members.isEmpty && b.members.all fun (_, th) => arrivedBar th n

/-- Release a slot that words of a depth hold, at the word after its own; past the window's end it is cause 0x03 at the word (R146),
which a handler that runs meanwhile does not take (R129). -/
def releaseSlot (s : State) (t : ThreadRef) (d : Nat) (n : Bool) : State :=
  match s.threadAt t, s.blockAt t.core t.block with
  | some th, some b =>
    let x := (th.pathsAt d).slot n
    let free (pc : Word) (s : State) : State :=
      s.modThread t fun th => th.atDepth d fun th => th.modSlot n fun x => { x with hold := .free, pc := pc }
    if 2 ^ 32 ≤ x.pc.toNat + 4 then
      let info : TrapInfo :=
        { cause := .address, lanes := x.mask, va := (s.launchOf b).window th.ccp * 2 ^ 32 + x.pc.toNat, pc := x.pc,
          seq := s.seq }
      let s := free x.pc s
      if th.depth ≤ d then parkLanes s t n info x.mask x.pc
      else s.modThread t fun th => { th with late := th.late ++ [{ info := info, depth := d, atNext := false }] }
    else free (x.pc + 4) s
  | _, _ => s

/-- Release the slots of a wave that arrived at barrier n. -/
def releaseBar (n : Nat) (s : State) (t : ThreadRef) : State :=
  match s.threadAt t with
  | none => s
  | some th =>
    (barDepths th n).foldl (fun s d =>
      [false, true].foldl (fun s k =>
        let x := (th.pathsAt d).slot k
        if x.mask ≠ 0 && x.hold = .bar n then releaseSlot s t d k else s) s) s

/-- Complete the block barriers of a block that are due (R205). -/
def settleBlock (s : State) (c b : Nat) : State :=
  (List.range 16).foldl (fun s n =>
    match s.blockAt c b with
    | some x =>
      if barDone x n then x.members.foldl (fun s (t, _) => releaseBar n s ⟨c, b, t⟩) s else s
    | none => s) s

/-! ### Cluster barriers (R206, R207) -/

/-- The name of a wave among the members of a cluster. -/
def memberKey (rank wave : Nat) : Nat := rank * 64 + wave

/-- The name of a thread's wave among the members of its cluster. -/
def Cluster.nameOf (x : Cluster) (t : ThreadRef) : Nat :=
  memberKey (((x.blocks.find? fun e => e.2 = some (t.core, t.block)).map (·.1)).getD 0) t.thread

/-- A member arrives at barrier n. -/
def Cluster.arrive (x : Cluster) (n me : Nat) : Cluster :=
  { x with arrived := insert x.arrived n (setAdd (findD x.arrived n []) me) }

/-- An arrival of a wave that waits has nothing more to wait for (R200). -/
def arrivalDue (k : Core) (t : ThreadRef) (th : Thread) (n : Nat) : Bool :=
  !(loadsBefore th n || storesBefore th n false || storesBefore th n true || enginesBefore k t n)

/-- The arrivals of a wave that waited for its accesses happen (R207). -/
def settleArrivals (s : State) (x : ThreadRef × Thread) : State :=
  let (t, th) := x
  if th.arriving.isEmpty then s
  else match s.blockAt t.core t.block with
    | none => s
    | some b =>
      let due := th.arriving.filter fun y => arrivalDue (s.coreAt t.core) t th y.2
      let s := s.modThread t fun th => { th with arriving := th.arriving.filter fun y => !due.contains y }
      due.foldl (fun s y => match find s.clusters b.cluster with
        | none => s
        | some c => { s with clusters := insert s.clusters b.cluster (c.arrive y.1 (c.nameOf t)) }) s

/-- The members that barrier n waits for: waves resident or evicted that have not exited, by name (R206), and those that exited after an
ARRIVE whose release, their older accesses, is still under way (R200). -/
def clusterMembers (s : State) (x : Cluster) (n : Nat) : List Nat :=
  flatten (x.blocks.map fun (rank, place) => match place with
    | none => []
    | some (c, b) => match s.blockAt c b with
      | none => []
      | some blk =>
        ((blk.threads.filter fun (_, th) => !th.ccp && (!th.ended || th.arriving.any fun y => y.1 = n)).map fun (t, _) =>
          memberKey rank t) ++ blk.out.map (memberKey rank))

/-- Complete the phases of a cluster that are due (R206). A cluster whose blocks are all out of their cores waits. -/
def settleCluster (s : State) (n : Nat) : State :=
  match find s.clusters n with
  | none => s
  | some x =>
    let absent := x.blocks.any fun (_, place) => place.isSome && ((place.bind fun p => s.blockAt p.1 p.2).isNone)
    (List.range 8).foldl (fun s k =>
      match find s.clusters n with
      | none => s
      | some x =>
        let here := findD x.arrived k []
        if !here.isEmpty && !absent && (clusterMembers s x k).all here.contains then
          let y : Cluster :=
            { x with counts := put 0 x.counts k ((findD x.counts k 0 + 1) % 65536), arrived := remove x.arrived k }
          { s with clusters := insert s.clusters n y }
        else s) s

/-! ### The rendezvous latch (R131) -/

/-- A wave of a block cannot arrive any more: its index is BSZ or more, or it has exited. -/
def waveGone (b : Block) (w : Nat) : Bool :=
  b.waves ≤ w || (!b.out.contains w && ((find b.threads w).map (·.ended)).getD true)

/-- The slot of present paths that the latch holds, if it is live: it may have gone to the stack meanwhile. -/
def Thread.latchedSlot (th : Thread) : Option Bool := [false, true].find? fun n => (th.paths.slot n).hold = .latch

/-- The slot that the latch holds goes on behind its word, wherever it is: at most one slot of a wave is held there (R130, R146). -/
def Thread.passLatch (window seq : Nat) (th : Thread) : Thread :=
  match th.paths.places.find? fun x => x.2.hold = .latch with
  | some x => { th with paths := th.paths.modAt x.1 (Slot.passWord window seq) }
  | none => th

/-- The slot that the latch holds leaves it at its word, to take a trap of these lanes there; lanes of it that the trap leaves alone go on
behind the word (R131). -/
def Thread.leaveLatch (window seq : Nat) (lanes : Word) (th : Thread) : Thread :=
  match th.paths.places.find? fun x => x.2.hold = .latch with
  | some x => { th with paths := th.paths.modAt x.1 fun y =>
      if y.mask &&& ~~~lanes = 0 then { y with hold := .free } else y.passWord window seq }
  | none => th

/-- A member that the latch releases goes on after its word (R130). -/
def releaseLatch (s : State) (t : ThreadRef) (d : Nat) : State :=
  match (s.threadAt t).bind fun th => ({ th with paths := th.pathsAt d } : Thread).latchedSlot with
  | some n => releaseSlot s t d n
  | none => s.modThread t fun th => th.atDepth d (Thread.passLatch (windowOf s t) s.seq)

/-- A held arrival takes cause 0x08 at its word (R130, R131); where its slot has gone to the stack, a handler runs, or scalars of the
wave are in flight, which a split must not copy (R36, R151), once its lanes can be parked (R129, R259). -/
def trapArrival (s : State) (a : Arrival) : State :=
  let m := a.member
  let info : TrapInfo := { cause := .gang, lanes := m.lanes, pc := m.pc, seq := m.seq }
  let s := s.modCore m.thread.core fun k => { k with arrivals := k.arrivals.filter (· ≠ a) }
  match (s.threadAt m.thread).bind fun th =>
      if th.depth ≤ m.depth && !scalarsPending (s.coreAt m.thread.core) m.thread th then th.latchedSlot else none with
  | some n => parkLanes s m.thread n info m.lanes (m.pc + 4)
  | none => s.modThread m.thread fun th =>
      { th.atDepth m.depth (Thread.leaveLatch (windowOf s m.thread) s.seq m.lanes) with late := th.late ++ [{ info := info, depth := m.depth, atNext := false }] }

/-- An arrival lists a wave that is gone. -/
def listsGone (s : State) (a : Arrival) : Bool :=
  match s.blockAt a.member.thread.core a.member.thread.block with
  | none => true
  | some b => (lanesOf a.gang).any (waveGone b)

/-- Held members that list a wave that is gone take cause 0x08 (R131). -/
def settleLatch (s : State) (c : Nat) : State :=
  ((s.coreAt c).arrivals.filter (listsGone s)).foldl trapArrival s

/-! ### Time slices (R269, R311) -/

/-- The wave accepts a time-slice expiry that has reached it: it is at DEPTH 0, no trap entry is due, and its block is not halted, for a
halt wins and the trap that waits for its end comes first (R269). -/
def Thread.takesExpiry (th : Thread) (k : Core) (b : Block) (t : ThreadRef) : Bool :=
  !b.halted && th.expired && !th.accepted && th.depth = 0 && (trapDue k b t th).isNone

/-- Waves of a block accept its expiry where they can; the block is expired once every wave has (R311). -/
def settleExpiry (s : State) (c n : Nat) (b : Block) : State :=
  let k := s.coreAt c
  if b.threads.any fun (t, th) => th.takesExpiry k b ⟨c, n, t⟩ then
    s.modBlock c n fun b =>
      let threads := b.threads.map fun (t, th) => (t, if th.takesExpiry k b ⟨c, n, t⟩ then { th with accepted := true } else th)
      { b with threads := threads, expired := threads.all fun (_, th) => th.ccp || th.ended || th.accepted }
  else s

/-- The sources that a slot waits for are there: its entry is no longer PENDING, or each source of it is published (R69). -/
def Hold.sourcesCame (h : Hold) (k : Core) : Bool :=
  match h with
  | .sources e => ((find k.entries e).map fun x => x.state != .pending || sourcesReady k x).getD true
  | _ => false

/-- Slots that waited for the sources of their last word go on (R69). -/
def settleSources (s : State) (t : ThreadRef) : State :=
  match s.threadAt t with
  | none => s
  | some th =>
    let came := th.paths.places.filter fun x => x.2.hold.sourcesCame (s.coreAt t.core)
    if came.isEmpty then s
    else s.modThread t fun th =>
      { th with paths := came.foldl (fun p x => p.modAt x.1 fun y => { y with hold := .free }) th.paths }

/-- Complete whatever barrier phases are due after a step, and trap the arrivals that can no longer meet: R205, R206 and R131
act in the cycle that makes them due. -/
def settle (s : State) : State :=
  let s := s.blocks.foldl (fun s (c, n, b) => settleExpiry s c n b) s
  let s := (s.cores.map (·.1)).foldl settleLatch s
  let s := s.threads.foldl (fun s x => settleSources (settleFences (settleArrivals s x) x.1) x.1) s
  let s := s.blocks.foldl (fun s (c, b, _) => settleBlock s c b) s
  (s.clusters.map (·.1)).foldl settleCluster s

/-! ### The end of a wave and of a block (R160) -/

/-- The block has ended: every wave and its CCP have. -/
def blockEnded (b : Block) : Bool := b.threads.isEmpty && b.out.isEmpty

/-- A launch that was cancelled or failed reports once none of its blocks is resident, and its value-store entries are killed
(R280, R394). -/
def reportStopped (s : State) (l : Nat) : State :=
  match s.launchAt l with
  | none => s
  | some x =>
    if s.blocks.any fun (_, _, b) => b.launch = l then s
    else match x.state with
      | .cancelled => sendLaunchDone (s.killLaunch l) l 1
      | .failed => sendLaunchDone (s.killLaunch l) l 2
      | _ => s

/-- Commands no longer wait for a block that leaves its core: neither for its acknowledgements nor to fill its rings. -/
def forgetBlock (s : State) (c b : Nat) : State :=
  let other (x : Nat × Nat × Nat × Nat) : Bool := !(x.1 = c && x.2.1 = b)
  s.threads.foldl (fun s (t, th) =>
    if th.cmds.isEmpty then s
    else s.modThread t fun th =>
      { th with cmds := th.cmds.map fun x => { x with acks := x.acks.filter other, claims := x.claims.filter other } }) s

/-- Fault records that no handler will read any more leave the queue: only their own wave's handlers read them (R256). -/
def Core.forgetRecords (k : Core) (gone : FaultRecord → Bool) : Core := { k with faultQ := k.faultQ.filter fun r => !gone r }

/-- Take an ended block off its core: its launch counts it, an abort that waited is reported, and its cluster ends with its last block
(R160, R298, R303). -/
def dropBlock (s : State) (c b : Nat) : State :=
  match s.blockAt c b with
  | none => s
  | some x =>
    let s := match x.report with
      | some (cause, wave, pc) => sendAbort s x cause wave pc
      | none => s
    let s := forgetBlock (s.modCore c fun k => { k.forgetRecords (·.block = b) with blocks := remove k.blocks b }) c b
    let s := s.modLaunch x.launch fun l => { l with ended := setAdd l.ended x.blklin }
    let s := match find s.clusters x.cluster with
      | none => s
      | some y =>
        let blocks := y.blocks.map fun (r, p) => (r, if p = some (c, b) then none else p)
        if blocks.all (fun e => e.2.isNone) then { s with clusters := remove s.clusters x.cluster }
        else { s with clusters := insert s.clusters x.cluster { y with blocks := blocks } }
    reportStopped s x.launch

/-- A wave's registers and place return to its core (R160): it leaves its block, and the block ends with its last thread. -/
def dropThread (s : State) (t : ThreadRef) : State :=
  match s.threadAt t with
  | none => s
  | some th =>
    let s := s.modBlock t.core t.block fun b => { b with threads := remove b.threads t.thread }
    let s := s.modCore t.core fun k => k.forgetRecords fun r => r.block = t.block && r.thread = t.thread
    let s := if th.ccp then s else s.modCore t.core fun k => k.modQuad th.quad fun q => q.leave (waveKey t)
    match s.blockAt t.core t.block with
    | some b => if blockEnded b then dropBlock s t.core t.block else s
    | none => s

/-- The block of a thread may give back its resources (R303). -/
def mayRetire (s : State) (t : ThreadRef) : Bool :=
  match s.blockAt t.core t.block with
  | some b => (s.launchOf b).mayRetire b.blklin
  | none => false

/-- A computation of the value store that can still report a trap to a thread is not published (R71, R160, R283). -/
def awaited (k : Core) (t : ThreadRef) : Bool :=
  k.entries.any fun (_, x) => x.state == .pending && (x.comp.map fun p => p.waiters.any fun w => w.thread = t).getD false

/-- A block is left with its CCP alone, whose state stays part of the block to the end (R310). -/
def Block.ccpAlone (b : Block) : Bool := b.out.isEmpty && b.threads.all fun (_, th) => th.ccp

/-- An ended thread has nothing in flight (R160, R221, R303). -/
def endDue (s : State) (t : ThreadRef) (th : Thread) : Bool :=
  mayRetire s t && (!th.ccp || ((s.blockAt t.core t.block).map Block.ccpAlone).getD false) &&
  th.ended && s.quiet t && th.loads.isEmpty && th.stores.isEmpty && th.cmds.all (fun x => x.status.isSome) &&
    !((s.coreAt t.core).arrivals.any fun a => a.member.thread = t) && !awaited (s.coreAt t.core) t

end Sys2Proof.Machine
end

