-- ==== Sys2Proof/Machine/Specials.lean ====
section
/-! DEFINITION. The special registers (R31, R96, R97, R271): what each index reads as, and what a write of it does. -/

namespace Sys2Proof.Machine
open Sys2Proof

/-- INFL (R31): which in-flight counters are not 0. -/
def inflWord (k : Core) (t : ThreadRef) (th : Thread) : Nat :=
  ((List.range 6).map fun p => if pathCount k t th p = 0 then 0 else 2 ^ p).sum

/-- HALTST (R271): the residency slots that hold a block. -/
def haltWord (k : Core) : Nat := ((List.range 32).map fun i => if (find k.blocks i).isSome then 2 ^ i else 0).sum

/-- The indices that read 0 on a CCP and that MTS leaves unchanged there (R219): SLOT, FMT, JPC, GANG, FLAGS, INFL, DEPTH,
RGNPC, TILEXY and UTRAPBASE. -/
def ccpZero (i : Nat) : Bool := [0x00A, 0x00C, 0x00D, 0x00E, 0x00F, 0x014, 0x017, 0x018, 0x01B, 0x01D].contains i

/-- What an index of R31 below 0x100 reads as for an agent, in a state. -/
def Ctx.readUser (c : Ctx) (i : Nat) (s : State) : Nat :=
  let th := c.thread
  match i with
  | 0x000 => cycleOf c.ref.core s.born s.tick % 2 ^ 32
  | 0x001 => c.cur.cycleh.toNat
  | 0x002 => c.ref.core
  | 0x003 => dieOf c.ref.core
  | 0x004 => s.fabric.module
  | 0x005 => c.part
  | 0x006 => c.block.launch
  | 0x007 => c.launch.nblk
  | 0x008 => c.block.blklin
  | 0x009 => c.block.waves
  | 0x00A => boolNat c.slot
  | 0x00B => c.cur.mode.toNat
  | 0x00C => c.cur.fmt.toNat
  | 0x00D => c.cur.jpc.toNat
  | 0x00E => th.flags.toNat
  | 0x00F => th.gang.toNat
  | 0x010 => th.exc.exc.toNat
  | 0x011 => th.exc.excmask.toNat
  | 0x012 => th.exc.synd.toNat
  | 0x013 => th.exc.unit.toNat
  | 0x014 => th.exc.tilexy.toNat
  | 0x015 => th.exc.faultva.toNat
  | 0x016 => th.exc.faultvah.toNat
  | 0x017 => th.rgnpc.toNat
  | 0x018 => th.depth
  | 0x019 => gearsWord (s.coreAt c.ref.core).gear
  | 0x01A => (s.coreAt c.ref.core).gear.stallr.toNat
  | 0x01B => inflWord (s.coreAt c.ref.core) c.ref th
  | 0x01C => th.trappc.toNat
  | 0x01D => th.utrapbase.toNat
  | _ => 0

/-- What a supervisor index reads as (R271). -/
def Ctx.readSuper (c : Ctx) (i : Nat) (s : State) : Nat :=
  let p := s.partAt c.part
  match i with
  | 0x100 => p.trapbase.toNat
  | 0x101 => p.ptroot.toNat
  | 0x102 => p.ptrooth.toNat
  | 0x103 => p.pool.toNat
  | 0x104 => (s.coreAt c.ref.core).fltcnt
  | 0x105 => p.dumpva.toNat
  | 0x106 => p.dumpvah.toNat
  | 0x107 => c.thread.strappc.toNat
  | 0x108 => haltWord (s.coreAt c.ref.core)
  | 0x109 => p.testen.toNat
  | _ => 0

/-- What an index reads as. -/
def Ctx.readSpecial (c : Ctx) (i : Nat) (s : State) : Nat :=
  if 0x100 ≤ i then c.readSuper i s
  else if c.thread.ccp && ccpZero i then 0
  else c.readUser i s

/-- Reading CYCLE latches the upper half of the count in the reading slot (R31). -/
def Ctx.latchCycle (c : Ctx) (i : Nat) (s : State) : State :=
  if i = 0 then
    s.modSlot c.ref c.slot fun x => { x with cycleh := BitVec.ofNat 32 (cycleOf c.ref.core s.born s.tick / 2 ^ 32) }
  else s

/-- A gang mask that GANG accepts: 0, or 2 to 6 waves (R211). -/
def gangOk (x : Word) : Bool :=
  let n := popCount 32 x.toNat
  x = 0 || (2 ≤ n && n ≤ 6)

/-- Write GANG (R211): a mask of 1 wave or of 7 and more is cause 0x08, and the register keeps its value. -/
def Ctx.writeGang (c : Ctx) (x : Word) (s : State) : State :=
  if gangOk x then c.stepOn (s.modThread c.ref fun th => { th with gang := x })
  else c.raise .gang c.eff 0 0 s

/-- Bits [31:2] of a word. -/
def wordAligned (x : Word) : Word := x &&& ~~~3

/-- Write an index of R31 below 0x100 (R97); read-only registers stay as they are. -/
def Ctx.writeUser (c : Ctx) (i : Nat) (x : Word) (s : State) : State :=
  if c.thread.ccp && ccpZero i then c.stepOn s
  else match i with
    | 0x00B => c.stepOn (s.modSlot c.ref c.slot fun y => { y with mode := x.setWidth 16 &&& 0x0FFF })
    | 0x00C => c.stepOn (s.modSlot c.ref c.slot fun y => { y with fmt := x &&& 0x00FFFFFF })
    | 0x00D => c.stepOn (s.modSlot c.ref c.slot fun y => { y with jpc := wordAligned x })
    | 0x00E => c.stepOn (s.modThread c.ref fun th => th.clearFlags x)
    | 0x00F => c.writeGang x s
    | 0x01D => c.stepOn (s.modThread c.ref fun th => { th with utrapbase := wordAligned x })
    | _ => c.stepOn s

/-- Write a supervisor index (R271): MBZ bits are stored as 0. -/
def Ctx.writeSuper (c : Ctx) (i : Nat) (x : Word) (s : State) : State :=
  match i with
  | 0x100 => s.modPart c.part fun p => { p with trapbase := wordAligned x }
  | 0x101 => s.modPart c.part fun p => { p with ptroot := x &&& 0xFFFFE000 }
  | 0x102 => s.modPart c.part fun p => { p with ptrooth := x &&& 0x000FFFFF }
  | 0x103 => s.modPart c.part fun p => { p with pool := x }
  | 0x104 => s.modCore c.ref.core fun k => { k with fltcnt := x.toNat }
  | 0x105 => s.modPart c.part fun p => { p with dumpva := x }
  | 0x106 => s.modPart c.part fun p => { p with dumpvah := x &&& 0x00FFFFFF }
  | 0x109 => s.modPart c.part fun p => { p with testen := x &&& 0x1F }
  | _ => s

/-- Write an index. -/
def Ctx.writeSpecial (c : Ctx) (i : Nat) (x : Word) (s : State) : State :=
  if 0x100 ≤ i then c.stepOn (c.writeSuper i x s) else c.writeUser i x s

/-- A read or write of FLAGS waits for older words that still owe flags (R49). -/
def Ctx.flagsWait (c : Ctx) (i : Nat) (s : State) : Bool :=
  i = 0x00E && !c.thread.ccp && flagsOutstanding (s.coreAt c.ref.core) c.ref c.thread

/-- Read a special into D: a scalar, or every lane of the effective mask but those of a poisoned guard, which are parked (R96, R359). -/
def Ctx.moveFrom (c : Ctx) (d : Reg) (i : Nat) (s : State) : State :=
  if c.flagsWait i s then c.holdAt .flags s
  else
    let v := c.readSpecial i s
    let bad := if isScalar d then 0 else c.guardPoison
    let outs := if isScalar d then [0] else lanesOf (c.eff &&& ~~~bad)
    c.parkPoisoned bad ((c.latchCycle i s).modThread c.ref fun th =>
      th.writeReg c.core c.slot d (outs.map fun l => (l, v)) 0)

/-- Write a special from the uniform D (R97). -/
def Ctx.moveTo (c : Ctx) (d : Reg) (i : Nat) (s : State) : State :=
  if c.flagsWait i s then c.holdAt .flags s else c.writeSpecial i (c.uniform d) s

end Sys2Proof.Machine
end

