-- ==== Sys2Proof/Machine/Sync.lean ====
section
/-! DEFINITION. Synchronisation (R195 to R217): fences, barriers, counted waits, the gang register and ring instructions. -/

namespace Sys2Proof.Machine
open Sys2Proof

/-! ### FENCE (R195, R196) -/

/-- The issue number of the FENCE: its own, or the one it had when it first had to wait. -/
def Ctx.fenceNumber (c : Ctx) : Nat :=
  match c.cur.hold with
  | .fence n _ _ => n
  | _ => c.seq

/-- FENCE (R196). -/
def execFence (p u : BitVec 4) (k : BitVec 3) (s : State) : Host.Outcome State Fault Refusal :=
  perform (.fence p u k) (fun c s =>
    if predBefore c.core c.ref c.thread p.toNat c.fenceNumber then c.holdAt (.fence c.fenceNumber p.toNat u.toNat) s
    else c.stepOn s) s

/-! ### Barriers (R204 to R208) -/

/-- BAR (R205): the word has issued, and the slot is held at it; the phase completes in `settle`, once the wave's older accesses are
performed (R200). -/
def execBar (n : BitVec 4) (s : State) : Host.Outcome State Fault Refusal :=
  perform (.bar n) (fun c s => s.modSlot c.ref c.slot fun x => { x with hold := .bar n.toNat }) s

/-- The cluster of the agent's block. -/
def Ctx.cluster (c : Ctx) (s : State) : Option Cluster := find s.clusters c.block.cluster

/-- The name of the agent's wave among the members of its cluster. -/
def Ctx.memberName (c : Ctx) (x : Cluster) : Nat := x.nameOf c.ref

/-- The completed-phase count of a cluster barrier (R206). -/
def Ctx.phases (c : Ctx) (n : Nat) (s : State) : Nat := ((c.cluster s).map fun x => findD x.counts n 0).getD 0

/-- The wave has arrived at cluster barrier n in a phase that has not completed, or will once its older accesses are performed. -/
def Ctx.hasArrived (c : Ctx) (x : Cluster) (n : Nat) : Bool :=
  (findD x.arrived n []).contains (c.memberName x) || c.thread.arriving.any fun y => y.1 = n

/-- The wave arrives at cluster barrier n: at once, or with its last older access (R200, R207). -/
def Ctx.arriveAt (c : Ctx) (x : Cluster) (n : Nat) (s : State) : State :=
  if c.released then { s with clusters := insert s.clusters c.block.cluster (x.arrive n (c.memberName x)) }
  else s.modThread c.ref fun th => { th with arriving := th.arriving ++ [(n, c.seq)] }

/-- ARRIVE (R207): it holds its slot only while an earlier arrival of the wave stands. -/
def execArrive (d : Reg) (n : BitVec 3) (s : State) : Host.Outcome State Fault Refusal :=
  perform (.arrive d n) (fun c s =>
    match c.cluster s with
    | none => c.stepOn s
    | some x =>
      if c.hasArrived x n.toNat then c.holdAt (.arrive n.toNat) s
      else c.stepOn (c.putScalar d ((c.phases n.toNat s + 1) % 65536) (c.arriveAt x n.toNat s))) s

/-- A phase has been reached (R208). -/
def phaseReached (count h : Nat) : Bool := 0 ≤ signedOf 16 (count + 65536 - h % 65536)

/-- WAITB (R208). -/
def execWaitb (n : BitVec 3) (a : Reg) (s : State) : Host.Outcome State Fault Refusal :=
  perform (.waitb n a) (fun c s =>
    if phaseReached (c.phases n.toNat s) (c.uniform a).toNat then c.stepOn s else c.holdAt (.waitb n.toNat (c.uniform a).toNat) s) s

/-- TESTB (R208, R302). -/
def execTestb (d a : Reg) (n : BitVec 3) (s : State) : Host.Outcome State Fault Refusal :=
  perform (.testb d a n) (fun c s =>
    if c.launch.det then c.raise .orderDependent c.eff 0 0 s
    else c.stepOn (c.putScalar d (boolNat (phaseReached (c.phases n.toNat s) (c.uniform a).toNat)) s)) s

/-! ### Counted waits and gangs (R210, R211) -/

/-- WAITC (R210). -/
def execWaitc (p : BitVec 3) (a : Reg) (s : State) : Host.Outcome State Fault Refusal :=
  perform (.waitc p a) (fun c s =>
    if pathCount c.core c.ref c.thread p.toNat ≤ (c.uniform a).toNat then c.stepOn s else c.holdAt (.waitc p.toNat) s) s

/-- GANG (R211). -/
def execGang (a : Reg) (s : State) : Host.Outcome State Fault Refusal :=
  perform (.gang a) (fun c s => c.writeGang (c.uniform a) s) s

/-! ### Rings (R203, R212 to R217) -/

/-- The trap of a ring's misuse (R203). -/
def Ctx.ringFault (c : Ctx) (reason ring va : Nat) (s : State) : State :=
  c.raise .address c.eff (BitVec.ofNat 32 (0x50 + 256 * reason + 4096 * ring)) va s

/-- The ring a word names, or the reason why it may not be used: above the allowance, or not initialised. -/
def Ctx.ring (c : Ctx) (n : Nat) : Except Nat Ring :=
  if c.launch.rings ≤ n then .error 1
  else match find c.block.rings n with
    | none => .error 4
    | some r => .ok r

/-- RAWAIT (R215). -/
def execRawait (d : Reg) (n : BitVec 4) (s : State) : Host.Outcome State Fault Refusal :=
  perform (.rawait d n) (fun c s =>
    match c.ring n.toNat with
    | .error e => c.ringFault e n.toNat 0 s
    | .ok r =>
      if r.rp = r.wp then c.holdAt (.rawait n.toNat) s else c.stepOn (c.putScalar d (r.slotAt r.rp) s)) s

/-- A wave of the block still reads bytes of a run, by a load (R178) or by an atomic that is queued (R184). -/
def loadsReading (b : Block) (x : Span) : Bool :=
  b.threads.any fun (_, th) =>
    (th.loads.any fun y =>
      y.space ≠ .global && y.accesses.any fun a => x.meets ⟨spaceCode y.space, a.va, y.size⟩) ||
    th.stores.any fun y =>
      y.atomic.isSome && y.space ≠ .global && y.lanes.any fun a => x.meets ⟨spaceCode y.space, a.access.va, a.bytes.length⟩

/-- Release the head slot of a ring (R216): its event waits for the operations that still read the slot. -/
def releaseHead (s : State) (c b n : Nat) (r : Ring) : State :=
  match s.blockAt c b with
  | none => s
  | some x =>
    let readers := readersOf (s.coreAt c) x b (r.span r.rp)
    let s := s.modRing c b n fun r => { r with rp := r.plus r.rp 1, waiting := r.waiting ++ [readers] }
    if readers.isEmpty && r.waiting.isEmpty then fireConsumed s c b n else s

/-- RREL (R216): the block's reads of the slot come before it, as the acknowledgement of a CPYM slot needs (R200); that the slot is held
until they have ended is the model's choice (log 112). -/
def execRrel (n : BitVec 4) (s : State) : Host.Outcome State Fault Refusal :=
  perform (.rrel n) (fun c s =>
    match c.ring n.toNat with
    | .error e => c.ringFault e n.toNat 0 s
    | .ok r =>
      if r.rp = r.wp then c.ringFault 6 n.toNat 0 s
      else if loadsReading c.block (r.span r.rp) then c.holdAt .queue s
      else c.stepOn (releaseHead s c.ref.core c.ref.block n.toNat r)) s

/-- RPOST (R217). -/
def execRpost (a : Reg) (n : BitVec 4) (s : State) : Host.Outcome State Fault Refusal :=
  perform (.rpost a n) (fun c s =>
    match c.ring n.toNat with
    | .error e => c.ringFault e n.toNat 0 s
    | .ok r =>
      if !r.post then c.ringFault 5 n.toNat 0 s
      else if 255 ≤ c.thread.posts.length || c.thread.fenced c.slot setE then c.holdAt .queue s
      else c.stepOn (s.modThread c.ref fun th =>
        { th with posts := th.posts ++ [{ seq := c.seq, ring := n.toNat, word := c.uniform a }] })) s

/-- The ring that a RINIT descriptor describes; none where a field breaks its limits (R203, reason 2). A slot size
above 2^20 that fits its field leaves the region instead (R213, log 102). -/
def ringOf (x y z : Nat) : Option Ring :=
  let count := z % 128
  let buffer := bits z 9 8
  let post := bit z 12
  let align := if buffer = 0 then 4 else 64
  if 2 ^ 20 ≤ x || y = 0 || 2 ^ 21 ≤ y || count = 0 || 64 < count || z - count - 256 * buffer - 4096 * boolNat post ≠ 0 ||
      x % align ≠ 0 || y % align ≠ 0 || (post && buffer ≠ 0) then none
  else some
    { base := x, size := y, count := count, buffer := buffer, post := post, wp := 0, rp := 0, cp := 0, fp := 0, filled := [],
      waiting := [], senders := [] }

/-- RINIT (R213). -/
def execRinit (n : BitVec 4) (a : Reg) (s : State) : Host.Outcome State Fault Refusal :=
  perform (.rinit n a) (fun c s =>
    if c.launch.rings ≤ n.toNat then c.ringFault 1 n.toNat 0 s
    else match ringOf (c.field a 0).toNat (c.field a 1).toNat (c.field a 2).toNat with
      | none => c.ringFault 2 n.toNat 0 s
      | some r =>
        let size := c.launch.regionSize (ringRegion r.buffer)
        if size < r.base + r.count * r.size then c.ringFault 3 n.toNat (max r.base size) s
        else if ringClaimed s c.ref.core c.ref.block n.toNat then c.holdAt .claim s
        else c.stepOn (s.modBlock c.ref.core c.ref.block fun b => { b with rings := insert b.rings n.toNat r })) s

end Sys2Proof.Machine
end

