-- ==== Sys2Proof/Machine/Copy.lean ====
section
/-! DEFINITION. Copy commands as words (R223 to R227, R232, R237 to R239): descriptors, claims, tags, and CWAIT, CSTAT, CCAN and
RFILL; and how a command's beats move (R229 to R235). -/

namespace Sys2Proof.Machine
open Sys2Proof

/-! ### Status words (R228) -/

/-- Codes of R228. -/
def codeOk : Nat := 0
/-- See `codeOk`. -/
def codePending : Nat := 1
/-- See `codeOk`. -/
def codeCkfail : Nat := 2
/-- See `codeOk`. -/
def codeCancelled : Nat := 3
/-- See `codeOk`. -/
def codeAddr : Nat := 4
/-- See `codeOk`. -/
def codePage : Nat := 5
/-- See `codeOk`. -/
def codePerm : Nat := 6
/-- See `codeOk`. -/
def codeSeal : Nat := 7
/-- See `codeOk`. -/
def codeEcc : Nat := 8
/-- See `codeOk`. -/
def codeBaddesc : Nat := 10
/-- See `codeOk`. -/
def codeNotag : Nat := 11
/-- See `codeOk`. -/
def codeMeta : Nat := 12
/-- See `codeOk`. -/
def codeRmis : Nat := 13
/-- See `codeOk`. -/
def codeCsr : Nat := 14

/-- A status word: beats, POIS, the REDX bits in place, and the code. -/
def statusWord (beats : Nat) (pois : Bool) (bits code : Nat) : Word :=
  BitVec.ofNat 32 (beats % 2 ^ 24 * 256 + boolNat pois * 128 + bits + code)

/-! ### Descriptors (R224 to R226, R232) -/

/-- Scalar n of a command's descriptor. -/
def Command.field (x : Command) (n : Nat) : Nat := (x.desc.getD n 0).toNat
/-- The source code. -/
def Command.sourceCode (x : Command) : Nat := x.field 3 % 16
/-- The destination code. -/
def Command.destCode (x : Command) : Nat := bits (x.field 3) 7 4
/-- The ring number. -/
def Command.ringNumber (x : Command) : Nat := bits (x.field 4) 11 8
/-- The buffer code of R121 that an endpoint code names; none for a global side (R225). -/
def sideRegion (code : Nat) : Option Nat :=
  match code with
  | 8 => some 3 | 9 => some 0 | 11 => some 2
  | _ => none
/-- CPYE's element size in bytes. -/
def Command.elementSize (x : Command) : Nat := bits (x.field 3) 9 8 + 1
/-- Bytes of a compressed line, and of the line it expands to (R140). -/
def Command.lineBytes (x : Command) : Nat × Nat := (16 * x.elementSize + 4, 32 * x.elementSize)
/-- Bytes of a REDX type code. -/
def redxBytes (code : Nat) : Nat :=
  match code with
  | 0 | 5 => 8 | 1 | 4 => 4
  | _ => 2
/-- REDX's contribution and target type codes. -/
def Command.redxTypes (x : Command) : Nat × Nat := (bits (x.field 3) 11 8, bits (x.field 3) 15 12)

/-- The extent of the source side and of the destination side (R226). -/
def Command.extents (x : Command) : Nat × Nat :=
  let n := x.field 2
  match x.opcode with
  | 0xB1 =>
    let row := n % 65536
    let rows := n / 65536
    ((rows - 1) * 64 * bits (x.field 3) 19 8 + row, (rows - 1) * 64 * bits (x.field 3) 31 20 + row)
  | 0xB4 => (n / x.lineBytes.2 * x.lineBytes.1, n)
  | 0xB6 => (n, n / redxBytes x.redxTypes.1 * redxBytes x.redxTypes.2)
  | _ => (n, n)

/-- Bytes carried, for CHK (R226) and for the ordinals of R364: a REDX carries its result, and what a CPYG carries is known only
once it has read its table (R235). -/
def Command.bytesCarried (x : Command) : Option Nat :=
  match x.opcode with
  | 0xB1 => some (x.field 2 % 65536 * (x.field 2 / 65536))
  | 0xB5 => none
  | 0xB6 => some x.extents.2
  | _ => some (x.field 2)

/-- The fields of one command's descriptor are in range (R224, R225, R232, R236). -/
def Command.fieldsOk (x : Command) : Bool :=
  let n := x.field 2
  let lengthOk := 1 ≤ n && n ≤ 2 ^ 24
  let sc := x.sourceCode
  let dc := x.destCode
  let upper := x.field 3 / 256
  let mask := x.field 4 / 65536
  (sc ≤ 9) && (dc ≤ 9 || dc = 11) && bits (x.field 4) 15 12 = 0 && (mask = 0 || x.opcode = 0xB3) &&
  match x.opcode with
  | 0xB0 => lengthOk && upper = 0
  | 0xB1 => 1 ≤ n % 65536 && 1 ≤ n / 65536 && n % 65536 * (n / 65536) ≤ 2 ^ 24
  | 0xB2 => lengthOk && upper = 0 && sc < 8 && dc < 8
  | 0xB3 => lengthOk && upper = 0 && mask ≠ 0
  | 0xB4 => lengthOk && upper < 2 && (dc = 8 || dc = 9) && n % x.lineBytes.2 = 0
  | 0xB5 => 1 ≤ n && n ≤ 255 && upper = 0 && sc < 8 && dc = 11
  | _ =>
    lengthOk && x.redxTypes.1 ≤ 5 && x.redxTypes.2 ≤ 5 && x.field 3 < 2 ^ 27 && n % redxBytes x.redxTypes.1 = 0

/-- A buffer side lies in its region; a slot's side is checked with its ring (R226). -/
def sideOk (l : Launch) (code offset extent : Nat) : Bool :=
  match sideRegion code with
  | none => true
  | some r => insideRegion (l.regionSize r) offset extent

/-- The ring of a block takes this command's data (R226). -/
def ringFits (l : Launch) (b : Block) (x : Command) : Bool :=
  x.ringNumber < l.rings && match find b.rings x.ringNumber with
    | none => false
    | some r => !r.post && sideRegion x.destCode = some (ringRegion r.buffer) && x.field 1 + x.extents.2 ≤ r.size

/-- The blocks a CPYM names, as (core, residency slot); none where a bit names no block of the cluster that is resident. -/
def receivers (s : State) (b : Block) (x : Command) : Option (List (Nat × Nat)) :=
  let mask := x.field 4 / 65536
  let places := ((find s.clusters b.cluster).map (·.blocks)).getD []
  let ranks := (List.range 16).filter (bit mask)
  let found := ranks.filterMap fun r => (places.find? fun e => e.1 = r).bind (·.2)
  if found.length = ranks.length then some found else none

/-- The rings a command fills, as (core, block slot): its own block's, or those a CPYM names. -/
def ringBlocks (s : State) (c : Ctx) (x : Command) : Option (List (Nat × Nat)) :=
  if x.opcode = 0xB3 then receivers s c.block x
  else if x.flags.ring then some [(c.ref.core, c.ref.block)] else some []

/-! ### Pages (R229) -/

/-- What the engine knows or walks of a page (R229). -/
def copyPage (s : State) (core part : Nat) (r : TReg) (va : Nat) : WalkResult :=
  if r.base ≤ va && va - r.base < r.limit then
    .leaf
      { partition := part, log := 16, page := va / 65536,
        frame := (r.frame + (va - r.base)) / 65536 * 65536, r := r.r, w := r.w, sealed := r.sealed, tier := r.tier }
  else match tlbFind s core part va with
    | some e => .leaf e
    | none => walkPages s part va

/-- The code of R229 that a page gives a side; `far` admits another module's frames (R232). -/
def copyFault (s : State) (write far : Bool) (w : WalkResult) (va : Nat) : Option Nat :=
  match w with
  | .invalid true _ => some codePage
  | .invalid false _ | .malformed => some codeAddr
  | .uncorrectable => some codeEcc
  | .leaf e =>
    if !far && !isLocal s (leafPhys w va) then some codeAddr
    else if write then
      if e.sealed then some codeSeal
      else if !e.w then some codePerm
      else if frameSealed s (leafPhys w va) then some codeSeal
      else none
    else if !e.r then some codePerm
    else none

/-- The physical parts of a global side, or the code and address of its lowest failing byte. -/
def copyParts (s : State) (core part : Nat) (r : TReg) (write far : Bool) (offset n : Nat) :
    Except (Nat × Nat) (List (Nat × Nat)) :=
  let va := r.base + offset
  if 2 ^ 56 < va + n then .error (codeAddr, va % 2 ^ 56)
  else
    let known := (cutPages va n).map fun (a, k) => (a, k, copyPage s core part r a)
    match known.findSome? fun (a, _, w) => (copyFault s write far w a).map fun code => (code, a) with
    | some e => .error e
    | none => .ok (known.map fun (a, k, w) => (leafPhys w a, k))

/-- CPYX whose first bytes both translate to this module (R232, log 21). -/
def bothLocal (s : State) (c : Ctx) (x : Command) : Bool :=
  let here (r : TReg) (offset : Nat) : Bool := match copyPage s c.ref.core c.part r (r.base + offset) with
    | .leaf e => isLocal s (e.frame + (r.base + offset) % 2 ^ e.log)
    | _ => false
  here x.source (x.field 0) && here x.dest (x.field 1)

/-- The descriptor breaks R224, R225 or R232 (R226). -/
def badDescriptor (s : State) (c : Ctx) (x : Command) : Bool :=
  let (es, ed) := x.extents
  let rings := ringBlocks s c x
  !x.fieldsOk || !sideOk c.launch x.sourceCode (x.field 0) es || (!x.flags.ring && x.opcode ≠ 0xB5 && !sideOk c.launch x.destCode (x.field 1) ed) ||
  (x.flags.chk && x.bytesCarried.any fun n => n % 4 ≠ 0) ||
  (x.opcode = 0xB2 && bothLocal s c x) ||
  match rings with
  | none => true
  | some places => places.any fun (k, b) => ((s.blockAt k b).map fun b => !ringFits c.launch b x).getD true

/-! ### Beats -/

/-- A beat: the source bytes it reads and the destination bytes it writes, as offsets of their sides. `given` holds what it
writes where the engine has read it already, from `source` on (CPYG). -/
structure Beat where
  source : Nat
  taken : Nat
  dest : Nat
  size : Nat
  given : Option (List (Byte × Bool))
  deriving DecidableEq, Repr

/-- Cut `n` bytes into beats from their own first byte (R227). -/
def cutBeats (source dest n : Nat) : List Beat :=
  (List.range (ceilDiv n 64)).map fun i =>
    let k := min 64 (n - 64 * i)
    ⟨source + 64 * i, k, dest + 64 * i, k, none⟩

/-- The offset of the destination side: inside the slot it claimed, under RING. -/
def Command.destOffset (x : Command) : Nat := x.field 1

/-- Beats of every command but CPYG and REDX. -/
def Command.beatsOf (x : Command) : List Beat :=
  let n := x.field 2
  match x.opcode with
  | 0xB1 => flatten ((List.range (n / 65536)).map fun r =>
      cutBeats (x.field 0 + r * 64 * bits (x.field 3) 19 8) (x.destOffset + r * 64 * bits (x.field 3) 31 20) (n % 65536))
  | 0xB4 =>
    let (line, out) := x.lineBytes
    (List.range (ceilDiv n 64)).map fun i =>
      let k := min 64 (n - 64 * i)
      ⟨x.field 0 + 64 * i / out * line, k / out * line, x.destOffset + 64 * i, k, none⟩
  | _ => cutBeats (x.field 0) x.destOffset n

/-- A copy's place: its thread, partition and command. -/
structure CopyAt where
  thread : ThreadRef
  part : Nat
  cmd : Command

/-- The address of a byte of the source side: an offset of a region, or a virtual address. -/
def CopyAt.sourceVa (x : CopyAt) (offset : Nat) : Nat :=
  if (sideRegion x.cmd.sourceCode).isSome then offset else x.cmd.source.base + offset

/-- Source bytes with their poison, from a region or from local parts. -/
def readSide (s : State) (x : CopyAt) (offset n : Nat) (parts : List (Nat × Nat)) : List (Byte × Bool) :=
  match sideRegion x.cmd.sourceCode with
  | some code => match s.blockAt x.thread.core x.thread.block with
    | none => []
    | some b =>
      (b.readRegion code offset n).zip ((List.range n).map fun i => b.rpois.contains (regionKey code (offset + i) / 32))
  | none => flatten (parts.map fun (a, k) => readMarked s x.part a k)

/-- The physical parts of the source of a beat; none needed for a region. -/
def sourceParts (s : State) (x : CopyAt) (offset n : Nat) : Except (Nat × Nat) (List (Nat × Nat)) :=
  if (sideRegion x.cmd.sourceCode).isSome then .ok []
  else copyParts s x.thread.core x.part x.cmd.source false (x.cmd.opcode = 0xB2) offset n

/-- Read local source bytes at once: the errors armed for a region's sectors are found (R364). -/
def takeSide (s : State) (x : CopyAt) (offset n : Nat) : Except (Nat × Nat) (State × List (Byte × Bool)) :=
  match sourceParts s x offset n with
  | .error e => .error e
  | .ok parts =>
    let s := match sideRegion x.cmd.sourceCode with
      | some code => fireEcc s x.thread.core x.thread.block [⟨code, offset, n⟩]
      | none => s
    .ok (s, readSide s x offset n parts)

/-! ### CPYG (R235) -/

/-- The plan of a sparse image: the beats up to a stop, if one is met, with its code and address. -/
structure Plan where
  beats : List Beat
  stop : Option (Nat × Nat)

/-- Beats that write bytes already read, cut from the first. -/
def givenBeats (source dest : Nat) (bs : List (Byte × Bool)) : List Beat :=
  (List.range (ceilDiv bs.length 64)).map fun i =>
    let part := (bs.drop (64 * i)).take 64
    ⟨source + 64 * i, 0, dest + 64 * i, part.length, some part⟩

/-- A CSR block's bytes are malformed (R138), its values aside. -/
def csrBytesBad (bs : List Byte) : Bool :=
  let row (i : Nat) : Nat := leAt bs (2 * i) 2
  row 0 ≠ 0 || (List.range 32).any (fun i => row (i + 1) < row i) || 1024 < row 32 ||
    ((bs.drop 68).take (row 32)).any fun x => 32 ≤ x.toNat

/-- Bytes met poisoned under CHK, read from an offset of the source: the stop, with the first poisoned byte's address (R229). -/
def poisonStop (x : CopyAt) (offset : Nat) (bs : List (Byte × Bool)) : Option (Nat × Nat) :=
  if x.cmd.flags.chk && bs.any (·.2) then
    some (codeEcc, (x.sourceVa offset + (bs.takeWhile fun y => !y.2).length) % 2 ^ 56)
  else none

/-- What a descriptor says, as one number: what depends on it alone is the same on every run (R304). -/
def Command.key (x : Command) : Nat := x.desc.foldl (fun n w => n * 2 ^ 32 + w.toNat) 0

/-- The blocks of a step table, in step order, and the table as it will be written, or where the engine stops. An OFF that is not a
multiple of 4 stops it with CSR: the model's choice (log 118). -/
def gatherBlocks (s : State) (x : CopyAt) (size : Nat) (table : List (Byte × Bool)) :
    (steps : List Nat) → List Beat → List (Byte × Bool) → Plan
  | [], beats, out => ⟨beats ++ givenBeats (x.cmd.field 0) x.cmd.destOffset out, none⟩
  | i :: rest, beats, out =>
    let entry := (table.drop (4 * i)).take 4
    let w := leNat (entry.map (·.1))
    let off := w % 2 ^ 20
    let source := x.cmd.field 0 + off
    let dest := x.cmd.destOffset + off
    if bits w 30 20 ≠ 0 then ⟨beats, some (codeCsr, 0)⟩
    else if bit w 31 then gatherBlocks s x size table rest beats (out ++ entry)
    else if off % 4 ≠ 0 || !insideRegion size dest 68 then ⟨beats, some (codeCsr, 0)⟩
    else match takeSide s x source 68 with
      | .error e => ⟨beats, some e⟩
      | .ok (_, head) =>
        let nnz := leAt (head.map (·.1)) 64 2
        let n := 68 + 4 * ceilDiv nnz 4 + nnz * (if Config.wideValues x.cmd.key then 2 else 1)
        if (poisonStop x source head).isSome then ⟨beats ++ givenBeats source dest head, none⟩
        else if 1024 < nnz || !insideRegion size dest n then ⟨beats, some (codeCsr, 0)⟩
        else match takeSide s x source n with
          | .error e => ⟨beats, some e⟩
          | .ok (_, block) =>
            if (poisonStop x source block).isNone && csrBytesBad (block.map (·.1)) then ⟨beats, some (codeCsr, 0)⟩
            else
              let entry := if nnz = 0 then (leBytes 4 (w + 2 ^ 31)).zip (entry.map (·.2)) else entry
              gatherBlocks s x size table rest (beats ++ givenBeats source dest block) (out ++ entry)

/-- The plan of a command: its beats, and the stop that ends them early. `size` is the block's WB size. -/
def planOf (s : State) (x : CopyAt) (size : Nat) : Plan :=
  if x.cmd.opcode = 0xB5 then
    let n := x.cmd.field 2
    if !insideRegion size x.cmd.destOffset (4 * n) then ⟨[], some (codeCsr, 0)⟩
    else match takeSide s x (x.cmd.field 0) (4 * n) with
      | .error e => ⟨[], some e⟩
      | .ok (_, table) => match poisonStop x (x.cmd.field 0) table with
        | some e => ⟨[], some e⟩
        | none => gatherBlocks s x size table (List.range n) [] []
  else ⟨x.cmd.beatsOf, none⟩

/-! ### One beat (R227, R229, R231, R234, R364) -/

/-- How a beat ends. -/
inductive BeatEnd where
  /-- The next beat may follow; the command as it stands. -/
  | done (s : State) (cmd : Command)
  /-- Messages have been sent for it. -/
  | sent (s : State) (cmd : Command)
  /-- Nothing can be done until an answer, or room to send, has come. -/
  | blocked
  | stop (s : State) (cmd : Command) (code va : Nat)

/-- A line of R140 expanded to elements of n bytes; none where two values of a group name one position (R234). -/
def expandLine (n : Nat) (line : List (Byte × Bool)) : Option (List (Byte × Bool)) :=
  let places := (line.drop (16 * n)).take 4
  let m := leNat (places.map (·.1))
  let poisoned := places.any (·.2)
  let at_ (q : Nat) : Nat := 4 * (q / 2) + bits m (2 * q + 1) (2 * q)
  if (List.range 8).any fun g => at_ (2 * g) = at_ (2 * g + 1) then none
  else some (flatten ((List.range 32).map fun k =>
    match (List.range 16).find? fun q => at_ q = k with
    | some q => ((line.drop (n * q)).take n).map fun b => (b.1, b.2 || poisoned)
    | none => List.replicate n (0, poisoned)))

/-- The lines of a beat expanded, up to the first that cannot be; whether all could. -/
def expandLines (n line : Nat) : (k : Nat) → List (Byte × Bool) → List (Byte × Bool) × Bool
  | 0, _ => ([], true)
  | k + 1, bs =>
    match expandLine n (bs.take line) with
    | none => ([], false)
    | some xs =>
      let (rest, ok) := expandLines n line k (bs.drop line)
      (xs ++ rest, ok)

/-- Flip a bit of the byte at an offset of the bytes (R364). -/
def flipBit (bs : List (Byte × Bool)) (offset bitNo : Nat) : List (Byte × Bool) :=
  changeAt bs offset fun b => (b.1 ^^^ BitVec.ofNat 8 (2 ^ (bitNo % 8)), b.2)

/-- The armed copy error of a thread: its bit, and the ordinal of its word (R364). -/
def Thread.copyArm (th : Thread) : Option (Nat × Nat) :=
  th.arms.findSome? fun a => match a with
    | .copy b n => some (b, n)
    | _ => none

/-- The ordinal of a command's first word under the armed copy error (R364): the words that the commands issued before it since
the arm carry. None where one of them is a CPYG that has not read its table, or where the command is older than the arm. -/
def Thread.firstWord (th : Thread) (seq : Nat) : Option Nat :=
  if th.copyWords.any (·.1 = seq) then
    (th.copyWords.takeWhile fun x => x.1 ≠ seq).foldl (fun n x => n.bind fun n => x.2.map (n + ·)) (some 0)
  else none

/-- A command that an armed copy error counts waits until the words before it are known (R364, log 109). -/
def Thread.wordsUnknown (th : Thread) (seq : Nat) : Bool :=
  th.copyArm.isSome && th.copyWords.any (·.1 = seq) && (th.firstWord seq).isNone

/-- Data between the source read and the destination write: an armed copy error flips its bit in the word it names (R364).
`first` is the place of the data's first byte among the bytes that the command carries, in ascending offset order. -/
def corrupt (s : State) (x : CopyAt) (first : Nat) (bs : List (Byte × Bool)) : State × List (Byte × Bool) :=
  match s.threadAt x.thread with
  | none => (s, bs)
  | some th => match th.copyArm, th.firstWord x.cmd.seq with
    | some (b, n), some w =>
      let i := 4 * n + b / 8
      let k := 4 * w + first
      if k ≤ i && i < k + bs.length then (s.modThread x.thread fun th => th.disarm (.copy b n), flipBit bs (i - k) b)
      else (s, bs)
    | _, _ => (s, bs)

/-- c ← Rotl32(c, 1) + w over at most n words (R231). -/
def checksum (c : Word) : (n : Nat) → List Byte → Word
  | 0, _ => c
  | n + 1, bs =>
    match bs with
    | [] => c
    | _ => checksum (BitVec.ofNat 32 (rotl32 c.toNat 1 + leNat (bs.take 4))) n (bs.drop 4)

/-- Write bytes to a region as one write (R359): a sector is poisoned where a byte of it comes from poison. -/
def Block.writeCarried (b : Block) (code offset : Nat) (bs : List (Byte × Bool)) : Block :=
  let key := regionKey code offset
  let dirty := ((List.range bs.length).zip bs).filterMap fun (i, x) => if x.2 then some (key + i, 1) else none
  { b with
    regions := writeCells b.regions key (bs.map (·.1))
    rpois := poisonAfterAll b.rpois [(key, bs.length)] dirty }

/-- The bytes of each part, in address order. -/
def cutCarried : (parts : List (Nat × Nat)) → List (Byte × Bool) → List (Nat × List (Byte × Bool))
  | [], _ => []
  | (a, n) :: rest, bs => (a, bs.take n) :: cutCarried rest (bs.drop n)

/-- Write bytes to local parts as one write (R359). -/
def writeLocal (s : State) (part : Nat) (parts : List (Nat × List (Byte × Bool))) : State :=
  let mine := parts.filter fun p => isLocal s p.1
  let clean := mine.map fun p => (physKey p.1, p.2.length)
  let dirty := flatten (mine.map fun p =>
    ((List.range p.2.length).zip p.2).filterMap fun (i, x) => if x.2 then some (physKey p.1 + i, 1) else none)
  let s := mine.foldl (fun s p => s.writeBytes (s.partAt part).key (physKey p.1) (p.2.map (·.1))) s
  { s with poison := poisonAfterAll s.poison clean dirty }

/-- Pieces of a part that end at sector boundaries, for the poison of a message. -/
def sectorPieces : (fuel : Nat) → (a : Nat) → List (Byte × Bool) → List (Nat × List (Byte × Bool))
  | 0, _, _ => []
  | _ + 1, _, [] => []
  | f + 1, a, bs =>
    let n := 32 - a % 32
    (a, bs.take n) :: sectorPieces f (a + n) (bs.drop n)

/-- The messages that parts are cut into: a message has one poison bit, so bytes with poison among them go by the sector. -/
def messagePieces (parts : List (Nat × List (Byte × Bool))) : List (Nat × List (Byte × Bool)) :=
  flatten (parts.map fun (a, bs) => if bs.any (·.2) then sectorPieces (bs.length + 1) a bs else [(a, bs)])

/-- The first byte of each of the parts that belong to another module, counted from `off`. -/
def remoteOffsets (s : State) : (off : Nat) → (parts : List (Nat × Nat)) → List Nat
  | _, [] => []
  | off, (a, n) :: rest =>
    if isLocal s a then remoteOffsets s (off + n) rest else off :: remoteOffsets s (off + n) rest

/-- Send messages in order; none where one finds no room. -/
def sendAll (s : State) (part : Nat) :
    List (Nat × Bool × RemoteOp) → Option (State × List (Nat × Nat))
  | [] => some (s, [])
  | (a, poison, op) :: rest =>
    match sendRemote s 2 part (physModule a) (physKey a) poison op with
    | .wait => none
    | .done s n => (sendAll s part rest).map fun r => (r.1, (physModule a, n) :: r.2)

/-- The writes of a beat's remote parts as messages. -/
def remoteWrites (s : State) (parts : List (Nat × List (Byte × Bool))) : List (Nat × Bool × RemoteOp) :=
  ((messagePieces parts).filter fun p => !isLocal s p.1).map fun (a, xs) => (a, xs.any (·.2), RemoteOp.write (xs.map (·.1)))

/-- Where a command's destination side begins in each block it writes: the region and base of a slot, or of the region. -/
def destSides (s : State) (x : CopyAt) (code : Nat) : List (Nat × Nat × Nat × Nat) :=
  if x.cmd.flags.ring then
    x.cmd.claims.map fun (c, b, n, p) => (c, b, code, ((s.ringAt c b n).map fun r => r.slotAt p).getD 0)
  else [(x.thread.core, x.thread.block, code, 0)]

/-- The checksum takes in a beat's bytes: words run on from one beat to the next. CPYG's table goes last but lies first, so its bytes
wait in the order of their offsets until the end (R231). -/
def Command.sum (c : Command) (dest : Nat) (bs : List Byte) : Command :=
  let marked := ((List.range bs.length).map (dest + ·)).zip bs
  if !c.flags.chk then c
  else if c.opcode = 0xB5 then { c with unsummed := marked.foldl (fun m x => insert m x.1 x.2) c.unsummed }
  else
    let xs := c.unsummed ++ marked
    let n := xs.length / 4 * 4
    { c with check := checksum c.check n ((xs.take n).map (·.2)), unsummed := xs.drop n }

/-- The checksum of all that a command has carried: a short last word counts with zeros above. -/
def Command.summed (c : Command) : Command :=
  { c with check := checksum c.check c.unsummed.length (c.unsummed.map (·.2)), unsummed := [] }

/-- The command once a beat's bytes have been written. -/
def Command.wrote (c : Command) (dest : Nat) (bs : List (Byte × Bool)) (whole : Bool) : Command :=
  { c.sum dest (bs.map (·.1)) with
    beats := c.beats + (if whole then 1 else 0)
    pois := c.pois || bs.any (·.2)
    asked := []
    askedAt := []
    writing := false
    carried := [] }

/-- Write a beat's data to its destination. -/
def writeBeat (s : State) (x : CopyAt) (b : Beat) (bs : List (Byte × Bool)) (whole : Bool) : BeatEnd :=
  let n := bs.length
  match sideRegion x.cmd.destCode with
  | some code =>
    let s := (destSides s x code).foldl (fun s (c, bl, code, base) =>
      s.modBlock c bl fun y => y.writeCarried code (base + b.dest) bs) s
    .done s (x.cmd.wrote b.dest bs whole)
  | none =>
    match copyParts s x.thread.core x.part x.cmd.dest true (x.cmd.opcode = 0xB2) b.dest n with
    | .error (code, va) => .stop s x.cmd code va
    | .ok parts =>
      let cut := cutCarried parts bs
      match remoteWrites s cut with
      | [] => .done (writeLocal s x.part cut) (x.cmd.wrote b.dest bs whole)
      | msgs => match sendAll s x.part msgs with
        | none => .blocked
        | some (s, ns) =>
          let offsets := remoteOffsets s 0 ((messagePieces cut).map fun p => (p.1, p.2.length))
          .sent s { x.cmd with asked := ns, askedAt := offsets, writing := true, carried := bs }

/-- The code of a remote part that did not end well (R229, R350, R351). -/
def answerCode (x : Answer) : Option Nat :=
  match x with
  | .failed => some codeFabric
  | .reply r => if r.sealed then some codeSeal else if r.refused then some codePerm else none
  | .waiting => none

/-- The lowest failing message of the beat in hand: its code, and the first byte of the beat that it carries (R229). -/
def Command.firstFailed (c : Command) (s : State) : Option (Nat × Nat) :=
  (c.asked.zip c.askedAt).findSome? fun (m, off) => (answerCode (answerOf s m.1 m.2)).map fun code => (code, off)

/-- The command without the messages of the beat in hand. -/
def Command.unasked (c : Command) : Command := { c with asked := [], askedAt := [] }

/-- A beat whose write is on its way: its answers are in, or it waits. -/
def finishWrite (s : State) (x : CopyAt) (b : Beat) : BeatEnd :=
  let a : LaneAccess := { lane := 0, va := 0, parts := [], remote := x.cmd.asked }
  let e := remoteEnd s a
  let s' := forgetAnswers s x.cmd.asked
  match e with
  | .waiting => .blocked
  | .data =>
    match copyParts s x.thread.core x.part x.cmd.dest true true b.dest x.cmd.carried.length with
    | .error _ => .done s' (x.cmd.wrote b.dest x.cmd.carried true)
    | .ok parts => .done (writeLocal s' x.part (cutCarried parts x.cmd.carried)) (x.cmd.wrote b.dest x.cmd.carried true)
  | _ =>
    let (code, off) := (x.cmd.firstFailed s).getD (codeFabric, 0)
    .stop s' x.cmd.unasked code ((x.cmd.dest.base + b.dest + off) % 2 ^ 56)

/-- The data of a beat, read: poison under CHK stops it, CPYE expands it, an armed error corrupts it, and it is written. -/
def carryBeat (s : State) (x : CopyAt) (b : Beat) (first : Nat) (bs : List (Byte × Bool)) : BeatEnd :=
  match poisonStop x b.source bs with
  | some (code, va) => .stop s x.cmd code va
  | none =>
  if x.cmd.opcode = 0xB4 then
    let (line, out) := x.cmd.lineBytes
    let (ys, ok) := expandLines x.cmd.elementSize line (b.size / out) bs
    let (s, ys) := corrupt s x first ys
    if ok then writeBeat s x b ys true
    else if ys.isEmpty then .stop s x.cmd codeMeta 0
    else match writeBeat s x b ys false with
      | .done s c => .stop s c codeMeta 0
      | r => r
  else
    let (s, bs) := corrupt s x first bs
    writeBeat s x b bs true

/-- Parts cut at the ends of sectors: a response has one poison bit, and poison is kept by the sector (R359). -/
def cutSectors (parts : List (Nat × Nat)) : List (Nat × Nat) :=
  flatten (parts.map fun (a, n) =>
    (List.range (ceilDiv (a % 32 + n) 32)).map fun i =>
      let lo := max a (a / 32 * 32 + 32 * i)
      (lo, min (a + n) (a / 32 * 32 + 32 * i + 32) - lo))

/-- The read of a beat that reaches another module: what is asked for, and the answers so far. -/
def askedRead (x : CopyAt) (parts : List (Nat × Nat)) : LaneAccess :=
  { lane := 0, va := 0, parts := cutSectors parts, remote := x.cmd.asked }

/-- One beat of a command. -/
def runBeat (s : State) (x : CopyAt) (b : Beat) (first : Nat) : BeatEnd :=
  if x.cmd.writing then finishWrite s x b
  else match b.given with
    | some bs => carryBeat s x b first bs
    | none =>
      match sourceParts s x b.source b.taken with
      | .error (code, va) => .stop s x.cmd code va
      | .ok parts =>
        if parts.all fun p => isLocal s p.1 then
          match takeSide s x b.source b.taken with
          | .error (code, va) => .stop s x.cmd code va
          | .ok (s, bs) => carryBeat s x b first bs
        else
          let a := askedRead x parts
          if x.cmd.asked.isEmpty then
            match sendAll s x.part
                ((a.parts.filter fun p => !isLocal s p.1).map fun p => (p.1, false, RemoteOp.read p.2)) with
            | none => .blocked
            | some (s, ns) => .sent s { x.cmd with asked := ns, askedAt := remoteOffsets s 0 a.parts }
          else match remoteEnd s a with
            | .waiting => .blocked
            | .data =>
              carryBeat (forgetAnswers s x.cmd.asked) x b first (readPieces s x.part a.parts a.remote)
            | _ =>
              let (code, off) := (x.cmd.firstFailed s).getD (codeFabric, 0)
              .stop (forgetAnswers s x.cmd.asked) x.cmd.unasked code (x.sourceVa (b.source + off) % 2 ^ 56)

/-! ### A whole command -/

/-- How far a command has come. -/
inductive Ran where
  | blocked
  | sent (s : State) (cmd : Command)
  /-- Every beat allowed has been written. -/
  | limit (s : State) (cmd : Command)
  | finished (s : State) (cmd : Command)
  | stopped (s : State) (cmd : Command) (code va : Nat)

/-- The place of a beat's first byte among the bytes of a command in ascending offset order (R364): a CPYG's table lies first and
goes last, so its beats count those that lie below them; `past` counts the bytes of the beats before. -/
def firstByteOf (x : CopyAt) (all : List Beat) (b : Beat) (past : Nat) : Nat :=
  if x.cmd.opcode = 0xB5 then all.foldl (fun n y => if y.dest < b.dest then n + y.size else n) 0 else past

/-- Run the beats that are left, at most `limit` of them. `past` counts the bytes of the beats before. -/
def runBeats (s : State) (x : CopyAt) (plan : Plan) : (beats : List Beat) → (past limit : Nat) → Ran
  | [], _, _ => match plan.stop with
    | none => .finished s x.cmd
    | some (code, va) => .stopped s x.cmd code va
  | b :: rest, past, limit =>
    if limit = 0 then .limit s x.cmd
    else match runBeat s x b (firstByteOf x plan.beats b past) with
      | .blocked => .blocked
      | .sent s c => .sent s c
      | .stop s c code va => .stopped s c code va
      | .done s c => runBeats s { x with cmd := c } plan rest (past + b.size) (limit - 1)

/-- An older access or command of the thread is not performed: what ACQ and REL wait for (R227). -/
def olderPending (th : Thread) (n : Nat) : Bool :=
  loadsBefore th (n - 1) || storesBefore th (n - 1) false || storesBefore th (n - 1) true || commandsBefore th (n - 1)

/-- A command of a thread of the state. -/
def findCommand (s : State) (t : ThreadRef) (n : Nat) : Option CopyAt :=
  match s.threadAt t, s.blockAt t.core t.block with
  | some th, some b => (th.cmds.find? fun x => x.seq = n).map fun x => ⟨t, (s.launchOf b).partition, x⟩
  | _, _ => none

/-- Put a command back. -/
def setCommand (s : State) (t : ThreadRef) (c : Command) : State :=
  s.modThread t fun th => { th with cmds := th.cmds.map fun x => if x.seq = c.seq then c else x }

/-- What a CPYG carries is known once it has read its table: the commands after it are counted from there (R364). -/
def Thread.notePlan (th : Thread) (x : Command) (plan : Plan) : Thread :=
  if x.opcode = 0xB5 then
    let words := ceilDiv (plan.beats.foldl (fun n b => n + b.size) 0) 4
    { th with copyWords := th.copyWords.map fun y => if y.1 = x.seq then (y.1, some words) else y }
  else th

/-- Run a command that is not a REDX: from the beat it has reached, at most `limit` beats. One that CCAN stops ends the beat in hand: its
write, or the read of it once it is answered (R238). -/
def runCopy (s : State) (x : CopyAt) (limit : Nat) : Ran :=
  match s.threadAt x.thread, s.blockAt x.thread.core x.thread.block with
  | some th, some b =>
    if x.cmd.status.isSome || x.cmd.moved then .blocked
    else if x.cmd.cancelling && !x.cmd.writing then
      if remoteEnd s (askedRead x []) = .waiting then .blocked
      else .limit (forgetAnswers s x.cmd.asked) x.cmd.unasked
    else if th.wordsUnknown x.cmd.seq then .blocked
    else if !x.cmd.cancelling && (x.cmd.flags.acq || x.cmd.flags.rel) && olderPending th x.cmd.seq then .blocked
    else
      let plan := planOf s x ((s.launchOf b).regionSize 2)
      let past := (plan.beats.take x.cmd.beats).foldl (fun n y => n + y.size) 0
      runBeats (s.modThread x.thread fun th => th.notePlan x.cmd plan) x plan (plan.beats.drop x.cmd.beats) past
        (if x.cmd.cancelling then 1 else limit)
  | _, _ => .blocked

/-- Mark the slots a command claimed as filled (R214), noting a CPYM to acknowledge where it waits for that (R233). -/
def fillClaims (s : State) (t : ThreadRef) (c : Command) (ack : Bool) : State :=
  c.claims.foldl (fun s (k, b, n, p) =>
    s.modRing k b n fun r =>
      let r := r.fill p
      if ack then { r with senders := r.senders ++ [(p, t.core, t.block, c.seq)] } else r) s

/-- A command ends with a code (R227): its status and D are set. A CPYG that ends before it has read its table carries no word
(R364). -/
def endCommand (s : State) (t : ThreadRef) (c : Command) (bits code : Nat) : State :=
  let d := if c.flags.chk && (code = codeOk || code = codeCkfail) then c.check.toNat else 0
  let s := setCommand s t { c with status := some (statusWord c.beats c.pois bits code), acks := [] }
  let s := s.modThread t fun th =>
    { th with copyWords := th.copyWords.map fun y => if y.1 = c.seq then (y.1, some (y.2.getD 0)) else y }
  s.modSlot t false fun x => x.writeScalar (regNum c.d) d false

/-- A command stops at a beat (R229): FAULTVA holds the lowest failing address of an access that failed. -/
def stopCommand (s : State) (t : ThreadRef) (c : Command) (code va : Nat) : State :=
  let access := codeAddr ≤ code && code ≤ codeFabric
  let s := if access then s.modThread t fun th =>
      { th with exc := { th.exc with faultva := BitVec.ofNat 32 va, faultvah := BitVec.ofNat 32 (va / 2 ^ 32) } }
    else s
  endCommand (fillClaims s t c false) t c 0 code

/-- A command whose last write is performed (R227, R231, R233): a CPYM waits for its acknowledgements. -/
def completeCommand (s : State) (t : ThreadRef) (c : Command) : State :=
  let c := c.summed
  let code := if c.flags.cmpx && c.check.toNat ≠ c.field 5 then codeCkfail else codeOk
  if c.opcode = 0xB3 && !c.moved then setCommand (fillClaims s t c true) t { c with moved := true, acks := c.claims }
  else if c.opcode = 0xB3 then endCommand s t c 0 code
  else endCommand (fillClaims s t c false) t c 0 code

/-! ### Issue (R227) -/

/-- Commands of a thread that are outstanding: at most 16 (R219). -/
def Thread.outstanding (th : Thread) : List Command := th.cmds.filter fun x => x.status.isNone

/-- The command a word issues. -/
def Ctx.command (c : Ctx) (opcode : Nat) (d a : Reg) (f : CopyFlags) : Command :=
  let desc := (List.range 6).map (c.field a)
  let field (n : Nat) : Nat := (desc.getD n 0).toNat
  { seq := c.seq
    tag := field 4 % 256
    use := 0
    opcode := opcode
    flags := f
    desc := desc
    d := d
    source := c.thread.treg (field 3 % 8)
    dest := c.thread.treg (bits (field 3) 6 4)
    claims := []
    acks := []
    moved := false
    beats := 0
    check := if f.cmpx then c.uniform d else BitVec.ofNat 32 (field 5)
    pois := false
    unsummed := []
    cancelling := false
    asked := []
    askedAt := []
    writing := false
    carried := []
    round := none
    status := none }

/-- A translation register that the command names waits for its walk (R170). -/
def Ctx.sideBusy (c : Ctx) (x : Command) : Bool :=
  (x.sourceCode < 8 && (c.thread.treg x.sourceCode).busy) || (x.destCode < 8 && (c.thread.treg x.destCode).busy)

/-- The use of its tag that a new command belongs to (R237): a new one when every command of the last has completed. -/
def Thread.tagUse (th : Thread) (tag : Nat) : Nat :=
  let u := findD th.uses tag 0
  if th.cmds.any fun x => x.tag = tag && x.use = u && x.status.isNone then u else u + 1

/-- A command joins its thread, with the words it carries where they are known; completed commands of older uses of its tag are
forgotten. -/
def Thread.record (th : Thread) (x : Command) (words : Option Nat) : Thread :=
  let u := th.tagUse x.tag
  { th with
    cmds := (th.cmds.filter fun y => !(y.tag = x.tag && y.status.isSome && y.use ≠ u)) ++ [{ x with use := u }]
    uses := insert th.uses x.tag u
    copyWords := if th.copyArm.isSome then th.copyWords ++ [(x.seq, words)] else th.copyWords }

/-- Claim the next slot of each ring a command fills; none where one has no slot to claim (R214, R233). -/
def claimAll (s : State) (n : Nat) : List (Nat × Nat) → Option (State × List (Nat × Nat × Nat × Nat))
  | [] => some (s, [])
  | (k, b) :: rest =>
    match s.ringAt k b n with
    | none => none
    | some r =>
      if r.claimable then
        (claimAll (s.modRing k b n fun r => { r with cp := r.plus r.cp 1 }) n rest).map fun x =>
          (x.1, (k, b, n, r.cp) :: x.2)
      else none

/-- Issue a copy command (R227). -/
def Ctx.copy (c : Ctx) (opcode : Nat) (d a : Reg) (f : CopyFlags) (s : State) : State :=
  let x := c.command opcode d a f
  if 16 ≤ c.thread.outstanding.length || c.thread.fenced c.slot setE then c.holdAt .queue s
  else if f.cmpx && c.poison d ≠ 0 then c.consumed c.eff 0 0 s
  else if c.sideBusy x then c.holdAt .operand s
  else if badDescriptor s c x then
    c.stepOn (endCommand (s.modThread c.ref fun th => th.record x (some 0)) c.ref { x with use := c.thread.tagUse x.tag } 0 codeBaddesc)
  else match claimAll s x.ringNumber ((ringBlocks s c x).getD []) with
    | none => c.holdAt .claim s
    | some (s, claims) => c.stepOn (s.modThread c.ref fun th => th.record { x with claims := claims } (x.bytesCarried.map (ceilDiv · 4)))

/-- CPY (R227, R232). -/
def execCpy (d a : Reg) (f : CopyFlags) (s : State) : Host.Outcome State Fault Refusal :=
  perform (.cpy d a f) (fun c s => c.copy 0xB0 d a f s) s

/-- CPY2 (R232). -/
def execCpy2 (d a : Reg) (f : CopyFlags) (s : State) : Host.Outcome State Fault Refusal :=
  perform (.cpy2 d a f) (fun c s => c.copy 0xB1 d a f s) s

/-- CPYX (R232). -/
def execCpyx (d a : Reg) (f : CopyFlags) (s : State) : Host.Outcome State Fault Refusal :=
  perform (.cpyx d a f) (fun c s => c.copy 0xB2 d a f s) s

/-- CPYM (R233). -/
def execCpym (d a : Reg) (f : CopyFlags) (s : State) : Host.Outcome State Fault Refusal :=
  perform (.cpym d a f) (fun c s => c.copy 0xB3 d a f s) s

/-- CPYE (R234). -/
def execCpye (d a : Reg) (f : CopyFlags) (s : State) : Host.Outcome State Fault Refusal :=
  perform (.cpye d a f) (fun c s => c.copy 0xB4 d a f s) s

/-- CPYG (R235). -/
def execCpyg (d a : Reg) (f : CopyFlags) (s : State) : Host.Outcome State Fault Refusal :=
  perform (.cpyg d a f) (fun c s => c.copy 0xB5 d a f s) s

/-- REDX (R236): its contribution leaves the core at a step of its own. -/
def execRedx (d a : Reg) (f : CopyFlags) (s : State) : Host.Outcome State Fault Refusal :=
  perform (.redx d a f) (fun c s => c.copy 0xB6 d a f s) s

/-! ### CWAIT, CSTAT, CCAN and RFILL (R237 to R239) -/

/-- The commands a tag covers (R237). -/
def Thread.covered (th : Thread) (tag : Nat) : List Command :=
  if tag = 0 then th.outstanding else th.cmds.filter fun x => x.tag = tag && x.use = findD th.uses tag 0

/-- The status word of covered commands (R237). -/
def statusOf (xs : List Command) : Word :=
  if xs.isEmpty then BitVec.ofNat 32 codeNotag
  else if xs.any (·.status.isNone) then BitVec.ofNat 32 codePending
  else
    let words := xs.filterMap (·.status)
    match words.find? fun w => w.toNat % 16 ≠ codeOk with
    | some w => w
    | none => words.getLast?.getD 0

/-- What CWAIT covers: what it covered when it first had to wait. -/
def Ctx.waitsFor (c : Ctx) (tag : Nat) : List Command :=
  match c.cur.hold with
  | .cwait ns => c.thread.cmds.filter fun x => ns.contains x.seq
  | _ => c.thread.covered tag

/-- CWAIT (R237). -/
def execCwait (d a : Reg) (s : State) : Host.Outcome State Fault Refusal :=
  perform (.cwait d a) (fun c s =>
    let xs := c.waitsFor ((c.uniform a).toNat % 256)
    if xs.any (·.status.isNone) then c.holdAt (.cwait (xs.map (·.seq))) s
    else c.stepOn (c.putScalar d (statusOf xs).toNat s)) s

/-- CSTAT (R237, R302). -/
def execCstat (d a : Reg) (s : State) : Host.Outcome State Fault Refusal :=
  perform (.cstat d a) (fun c s =>
    if c.launch.det then c.raise .orderDependent c.eff 0 0 s
    else c.stepOn (c.putScalar d (statusOf (c.thread.covered ((c.uniform a).toNat % 256))).toNat s)) s

/-- The beats that lie before the boundary CCAN stops a command at (R238, log 12): of a deterministic launch, the same on every run
(R304), counted from its first beat. -/
def beatsToStop (s : State) (x : CopyAt) : Nat :=
  if ((s.blockAt x.thread.core x.thread.block).map fun b => (s.launchOf b).det).getD false then
    Config.beatsAtStop 0 x.cmd.key - x.cmd.beats
  else Config.beatsAtStop s.tick x.cmd.seq

/-- A command stands before a beat that CCAN keeps from starting: it ends CANCELLED, once a beat in hand has ended (R238). -/
def stopAtBeat (s : State) (t : ThreadRef) (c : Command) : State :=
  if c.asked.isEmpty then stopCommand s t c codeCancelled 0 else setCommand s t { c with cancelling := true }

/-- Cancel one command (R238): it stops at a beat boundary of the implementation's choosing (log 12). A REDX whose
contribution has left, and a command that ends before the boundary, end with their own status; a CPYM does not wait for its
acknowledgements. -/
def cancelCommand (s : State) (t : ThreadRef) (n : Nat) : State :=
  match findCommand s t n with
  | none => s
  | some x =>
    if x.cmd.status.isSome || x.cmd.round.isSome || x.cmd.cancelling then s
    else if x.cmd.moved then endCommand s t x.cmd 0 codeCancelled
    else if x.cmd.opcode = 0xB6 then stopCommand s t x.cmd codeCancelled 0
    else match runCopy s x (beatsToStop s x) with
      | .limit s c | .sent s c => stopAtBeat s t c
      | .finished s c => if c.opcode = 0xB3 then stopCommand s t c codeCancelled 0 else completeCommand s t c
      | .stopped s c code va => stopCommand s t c code va
      | .blocked => stopAtBeat s t x.cmd

/-- CCAN (R238). -/
def execCcan (a : Reg) (s : State) : Host.Outcome State Fault Refusal :=
  perform (.ccan a) (fun c s =>
    c.stepOn (((c.thread.covered ((c.uniform a).toNat % 256)).map (·.seq)).foldl (fun s n => cancelCommand s c.ref n) s)) s

/-- RFILL (R239). -/
def execRfill (a : Reg) (s : State) : Host.Outcome State Fault Refusal :=
  perform (.rfill a) (fun c s =>
    let n := (c.uniform a).toNat % 16
    match c.ring n with
    | .error e => c.ringFault e n 0 s
    | .ok r =>
      if r.post then c.ringFault 7 n 0 s
      else if !c.released then c.holdAt .queue s
      else if !r.claimable then c.holdAt .claim s
      else c.stepOn (s.modRing c.ref.core c.ref.block n fun r => Ring.fill { r with cp := r.plus r.cp 1 } r.cp)) s

end Sys2Proof.Machine
end

