-- ==== Sys2Proof/Machine/Engine.lean ====
section
/-! DEFINITION. What the matrix engine computes (R50 to R57, R60, R122 to R145): weights and activations expanded to exact
values, one exact sum and one rounding per element and step, and each operation's writes, flags and trap for a member. -/

namespace Sys2Proof.Machine
open Sys2Proof

/-! ### Elements (R39, R50 to R53, R127) -/

/-- The floating-point or integer type of a format code of R29 that names one. -/
def fmtTy (code : Nat) : Ty :=
  match code with
  | 0 => .e4m3 | 1 => .e5m2 | 2 => .f16 | 3 => .bf16 | 8 => .e2m1 | 9 => .i8 | 11 => .f64
  | _ => .f32

/-- Element i of packed elements of n bits (R39). -/
def packedAt (bs : List Byte) (n i : Nat) : Nat :=
  if n = 4 then (bs.getD (i / 2) 0).toNat / (if i % 2 = 0 then 1 else 16) % 16 else leAt bs (i * n / 8) (n / 8)

/-- Elements of n bits packed into bytes (R39). -/
def packBytes (n : Nat) (xs : List Nat) : List Byte :=
  if n = 4 then
    (List.range ((xs.length + 1) / 2)).map fun i => BitVec.ofNat 8 (xs.getD (2 * i) 0 % 16 + 16 * (xs.getD (2 * i + 1) 0 % 16))
  else flatten (xs.map (leBytes (n / 8)))

/-- Entry j of a lut16 codebook (R52). -/
def lutEntry (lut : List Word) (j : Nat) : FVal :=
  decodeFloat .bf16 ((lut.getD (j / 2) 0).toNat / (if j % 2 = 0 then 1 else 65536) % 65536)

/-- The value of a weight code, cb2 aside (R127). -/
def weightValue (wf : Nat) (lut : List Word) (x : Nat) : FVal :=
  match wf with
  | 4 => ofInt (signedOf 4 x)
  | 5 => ofInt (x : Int)
  | 6 => lutEntry lut x
  | 9 => ofInt (signedOf 8 x)
  | _ => decodeFloat (fmtTy wf) x

/-- The eight values of a cb2 index (R53): magnitudes are halves. -/
def cb2Values (table : List (Nat × Half)) (idx : Nat) : List FVal :=
  let row := (findD table (idx % 512) 0).toNat
  let neg (e : Nat) : Bool :=
    if e = 7 then ((List.range 7).filter fun k => bit idx (9 + k)).length % 2 = 1 else bit idx (9 + e)
  (List.range 8).map fun e => .fin (neg e) (2 * bits row (2 * e + 1) (2 * e) + 1) (-1)

/-- An element under its E8M1 block scale (R51). A scale of exponent 0xFF gives a NaN that raises invalid where it is used. -/
def scaleBy (code : Nat) (x : FVal) : FVal :=
  let e := bits code 8 1
  if e = 0 then .zero
  else if e = 255 then .nan true
  else match x with
    | .fin neg m k => .fin neg (m * (2 + code % 2)) (k + e - 128)
    | y => y

/-- The block scale at an offset of a region, 1.0 where there is none (R39). -/
def Block.scaleAt (b : Block) (code offset : Nat) : Nat := leNat (b.readRegion code offset 2) % 512

/-- Row i of a step of an A tile, 32 exact values (R122). -/
def rowOfA (b : Block) (af sc tile s i : Nat) : List FVal :=
  let n := weightBits af
  let base := tile + s * strideA af sc
  let bs := b.readRegion 0 (base + i * 4 * n) (4 * n)
  let xs := (List.range 32).map fun k => weightValue af [] (packedAt bs n k)
  if sc = 2 then xs.map (scaleBy (b.scaleAt 0 (base + tileBytesA af + 2 * i))) else xs

/-- Two values kept in one place: their exact sum; a sum that is invalid stays so where it is used (R138, R140). The sign of an exact zero
sum of theirs follows MODE.RND: the model's choice (log 116). -/
def addPlace (rnd : Nat) (x y : FVal) : FVal :=
  let (v, f) := addExact rnd x y
  if f = 0 then v else .nan true

/-- 32 positions of zeros, with values added at positions. The first value at a position stands as it is. -/
def placeAll (rnd : Nat) (xs : List (Nat × FVal)) : List FVal :=
  (List.range 32).map fun k =>
    match xs.filter fun x => x.1 = k with
    | [] => .zero
    | x :: rest => rest.foldl (fun v y => addPlace rnd v y.2) x.2

/-- Column j of a step of a B tile, 32 exact values (R123, R140). -/
def columnOfB (k : Core) (b : Block) (m : EngineMember) (lut : List Word) (rnd s j : Nat) : List FVal :=
  let wf := fmtWf m.fmt
  let sc := fmtSc m.fmt
  let sp := fmtSp m.fmt
  let n := weightBits wf
  let col := columnBytes wf sp
  let base := m.field 1 + s * strideB wf sc sp
  let bs := b.readRegion 2 (base + j * col) col
  let xs : List FVal :=
    if wf = 7 then flatten ((List.range 4).map fun g => cb2Values k.cb2 (leAt bs (2 * g) 2))
    else if sp = 1 then
      let places := leAt bs (2 * n) 4
      placeAll rnd ((List.range 16).map fun q =>
        (4 * (q / 2) + bits places (2 * q + 1) (2 * q), weightValue wf lut (packedAt bs n q)))
    else (List.range 32).map fun i => weightValue wf lut (packedAt bs n i)
  if sc = 2 then xs.map (scaleBy (b.scaleAt 2 (base + 32 * col + 2 * j))) else xs

/-! ### CSR blocks (R138) -/

/-- Row pointer i of a CSR block. -/
def csrRow (b : Block) (block i : Nat) : Nat := leNat (b.readRegion 2 (block + 2 * i) 2)

/-- A CSR block is malformed (R138). -/
def csrMalformed (b : Block) (block : Nat) : Bool :=
  let nnz := csrCount b block
  csrRow b block 0 ≠ 0 || (List.range 32).any (fun i => csrRow b block (i + 1) < csrRow b block i) || 1024 < nnz ||
    (b.readRegion 2 (block + 68) nnz).any fun x => 32 ≤ x.toNat

/-- Column j of the dense step that a CSR block describes (R138). -/
def columnOfCsr (b : Block) (wf rnd block j : Nat) : List FVal :=
  let nnz := csrCount b block
  let idx := b.readRegion 2 (block + 68) nnz
  let n := weightBits wf
  let vals := b.readRegion 2 (block + 68 + 4 * ceilDiv nnz 4) (ceilDiv (nnz * n) 8)
  placeAll rnd (flatten ((List.range 32).map fun k =>
    ((List.range nnz).filter fun e =>
      csrRow b block k ≤ e && e < csrRow b block (k + 1) && (idx.getD e 0).toNat = j).map fun e =>
        (k, weightValue wf [] (packedAt vals n e))))

/-- What the gather unit's check of a whole step table finds first (R138): a cause, its SYND and FAULTVA. The table's words
are taken in step order, and of each block its header's place, its count, its whole extent and then its pointers and
indices, as far as each can be read; FAULTVA of what lies outside WB is its first byte (DESIGN CHOICE, log 94). -/
def tableFault (b : Block) (size wf table steps : Nat) : Option (Cause × Nat × Nat) :=
  let outside (o : Nat) : Option (Cause × Nat × Nat) := some (.address, 2, o)
  if !insideRegion size table (4 * steps) then outside table
  else (List.range steps).findSome? fun s =>
    let w := tableWord b table s
    let block := table + w % 2 ^ 20
    if bits w 30 20 ≠ 0 then some (.format, 5, 0)
    else if bit w 31 then none
    else if w % 4 ≠ 0 then some (.format, 5, 0)
    else if !insideRegion size block 68 then outside block
    else if 1024 < csrCount b block then some (.format, 6, 0)
    else if !insideRegion size block (csrBytes wf (csrCount b block)) then outside block
    else if csrMalformed b block then some (.format, 6, 0)
    else none

/-! ### Sums (R57, R60) -/

/-- The exact sum of values with its flags and, for an exact zero, R57's sign. -/
def sumExact (rnd : Nat) (xs : List FVal) : FVal × Flags :=
  let pos := xs.any fun x => x == .inf false
  let neg := xs.any fun x => x == .inf true
  if pos && neg then (.nan false, flagInvalid)
  else if xs.any isNan then (.nan false, flagIf (xs.any isSignalling) flagInvalid)
  else if pos || neg then (.inf neg, 0)
  else
    let e := xs.foldl (fun e x => if isZero x then e else min e (expOf x)) 0
    let total := (xs.map fun x => if isZero x then 0 else scaledAt x e).sum
    let negZeros := xs.all fun x => isZero x && isNeg x
    let posZeros := xs.all fun x => isZero x && !isNeg x
    (ofSigned total e (if negZeros then true else if posZeros then false else rnd = 2), 0)

/-- How a matrix operation rounds: MODE.RND, and R44's row for MODE.SAT; subnormals are honoured (R45, R57). -/
def engineRounding (m : Half) : Rounding := ⟨modeRnd m, modeSat m, false⟩

/-- How an operation that ignores MODE.RND rounds: nearest-even, with R44's row for MODE.SAT (R43, R60). -/
def evenRounding (m : Half) : Rounding := ⟨0, modeSat m, false⟩

/-- One element after one step (R57): the accumulator's bits, and the flags raised. -/
def accumulate (acc : Nat) (r : Rounding) (c : Nat) (a w : List FVal) : Nat × Flags :=
  if acc = 1 then
    (wrapTo 32 (signedOf 32 c + (List.zipWith (fun x y => scaledAt x 0 * scaledAt y 0) a w).sum), 0)
  else
    let t : Ty := if acc = 2 then .f64 else .f32
    let ps := List.zipWith mulExact a w
    let (s, f) := sumExact r.rnd (decodeFloat t c :: ps.map (·.1))
    let (y, g) := writeFloat t r s
    (y, ps.foldl (fun f p => f ||| p.2) (f ||| g))

/-- One row sum after one step (R60). -/
def addRow (r : Rounding) (s : Nat) (a : List FVal) : Nat × Flags :=
  let (x, f) := sumExact r.rnd (decodeFloat .f32 s :: a)
  let (y, g) := writeFloat .f32 r x
  (y, f ||| g)

/-! ### Results -/

/-- A trap of an operation: cause, SYND, UNIT, TILEXY and FAULTVA. -/
structure EngineTrap where
  cause : Cause
  synd : Nat := 0
  unit : Nat := 0
  tile : Nat := 0
  va : Nat := 0
  deriving DecidableEq, Repr

/-- What an operation leaves for one member: bytes to write (buffer code, offset), flags, and a trap. -/
structure EngineResult where
  writes : List (Nat × Nat × List Byte)
  flags : Flags
  trap : Option EngineTrap
  deriving DecidableEq, Repr

/-- Nothing written. -/
def failedResult (t : EngineTrap) : EngineResult := ⟨[], 0, some t⟩

/-- A failed check of an engine unit: STEP 0, LANE 0, element (0, 0) (R129, R358, R364). -/
def checkTrap (unit quad : Nat) : EngineTrap := { cause := .pipeline, synd := 64 * quad, unit := unit }

/-- The trap of a consumed sector (R129, R359). -/
def poisonTrap : EngineTrap := { cause := .uncorrectable }

/-- Some byte of a span lies in a poisoned sector. -/
def Block.spanPoison (b : Block) (x : Span) : Bool := x.size ≠ 0 && b.regionPoison x.code x.offset x.size

/-- Words of 32 bits in a region. -/
def Block.readWords (b : Block) (code offset n : Nat) : List Nat :=
  let bs := b.readRegion code offset (4 * n)
  (List.range n).map fun i => leAt bs (4 * i) 4

/-- An operation whose every byte is read before any is written: a check failure or poison leaves everything as it was. -/
def wholeOperation (b : Block) (m : EngineMember) (quad : Nat) (f : Footprint) (r : EngineResult) : EngineResult :=
  if m.failEngine then failedResult (checkTrap 9 quad)
  else if f.reads.any b.spanPoison then failedResult poisonTrap
  else r

/-! ### MMA, MMAZ and MMAS (R128, R129, R139) -/

/-- Whether step s is skipped: an all-zero step of an MMAS (R138). -/
def stepSkipped (b : Block) (opcode : Nat) (m : EngineMember) (s : Nat) : Bool :=
  opcode = 0x92 && bit (tableWord b (m.field 1) s) 31

/-- What step s of a member reads besides the step table. -/
def stepReads (b : Block) (opcode : Nat) (m : EngineMember) (s : Nat) : List Span :=
  let skip := stepSkipped b opcode m s
  let af := fmtAf m.fmt
  let sc := fmtSc m.fmt
  let wf := fmtWf m.fmt
  let a : Span := ⟨0, m.field 0 + s * strideA af sc, strideA af sc⟩
  let first := !skip && (List.range s).all (stepSkipped b opcode m)
  (if skip && !m.rowsum then [] else [a]) ++
  (if skip then []
    else if opcode = 0x92 then
      let block := m.field 1 + tableWord b (m.field 1) s % 2 ^ 20
      [⟨2, block, csrBytes wf (csrCount b block)⟩]
    else [⟨2, m.field 1 + s * strideB wf sc (fmtSp m.fmt), strideB wf sc (fmtSp m.fmt)⟩]) ++
  (if first && opcode ≠ 0x91 then [⟨1, m.field 2, tileBytesC (fmtAcc m.fmt) false⟩] else []) ++
  (if s = 0 && m.rowsum && opcode ≠ 0x91 then [⟨1, m.field 2 + 4096, 128⟩] else [])

/-- The gather unit consumes poison as it reads an MMAS's step table, before its first step (R138, R359). A poisoned header, pointer or
index of a CSR block is consumed at that block's own step (`stepReads`): the model's choice (log 94). -/
def tablePoison (b : Block) (op : EngineOp) : Bool :=
  op.opcode = 0x92 && op.members.any fun m => b.spanPoison ⟨2, m.field 1, 4 * m.steps⟩

/-- The first step at which some member consumes poison; every member consumes it (R129, R359). -/
def poisonStep (b : Block) (op : EngineOp) (steps : Nat) : Nat :=
  ((List.range steps).find? fun s =>
    (s = 0 && tablePoison b op) || op.members.any fun m => (stepReads b op.opcode m s).any b.spanPoison).getD steps

/-- The dense columns of step s (R127, R138). The columns of a CSR block carry no block scales, under SC = 2 either: its
layout has no place for them (DESIGN CHOICE, log 94). -/
def columnsOf (k : Core) (b : Block) (opcode : Nat) (m : EngineMember) (lut : List Word) (rnd s : Nat) : List (List FVal) :=
  (List.range 32).map fun j =>
    if opcode = 0x92 then columnOfCsr b (fmtWf m.fmt) rnd (m.field 1 + tableWord b (m.field 1) s % 2 ^ 20) j
    else columnOfB k b m lut rnd s j

/-- One step of a tile: its accumulators row by row, and the flags. -/
def stepTile (acc : Nat) (r : Rounding) (rows cols : List (List FVal)) (c : List (List Nat)) : List (List Nat) × Flags :=
  let xs := List.zipWith (fun a crow => List.zipWith (fun w x => accumulate acc r x a w) cols crow) rows c
  (xs.map fun r => r.map (·.1), xs.foldl (fun f r => r.foldl (fun f x => f ||| x.2) f) 0)

/-- A member's tile and row sums as `n` steps from step s on leave them (R128). -/
def runSteps (k : Core) (b : Block) (opcode : Nat) (m : EngineMember) (lut : List Word) (r : Rounding) :
    (n s : Nat) → List (List Nat) → List Nat → Flags → List (List Nat) × List Nat × Flags
  | 0, _, c, sums, f => (c, sums, f)
  | n + 1, s, c, sums, f =>
    let rows := (List.range 32).map (rowOfA b (fmtAf m.fmt) (fmtSc m.fmt) (m.field 0) s)
    let (c', g) :=
      if stepSkipped b opcode m s then (c, 0)
      else stepTile (fmtAcc m.fmt) r rows (columnsOf k b opcode m lut r.rnd s) c
    let rs := if m.rowsum then List.zipWith (addRow r) sums rows else sums.map fun x => (x, 0)
    runSteps k b opcode m lut r n (s + 1) c' (rs.map (·.1)) (rs.foldl (fun f x => f ||| x.2) (f ||| g))

/-- The tile and row sums a member starts from: +0 under MMAZ. -/
def startTile (b : Block) (opcode : Nat) (m : EngineMember) : List (List Nat) × List Nat :=
  let w := if fmtAcc m.fmt = 2 then 8 else 4
  if opcode = 0x91 then (List.replicate 32 (List.replicate 32 0), List.replicate 32 0)
  else
    ((List.range 32).map fun i =>
      let bs := b.readRegion 1 (m.field 2 + 32 * w * i) (32 * w)
      (List.range 32).map fun j => leAt bs (w * j) w,
     if m.rowsum then b.readWords 1 (m.field 2 + 4096) 32 else List.replicate 32 0)

/-- A member's part of an MMA, MMAZ or MMAS that runs its first `n` steps. -/
def mmaResult (k : Core) (b : Block) (op : EngineOp) (m : EngineMember) (lut : List Word) (n : Nat) : EngineResult :=
  let w := if fmtAcc m.fmt = 2 then 8 else 4
  let (c, sums) := startTile b op.opcode m
  let (c, sums, f) := runSteps k b op.opcode m lut (engineRounding m.mode) n 0 c sums 0
  let written := op.opcode = 0x91 || !(List.range n).all (stepSkipped b op.opcode m)
  { writes :=
      if n = 0 then []
      else
        (if written then [(1, m.field 2, flatten (c.map fun r => flatten (r.map (leBytes w))))] else []) ++
        (if m.rowsum then [(1, m.field 2 + 4096, flatten (sums.map (leBytes 4)))] else [])
    flags := f
    trap := if n < m.steps then some poisonTrap else none }

/-- The codebook of an operation: that of the gang's leader, the lowest wave, or of the one member (R127). -/
def leaderLut (op : EngineOp) : List Word :=
  match op.members with
  | [] => []
  | m :: rest => (rest.foldl (fun (x : EngineMember) y => if y.thread.thread < x.thread.thread then y else x) m).lut

/-- An MMA, MMAZ or MMAS in every member (R128 to R132, R139). `quad` is the quadrant of a member. The gather unit checks a
readable step table before the first step, so what it finds comes before a check or poison of a step (R126, R138). -/
def mmaResults (k : Core) (b : Block) (size : Nat) (op : EngineOp) (quad : EngineMember → Nat) : List EngineResult :=
  let lut := leaderLut op
  let gather := op.members.any (·.failWeights)
  let table (m : EngineMember) : Option (Cause × Nat × Nat) :=
    if op.opcode = 0x92 && !tablePoison b op then tableFault b size (fmtWf m.fmt) (m.field 1) m.steps else none
  op.members.map fun m =>
    match table m with
    | some (cause, synd, va) => failedResult { cause := cause, synd := synd, va := va }
    | none =>
      if gather then failedResult (checkTrap 11 (quad m))
      else if m.failEngine then failedResult (checkTrap 9 (quad m))
      else mmaResult k b op m lut (poisonStep b op m.steps)

/-! ### The other operations -/

/-- EPI (R136). -/
def epiResult (b : Block) (m : EngineMember) : EngineResult :=
  let p := b.readWords 1 (m.field 0) 1056
  let scale := b.readWords 1 (m.field 1) 32
  let zero := b.readWords 1 (m.field 2) 32
  let d := b.readWords 1 (m.field 3) 1024
  let at_ (xs : List Nat) (i : Nat) : FVal := decodeFloat .f32 (xs.getD i 0)
  let r := evenRounding m.mode
  let xs := (List.range 1024).map fun n =>
    let i := n / 32
    let j := n % 32
    let (t, f) := rounded .f32 r (fmaExact 0 (negate (at_ zero j)) (at_ p (1024 + i)) (at_ p n))
    let (y, g) := rounded .f32 r (fmaExact 0 (at_ scale j) (decodeFloat .f32 t) (at_ d n))
    (y, f ||| g)
  ⟨[(1, m.field 3, flatten (xs.map fun x => leBytes 4 x.1))], xs.foldl (fun f x => f ||| x.2) 0, none⟩

/-- ROWSUM (R137): a step that consumes poison ends it with the sums of the steps before (R129). -/
def rowsumResult (b : Block) (m : EngineMember) : EngineResult :=
  let af := fmtAf m.fmt
  let sc := fmtSc m.fmt
  let steps := m.field 2 % 256
  let add := bit (m.field 2) 8
  let bad (s : Nat) : Bool :=
    b.spanPoison ⟨0, m.field 0 + s * strideA af sc, strideA af sc⟩ || (s = 0 && add && b.spanPoison ⟨1, m.field 1, 128⟩)
  let n := ((List.range steps).find? bad).getD steps
  let start := if add then b.readWords 1 (m.field 1) 32 else List.replicate 32 0
  let (sums, f) := (List.range n).foldl (fun (acc : List Nat × Flags) s =>
    let rs := List.zipWith (addRow (engineRounding m.mode)) acc.1 ((List.range 32).map (rowOfA b af sc (m.field 0) s))
    (rs.map (·.1), rs.foldl (fun f x => f ||| x.2) acc.2)) (start, 0)
  ⟨if n = 0 then [] else [(1, m.field 1, flatten (sums.map (leBytes 4)))], f, if n < steps then some poisonTrap else none⟩

/-- x ranks above y for CMPR: a NaN above every number, else the larger magnitude (R141). -/
def ranksAbove (x y : FVal) : Bool :=
  if isNan y then false else if isNan x then true else ltFloat (magnitude y) (magnitude x)

/-- The two positions of a group of four that CMPR keeps, ascending (R141). -/
def keptOf (xs : List FVal) : List Nat :=
  let at_ (i : Nat) : FVal := xs.getD i .zero
  let beats (i j : Nat) : Bool := ranksAbove (at_ i) (at_ j) || (!ranksAbove (at_ j) (at_ i) && i < j)
  (List.range 4).filter fun i => ((List.range 4).filter fun j => j ≠ i && beats j i).length < 2

/-- CMPR on one line: 16 values and the metadata word (R140, R141). -/
def compressLine (af : Nat) (line : List Byte) : List Byte :=
  let n := weightBits af
  let raw (i : Nat) : Nat := packedAt line n i
  let kept := flatten ((List.range 8).map fun g =>
    (keptOf ((List.range 4).map fun i => weightValue af [] (raw (4 * g + i)))).map fun i => 4 * g + i)
  let places := ((List.range 16).map fun q => kept.getD q 0 % 4 * 2 ^ (2 * q)).sum
  packBytes n (kept.map raw) ++ leBytes 4 places

/-- CMPR (R141). -/
def cmprResult (b : Block) (m : EngineMember) : EngineResult :=
  let af := fmtAf m.fmt
  let n := 4 * weightBits af
  let lines := m.field 2 % 64
  ⟨[(0, m.field 1, flatten ((List.range lines).map fun i => compressLine af (b.readRegion 0 (m.field 0 + n * i) n)))], 0, none⟩

/-- v ÷ Scale(x), rounded once to a format (R142). -/
def quotientBy (t : Ty) (r : Rounding) (code : Nat) (v : FVal) : Nat × Flags :=
  match v with
  | .fin neg m e =>
    if m = 0 then writeFloat t r v
    else
      let d := 2 + code % 2
      roundFin t r neg (m * 2 ^ 16 / d) (e - 16 - (bits code 8 1 : Nat) + 128) (m * 2 ^ 16 % d ≠ 0)
  | _ => writeFloat t r v

/-- The block scale of a row of f32 patterns (R142). -/
def rowScale (t : Ty) (row : List Nat) : Nat × Flags :=
  let xs := row.map fun x => magnitude (decodeFloat .f32 x)
  blockScale t (if xs.any isNan then .nan false else xs.foldl (fun m x => if ltFloat m x then x else m) .zero)

/-- QACC (R142). -/
def qaccResult (b : Block) (m : EngineMember) : EngineResult :=
  let af := fmtAf m.fmt
  let t := fmtTy af
  let r := engineRounding m.mode
  let scaled := bit (m.field 2) 0
  let rows : List (List Byte × Nat × Flags) := (List.range 32).map fun i =>
    let row := b.readWords 1 (m.field 0 + 128 * i) 32
    let (x, f) := if scaled then rowScale t row else (0x1FF, 0)
    let ys := row.map fun c => if x = 0x1FF then convert .f32 t r c else quotientBy t r x (decodeFloat .f32 c)
    (packBytes (weightBits af) (ys.map (·.1)), x, ys.foldl (fun f y => f ||| y.2) f)
  ⟨[(0, m.field 1, flatten (rows.map (·.1)) ++ (if scaled then flatten (rows.map fun y => leBytes 2 y.2.1) else []))],
    rows.foldl (fun f y => f ||| y.2.2) 0, none⟩

/-- MTRN (R144). -/
def mtrnResult (b : Block) (m : EngineMember) : EngineResult :=
  let w := mtrnBytes m.mode
  let bs := b.readRegion 0 (m.field 0) (1024 * w)
  ⟨[(0, m.field 1, flatten ((List.range 1024).map fun n => (bs.drop (w * (32 * (n % 32) + n / 32))).take w))], 0, none⟩

/-- The results of a matrix operation, member by member (R128 to R145). CBLD's is its read alone. `size` is the block's WB
size. -/
def matrixResults (k : Core) (b : Block) (size : Nat) (op : EngineOp) (quad : EngineMember → Nat) : List EngineResult :=
  let whole (m : EngineMember) (r : EngineResult) : EngineResult :=
    wholeOperation b m (quad m) (matrixFootprint b op.opcode m) r
  match op.opcode with
  | 0x90 | 0x91 | 0x92 => mmaResults k b size op quad
  | 0x93 => op.members.map fun m => whole m (epiResult b m)
  | 0x94 => op.members.map fun m => if m.failEngine then failedResult (checkTrap 9 (quad m)) else rowsumResult b m
  | 0x95 => op.members.map fun m => whole m (cmprResult b m)
  | 0x96 => op.members.map fun m => whole m ⟨[], 0, none⟩
  | 0x97 => op.members.map fun m => whole m (qaccResult b m)
  | 0x98 => op.members.map fun m => whole m ⟨[(1, m.field 0, zeros 4096)], 0, none⟩
  | _ => op.members.map fun m => whole m (mtrnResult b m)

end Sys2Proof.Machine
end

