-- ==== Sys2Proof/Machine/Ladder.lean ====
section
/-! DEFINITION. The ladder accumulator (R240 to R250): the checks of its words at issue, its queue, and what each operation
leaves once its every check has passed. -/

namespace Sys2Proof.Machine
open Sys2Proof

/-! ### Checks at issue (R242) -/

/-- The tiles and vectors an operation names, in operand order: offset, bytes and alignment. -/
def ladderPlaces (opcode : Nat) (o : LadderOp) : List (Nat × Nat × Nat) :=
  match opcode with
  | 0xA0 => let nr := o.field 1 % 32
            [(o.field 0, 4096 * nr, 128), (o.field 2, 4 * nr, 4), (o.field 3, 4 * nr, 4)]
  | 0xA1 | 0xA2 | 0xA3 | 0xA4 => [(o.field 0, 4096, 128)]
  | _ => []

/-- The first address that breaks reason 3, as FAULTVA holds it. -/
def ladderPlaceBad (size : Nat) (ps : List (Nat × Nat × Nat)) : Option Nat :=
  ps.findSome? fun (a, n, align) =>
    if a % align ≠ 0 then some a else if insideRegion size a n then none else some (max a size)

/-- Why a ladder word traps: its reason and FAULTVA, in the order 1, 4, 2, 3. -/
def ladderReason (l : Launch) (x : Ladder) (o : LadderOp) : Option (Nat × Nat) :=
  let index := o.field 1
  if l.ladders ≤ o.ladder then some (1, 0)
  else if o.opcode ≠ 0xA0 && !x.defined then some (4, 0)
  else if o.opcode = 0xA0 && (index = 0 || 16 < index) then some (2, 0)
  else if (o.opcode = 0xA3 || o.opcode = 0xA4) && (16 ≤ index || x.nr ≤ index) then some (2, 0)
  else (ladderPlaceBad (l.regionSize 1) (ladderPlaces o.opcode o)).map fun va => (3, va)

/-! ### Issue (R243, R244) -/

/-- The operation of a ladder word as it issues. -/
def Ctx.ladderOp (c : Ctx) (i : Instr) (ladder : Nat) : LadderOp where
  seq := c.core.engineSeq
  thread := c.ref
  opcode := (opcodeOf i).getD 0
  ladder := ladder
  words := flatten ((sourcesOf i).map fun u => (useRegs u c.ty).map c.uniform)
  dest := destOf i
  slot := c.slot
  pc := c.cur.pc
  lanes := c.eff
  mode := c.cur.mode
  depth := c.thread.depth
  wseq := c.seq
  fails := c.thread.armed 10

/-- The word stalls: its path, the queue, a FENCE of the other slot, or one of the wave's own operations (R134, R244). -/
def Ctx.ladderWaits (c : Ctx) (f : Footprint) : Bool :=
  255 ≤ pathCount c.core c.ref c.thread 3 || 8 ≤ c.core.ladderQ.length ||
  c.thread.fenced c.slot ((if f.reads.isEmpty then 0 else setR) + (if f.writes.isEmpty then 0 else setW)) ||
  waitsForEngines c.core c.block c.ref f

/-- A ladder word. -/
def Ctx.ladder (c : Ctx) (i : Instr) (l : BitVec 2) (s : State) : State :=
  let o := c.ladderOp i l.toNat
  let x := ladderAfter c.block c.ref.block o.ladder c.core.ladderQ
  match ladderReason c.launch x o with
  | some (reason, va) => c.raise .address c.eff (BitVec.ofNat 32 (0x61 + 256 * reason + 4096 * o.ladder)) va s
  | none =>
    if c.ladderWaits (ladderFootprint x o) then c.holdAt .queue s
    else
      let s := s.modCore c.ref.core fun k => { k with ladderQ := k.ladderQ ++ [o], engineSeq := k.engineSeq + 1 }
      c.stepOn (s.modThread c.ref fun th => th.disarm (.residue 10))

/-- LDEF (R245). -/
def execLdef (a : Reg) (l : BitVec 2) (s : State) : Host.Outcome State Fault Refusal :=
  perform (.ldef a l) (fun c s => c.ladder (.ldef a l) l s) s

/-- LPUSH (R246). -/
def execLpush (a : Reg) (l : BitVec 2) (s : State) : Host.Outcome State Fault Refusal :=
  perform (.lpush a l) (fun c s => c.ladder (.lpush a l) l s) s

/-- LREAD (R247). -/
def execLread (a : Reg) (l : BitVec 2) (s : State) : Host.Outcome State Fault Refusal :=
  perform (.lread a l) (fun c s => c.ladder (.lread a l) l s) s

/-- LRUNG (R248). -/
def execLrung (d a : Reg) (l : BitVec 2) (s : State) : Host.Outcome State Fault Refusal :=
  perform (.lrung d a l) (fun c s => c.ladder (.lrung d a l) l s) s

/-- LSETR (R248). -/
def execLsetr (a : Reg) (l : BitVec 2) (s : State) : Host.Outcome State Fault Refusal :=
  perform (.lsetr a l) (fun c s => c.ladder (.lsetr a l) l s) s

/-- LSTEP (R249). -/
def execLstep (d : Reg) (l : BitVec 2) (s : State) : Host.Outcome State Fault Refusal :=
  perform (.lstep d l) (fun c s => c.ladder (.lstep d l) l s) s

/-- LSTEPW (R249). -/
def execLstepw (a : Reg) (l : BitVec 2) (s : State) : Host.Outcome State Fault Refusal :=
  perform (.lstepw a l) (fun c s => c.ladder (.lstepw a l) l s) s

/-- LCLR (R249). -/
def execLclr (l : BitVec 2) (s : State) : Host.Outcome State Fault Refusal :=
  perform (.lclr l) (fun c s => c.ladder (.lclr l) l s) s

/-! ### Results (R246 to R249) -/

/-- An f32 pattern as an exact value. -/
def f32Of (x : Nat) : FVal := decodeFloat .f32 x

/-- Element by element, factor × rung + tile, each rounded to nearest-even (R243), with R44's row for MODE.SAT. -/
def fmaTile (m : Half) (factor : Nat) (rung tile : List Nat) : List Nat × Flags :=
  let xs := List.zipWith (fun r t => rounded .f32 (evenRounding m) (fmaExact 0 (f32Of factor) (f32Of r) (f32Of t))) rung tile
  (xs.map (·.1), xs.foldl (fun f x => f ||| x.2) 0)

/-- What an operation leaves. -/
structure LadderResult where
  writes : List (Nat × Nat × List Byte)
  ladder : Ladder
  dest : Option Nat
  flags : Flags
  trap : Option EngineTrap
  deriving DecidableEq, Repr

/-- LPUSH: the tile written, its rung and the flags (R246). -/
def pushTile (b : Block) (m : Half) (x : Ladder) (tile : List Nat) : List Nat × Flags :=
  let decay := b.readWords 1 x.dec x.nr
  let rungs := (List.range x.pushRung) ++ (if x.occupied x.pushRung then [x.pushRung] else [])
  rungs.foldl (fun (t : List Nat × Flags) k =>
    let (y, f) := fmaTile m (decay.getD k 0) (b.readWords 1 (x.rung k) 1024) t.1
    (y, t.2 ||| f)) (tile, 0)

/-- LREAD: the blend and the flags (R247). -/
def blendTile (b : Block) (m : Half) (x : Ladder) : List Nat × Flags :=
  let weights := b.readWords 1 x.wgt x.nr
  x.rungs.foldl (fun (t : List Nat × Flags) k =>
    let (y, f) := fmaTile m (weights.getD k 0) (b.readWords 1 (x.rung k) 1024) t.1
    (y, t.2 ||| f)) (List.replicate 1024 0, 0)

/-- The bytes of words. -/
def wordBytes (xs : List Nat) : List Byte := flatten (xs.map (leBytes 4))

/-- An operation on its ladder as it stands (R245 to R249). -/
def ladderEffect (b : Block) (x : Ladder) (o : LadderOp) : LadderResult :=
  let y := o.leaves x
  match o.opcode with
  | 0xA1 =>
    let (t, f) := pushTile b o.mode x (b.readWords 1 (o.field 0) 1024)
    ⟨[(1, x.rung x.pushRung, wordBytes t)], y, none, f, none⟩
  | 0xA2 =>
    let (t, f) := blendTile b o.mode x
    ⟨[(1, o.field 0, wordBytes t)], y, none, f, none⟩
  | 0xA3 =>
    ⟨[(1, o.field 0, b.readRegion 1 (x.rung (o.field 1)) 4096)], y, some (boolNat (x.occupied (o.field 1))), 0, none⟩
  | 0xA4 => ⟨[(1, x.rung (o.field 1), b.readRegion 1 (o.field 0) 4096)], y, none, 0, none⟩
  | 0xA5 => ⟨[], y, some x.n, 0, none⟩
  | _ => ⟨[], y, none, 0, none⟩

/-- The result of an operation: a failed check or poison leaves everything as it was (R243). -/
def ladderResult (b : Block) (o : LadderOp) (quad : Nat) : LadderResult :=
  let x := findD b.ladders o.ladder freshLadder
  if o.fails then ⟨[], x, none, 0, some (checkTrap 10 quad)⟩
  else if (ladderFootprint x o).reads.any b.spanPoison then ⟨[], x, none, 0, some poisonTrap⟩
  else ladderEffect b x o

end Sys2Proof.Machine
end

