-- ==== Sys2Proof/Machine/Matrix.lean ====
section
/-! DEFINITION. Issuing matrix instructions (R119 to R145): the checks of R126 in their order, what an instruction reads at
issue, the rendezvous latch, and the engine's queue. -/

namespace Sys2Proof.Machine
open Sys2Proof

/-! ### Checks (R121, R125, R126) -/

/-- A combination that R125 lists. -/
def legalFormats (wf af acc sc sp : Nat) : Bool :=
  let small := af = 0 || af = 1
  let half := af = 2 || af = 3
  match wf with
  | 0 | 1 => acc = 0 && sp ≤ 1 && ((small && (sc = 0 || sc = 2)) || (half && sc = 0))
  | 2 | 3 => half && acc = 0 && sc = 0 && sp ≤ 1
  | 4 | 5 => sp = 0 && (((small || half) && acc = 0 && sc ≤ 1) || (af = 9 && acc = 1 && sc = 0))
  | 6 | 7 => (small || half) && acc = 0 && sc ≤ 1 && sp = 0
  | 8 => (af = 8 || small) && acc = 0 && sc = 2 && sp = 0
  | 9 => af = 9 && acc = 1 && sc = 0 && sp ≤ 1
  | 10 => af = 10 && acc = 0 && sc = 0 && sp = 0
  | 11 => af = 11 && acc = 2 && sc = 0 && sp = 0
  | _ => false

/-- A format that MMAS takes besides (R125). -/
def sparseFormats (wf sp : Nat) : Bool := sp = 0 && (wf ≤ 3 || wf = 9)

/-- Why FMT stops an instruction: SYND 1 to 4 of R126. -/
def formatReason (k : Core) (regs opcode : Nat) (f : Word) (rowsum : Bool) : Option Nat :=
  let wf := fmtWf f
  let af := fmtAf f
  let acc := fmtAcc f
  let sc := fmtSc f
  let sp := fmtSp f
  match opcode with
  | 0x90 | 0x91 | 0x92 =>
    if wfReserved wf || afReserved af || acc = 3 || sc = 3 || 2 ≤ sp then some 1
    else if !legalFormats wf af acc sc sp || (rowsum && acc ≠ 0) || (opcode = 0x92 && !sparseFormats wf sp) then some 2
    else if wf = 6 && regs ≤ fmtLutr f then some 3
    else if wf = 7 && !k.cb2Loaded then some 4
    else none
  | 0x93 => if acc = 3 then some 1 else if acc ≠ 0 then some 2 else none
  | 0x94 => if afReserved af || sc = 3 then some 1 else none
  | 0x95 => if afReserved af then some 1 else if af ≤ 3 || af = 9 then none else some 2
  | 0x97 => if afReserved af then some 1 else if af ≤ 1 || af = 8 then none else some 2
  | _ => none

/-- A descriptor field is out of range, or an MBZ bit of it is set: SYND 5 of R126. -/
def fieldsBad (opcode : Nat) (m : EngineMember) : Bool :=
  let z := m.field 2
  match opcode with
  | 0x90 | 0x91 | 0x92 => m.steps = 0 || 512 ≤ m.field 3
  | 0x94 => z % 256 = 0 || 512 ≤ z
  | 0x95 => z = 0 || 32 < z
  | 0x97 => 2 ≤ z
  | _ => false

/-- The buffer addresses of a descriptor with the bytes each names and its alignment (R121). The gather unit checks the extent
of a step table (R138). -/
def placesOf (opcode : Nat) (m : EngineMember) : List (Span × Nat) :=
  let f := m.field
  let af := fmtAf m.fmt
  let sc := fmtSc m.fmt
  let lines := f 2 % 64
  match opcode with
  | 0x90 | 0x91 | 0x92 =>
    [(⟨0, f 0, m.steps * strideA af sc⟩, 64),
     (⟨2, f 1, if opcode = 0x92 then 0 else m.steps * strideB (fmtWf m.fmt) sc (fmtSp m.fmt)⟩, 64),
     (⟨1, f 2, tileBytesC (fmtAcc m.fmt) m.rowsum⟩, 128)]
  | 0x93 => [(⟨1, f 0, 4224⟩, 128), (⟨1, f 1, 128⟩, 4), (⟨1, f 2, 128⟩, 4), (⟨1, f 3, 4096⟩, 128)]
  | 0x94 => [(⟨0, f 0, f 2 % 256 * strideA af sc⟩, 64), (⟨1, f 1, 128⟩, 4)]
  | 0x95 => [(⟨0, f 0, lines * 4 * weightBits af⟩, 64), (⟨0, f 1, lines * (2 * weightBits af + 4)⟩, 64)]
  | 0x96 => [(⟨3, f 0, 1024⟩, 64)]
  | 0x97 => [(⟨1, f 0, 4096⟩, 128), (⟨0, f 1, tileBytesA af + (if bit (f 2) 0 then 64 else 0)⟩, 64)]
  | 0x98 => [(⟨1, f 0, 4096⟩, 128)]
  | _ => [(⟨0, f 0, 1024 * mtrnBytes m.mode⟩, 64), (⟨0, f 1, 1024 * mtrnBytes m.mode⟩, 64)]

/-- The first address that breaks R121, in the order of the descriptor (log 94). -/
def placeBad (l : Launch) (opcode : Nat) (m : EngineMember) : Option Span :=
  ((placesOf opcode m).find? fun (x, align) =>
    x.offset % align ≠ 0 || (!(opcode = 0x92 && x.code = 2) && !insideRegion (l.regionSize x.code) x.offset x.size)).map
      (·.1)

/-! ### What an instruction reads at issue (R120) -/

/-- The codebook register of a weight format lut16 (R52). -/
def Ctx.lutReg (c : Ctx) : Option Reg :=
  let n := fmtLutr c.cur.fmt
  if h : n < 192 then some (.v ⟨n, h⟩) else none

/-- The instruction reads the codebook. -/
def readsLut (opcode : Nat) (f : Word) : Bool := (opcode = 0x90 || opcode = 0x91 || opcode = 0x92) && fmtWf f = 6

/-- One wave's part of an instruction, as it stands at issue; of a gang instruction, as it stands at its arrival (log 39). -/
def Ctx.member (c : Ctx) (opcode : Nat) (i : Instr) : EngineMember where
  thread := c.ref
  desc := flatten ((sourcesOf i).map fun u => (useRegs u c.ty).map c.uniform)
  fmt := c.cur.fmt
  mode := c.cur.mode
  lut := match (if readsLut opcode c.cur.fmt then c.lutReg else none) with
    | some r => lanes.map fun l => BitVec.ofNat 32 (c.reg r l)
    | none => []
  pc := c.cur.pc
  lanes := c.eff
  depth := c.thread.depth
  seq := c.seq
  failEngine := false
  failWeights := false

/-- The codebook register is not ready: a load or a pending entry still writes it. -/
def Ctx.lutWaits (c : Ctx) (r : Reg) : Bool :=
  (pendingRegs c.core c.ref c.thread c.slot).contains r || boundPending c.core c.thread r

/-- The codebook register is bound to a DEAD entry whose readers trap (R76). -/
def Ctx.lutDead (c : Ctx) (r : Reg) : Bool :=
  ((find c.thread.bound (regNum r)).bind (find c.core.entries)).any fun x => x.state == .dead && x.traps

/-! ### The engine's queue (R133) -/

/-- Take the armed checks of the units an instruction uses (R364): unit 9, and unit 11 where it expands weights. -/
def armMember (opcode : Nat) (th : Thread) (m : EngineMember) : Thread × EngineMember :=
  let weights := opcode ≤ 0x92
  ((if weights then (th.disarm (.residue 9)).disarm (.residue 11) else th.disarm (.residue 9)),
   { m with failEngine := th.armed 9, failWeights := weights && th.armed 11 })

/-- The operation enters the queue for its members, all at one issue number. -/
def enterEngine (s : State) (core opcode : Nat) (ms : List EngineMember) : State :=
  let n := (s.coreAt core).engineSeq
  let (s, ms) := ms.foldl (fun (acc : State × List EngineMember) m =>
    match acc.1.threadAt m.thread with
    | none => acc
    | some th =>
      let (th', m') := armMember opcode th { m with seq := s.seq }
      (acc.1.modThread m.thread fun _ => th', acc.2 ++ [m'])) (s, [])
  let s := { s with seq := s.seq + 1 }
  s.modCore core fun k =>
    { k with engine := k.engine ++ [{ seq := n, opcode := opcode, members := ms }], engineSeq := n + 1 }

/-- The queue is full. -/
def engineFull (k : Core) : Bool := 8 ≤ k.engine.length

/-! ### The rendezvous latch (R130, R131) -/

/-- Two arrivals agree in what R130 compares. -/
def agree (a b : Arrival) : Bool :=
  a.opcode = b.opcode && a.member.field 1 = b.member.field 1 && a.member.steps = b.member.steps &&
  a.member.fmt = b.member.fmt && modeRnd a.member.mode = modeRnd b.member.mode && a.gang = b.gang

/-- The C tile of a member with its row sums. -/
def tileSpan (m : EngineMember) : Span := ⟨1, m.field 2, tileBytesC (fmtAcc m.fmt) m.rowsum⟩

/-- No two C tiles of a list share a byte. -/
def tilesApart : List EngineMember → Bool
  | [] => true
  | m :: rest => rest.all (fun x => !(tileSpan m).meets (tileSpan x)) && tilesApart rest

/-- Arrivals of one block, the lowest wave first. -/
def byWave (as : List Arrival) : List Arrival :=
  (List.range 32).filterMap fun w => as.find? fun a => a.member.thread.thread = w

/-- A gang instruction arrives at the latch: it traps, is held, or releases the gang. -/
def Ctx.arriveLatch (c : Ctx) (opcode : Nat) (m : EngineMember) (s : State) : State :=
  let gang := c.thread.gang
  let mine : Arrival := { slot := c.slot, gang := gang, opcode := opcode, member := m }
  let held := (s.coreAt c.ref.core).arrivals.filter fun a => a.member.thread.block = c.ref.block
  let me := c.ref.thread
  let odd := held.filter fun a => a.gang ≠ gang && (hasLane gang a.member.thread.thread || hasLane a.gang me)
  if !hasLane gang me || (lanesOf gang).any (waveGone c.block) then c.raise .gang c.eff 0 0 s
  else if !odd.isEmpty then
    c.raise .gang c.eff 0 0
      ((held.filter fun a => a.gang = gang || odd.any fun o => o.gang = a.gang).foldl trapArrival s)
  else
    let same := held.filter fun a => a.gang = gang
    let all := byWave (mine :: same)
    if (lanesOf gang).all fun w => all.any fun a => a.member.thread.thread = w then
      if engineFull (s.coreAt c.ref.core) then c.holdAt .queue s
      else if all.all (agree mine) && tilesApart (all.map (·.member)) then
        let s := s.modCore c.ref.core fun k => { k with arrivals := k.arrivals.filter fun a => !same.contains a }
        let s := enterEngine s c.ref.core opcode (all.map (·.member))
        c.stepOn (same.foldl (fun s a => releaseLatch s a.member.thread a.member.depth) s)
      else c.raise .gang c.eff 0 0 (same.foldl trapArrival s)
    else c.holdAt .latch (s.modCore c.ref.core fun k => { k with arrivals := k.arrivals ++ [mine] })

/-! ### Issue -/

/-- The access sets an operation counts in (R135). -/
def footprintSets (f : Footprint) : Nat := (if f.reads.isEmpty then 0 else setR) + (if f.writes.isEmpty then 0 else setW)

/-- The instruction stalls: its path, the queue, an arrival of the wave that the latch holds, a FENCE of the other slot, or one of the
wave's own operations (R130, R133, R134, R196, R209). R130 speaks of the other slot alone; a handler's matrix instruction waits behind
the arrival of a slot that the trap has suspended as well: the model's choice (log 103). -/
def Ctx.matrixWaits (c : Ctx) (opcode : Nat) (m : EngineMember) : Bool :=
  let f := matrixFootprint c.block opcode m
  255 ≤ pathCount c.core c.ref c.thread 2 || engineFull c.core ||
  (c.core.arrivals.any fun a => a.member.thread = c.ref) || c.thread.fenced c.slot (footprintSets f) ||
  waitsForEngines c.core c.block c.ref f

/-- The trap of a failed check of R126. -/
def Ctx.formatTrap (c : Ctx) (reason : Nat) (s : State) : State := c.raise .format c.eff (BitVec.ofNat 32 reason) 0 s

/-- A CBLD of the wave is still queued: whether the table is loaded is known once it has completed (R36, R54). -/
def Ctx.tableComing (c : Ctx) : Bool := c.core.engine.any fun e => e.opcode = 0x96 && e.members.any fun m => m.thread = c.ref

/-- Once its checks pass, the instruction waits, arrives at the latch, or enters the queue. -/
def Ctx.enterMatrix (c : Ctx) (opcode : Nat) (m : EngineMember) (s : State) : State :=
  if c.matrixWaits opcode m then c.holdAt .queue s
  else if opcode ≤ 0x92 && c.thread.gang ≠ 0 then c.arriveLatch opcode m s
  else c.stepOn (enterEngine s c.ref.core opcode [m])

/-- The codebook is a source: it is scoreboarded, traps and carries poison like any other (R52, R76, R359). Poison in any lane of the
register is consumed, by each member for its own register (log 39). -/
def Ctx.withLut (c : Ctx) (opcode : Nat) (body : State → State) (s : State) : State :=
  match (if readsLut opcode c.cur.fmt then c.lutReg else none) with
  | none => body s
  | some r =>
    if c.lutWaits r then c.holdAt .operand s
    else if c.lutDead r then c.raise .storePoison c.eff 0 0 s
    else if c.poison r ≠ 0 then c.consumed c.eff 0 0 s
    else body s

/-- A matrix instruction (R120, R126). -/
def Ctx.matrix (c : Ctx) (i : Instr) (s : State) : State :=
  let opcode := (opcodeOf i).getD 0
  let m := c.member opcode i
  match formatReason c.core c.thread.regs opcode c.cur.fmt m.rowsum with
  | some reason => if reason = 4 && c.tableComing then c.holdAt .queue s else c.formatTrap reason s
  | none =>
    if fieldsBad opcode m then c.formatTrap 5 s
    else match placeBad c.launch opcode m with
      | some x => c.raise .address c.eff (BitVec.ofNat 32 x.code) x.offset s
      | none => c.withLut opcode (c.enterMatrix opcode m) s

/-- MMA (R128). -/
def execMma (a : Reg) (s : State) : Host.Outcome State Fault Refusal := perform (.mma a) (fun c s => c.matrix (.mma a) s) s

/-- MMAZ (R128). -/
def execMmaz (a : Reg) (s : State) : Host.Outcome State Fault Refusal :=
  perform (.mmaz a) (fun c s => c.matrix (.mmaz a) s) s

/-- MMAS (R139). -/
def execMmas (a : Reg) (s : State) : Host.Outcome State Fault Refusal :=
  perform (.mmas a) (fun c s => c.matrix (.mmas a) s) s

/-- EPI (R136). -/
def execEpi (a : Reg) (s : State) : Host.Outcome State Fault Refusal := perform (.epi a) (fun c s => c.matrix (.epi a) s) s

/-- ROWSUM (R137). -/
def execRowsum (a : Reg) (s : State) : Host.Outcome State Fault Refusal :=
  perform (.rowsum a) (fun c s => c.matrix (.rowsum a) s) s

/-- CMPR (R141). -/
def execCmpr (a : Reg) (s : State) : Host.Outcome State Fault Refusal :=
  perform (.cmpr a) (fun c s => c.matrix (.cmpr a) s) s

/-- CBLD (R145). -/
def execCbld (a : Reg) (s : State) : Host.Outcome State Fault Refusal :=
  perform (.cbld a) (fun c s => c.matrix (.cbld a) s) s

/-- QACC (R142). -/
def execQacc (a : Reg) (s : State) : Host.Outcome State Fault Refusal :=
  perform (.qacc a) (fun c s => c.matrix (.qacc a) s) s

/-- CLRT (R143). -/
def execClrt (a : Reg) (s : State) : Host.Outcome State Fault Refusal :=
  perform (.clrt a) (fun c s => c.matrix (.clrt a) s) s

/-- MTRN (R144). -/
def execMtrn (a : Reg) (s : State) : Host.Outcome State Fault Refusal :=
  perform (.mtrn a) (fun c s => c.matrix (.mtrn a) s) s

end Sys2Proof.Machine
end

