-- ==== Sys2Proof/Machine/Completions.lean ====
section
/-! DEFINITION. How what is in flight ends: loads, stores, atomics and posts (R178 to R193, R217), matrix and ladder
operations (R120, R129, R243), consumed ring slots (R216) and copies (R227, R229). -/

namespace Sys2Proof.Machine
open Sys2Proof

/-! ### Reports after issue (R129, R243, R351) -/

/-- The lanes that a thread still carries, in its slots, on its stack or suspended by a trap. -/
def Thread.carried (th : Thread) : Word :=
  th.saved.foldl (fun m x => m ||| (x.paths.lanes &&& ~~~x.exited)) th.paths.lanes

/-- A trap found after its word has issued waits for its depth (R129); where the handler that issued the word has returned, it is taken at
the depth the wave is at (log 105). Where the wave has ended, or carries none of its
lanes any more, the block is aborted instead (R129, R351), and a CCP stops (R221). -/
def raiseLate (s : State) (t : ThreadRef) (x : LateTrap) : State :=
  match s.threadAt t, s.blockAt t.core t.block with
  | some th, some b =>
    if th.ccp then stopCcp s t x.info
    else if th.ended || (th.carried &&& x.info.lanes = 0 && !th.spilled (s.launchOf b) b) then
      abortBlock s t x.info.cause x.info.pc
    else s.modThread t fun th => { th with late := th.late ++ [x.lowered th.depth] }
  | _, _ => s

/-- Count a failed check in a core's lifetime record (R366). -/
def countCheck (s : State) (core : Nat) (cause : Cause) : State :=
  if cause = .pipeline then
    s.modCore core fun k => { k with life := { k.life with traps := saturate64 (k.life.traps + 1) } }
  else s

/-! ### Responses during a shift (R323) -/

/-- Entries of 64 bytes that a response takes in a core's FIFO. -/
def fifoEntries (bytes : Nat) : Nat := max 1 (ceilDiv bytes 64)

/-- Entries of a core's FIFO that responses hold. -/
def Core.fifoUsed (k : Core) : Nat := (k.fifo.map (·.2)).sum

/-- A response that reaches a core in a shift enters its FIFO of 128 entries, and has its effect when the shift ends; one that finds
no room stays in the mesh. -/
def respond (core : Nat) (i : Instr) (bytes : Nat) (due : Bool) (s : State) (t : State) : Host.Outcome State Fault Refusal :=
  let k := s.coreAt core
  if k.gear.shift.isSome then
    event (due && k.fifoUsed + fifoEntries bytes ≤ 128)
      (s.modCore core fun k => { k with fifo := k.fifo ++ [(i, fifoEntries bytes)] })
  else event due t

/-- Load responses of a thread that stand in its core's FIFO. -/
def loadsArrived (k : Core) (t : ThreadRef) : Nat :=
  (k.fifo.filter fun x => match x.1 with
    | .loadComplete u _ => u == t
    | _ => false).length

/-! ### Loads (R178, R179) -/

/-- The value a load fills a register with (R168). -/
def loadedValue (size : Nat) (signed : Bool) (bs : List Byte) : Nat :=
  if size < 4 && signed then wrapTo 32 (signedOf (8 * size) (leNat bs)) else leNat bs

/-- The first of some loads in the order of a thread's accesses. -/
def firstLoad (xs : List LoadOp) : Option LoadOp :=
  xs.foldl (fun m x => match m with
    | none => some x
    | some y => if x.order < y.order then some x else some y) none

/-- The load that follows the n that come first. -/
def loadAfter (xs : List LoadOp) : (n : Nat) → Option LoadOp
  | 0 => firstLoad xs
  | n + 1 => (firstLoad xs).bind fun x => loadAfter (xs.filter (· ≠ x)) n

/-- The load of a thread that completes once n more have: the one whose accesses come next among its accesses (R192). -/
def loadNext (th : Thread) (n : Nat) : Option LoadOp := loadAfter (th.loads.filter fun x => !x.accesses.isEmpty) n

/-- A load waits for older atomics of the wave, but a handler's does not wait for one that a page fault keeps in place (R192, R193,
log 92), and for the answers of other modules (R350). -/
def loadWaits (s : State) (th : Thread) (x : LoadOp) : Bool :=
  (th.stores.any fun y => y.atomic.isSome && y.seq < x.order && !(y.waiting ≠ 0 && y.depth < x.depth)) ||
  x.accesses.any fun a => remoteEnd s a = .waiting

/-- What a load reads from other modules is asked for once the load is the wave's next (R192) and no older store of the wave is
still to be performed: a home's answer cannot hold it (log 55). -/
def readsWait (s : State) (th : Thread) (x : LoadOp) : Bool :=
  loadWaits s th x || th.drains.any fun y => y.seq < x.order

/-- What an access finds of an error at its first sector: corrected and counted, or the sector is poisoned (R359, R366). -/
def accessError (s : State) (t : ThreadRef) (space : Space) (xs : List LaneAccess) (ecc : Ecc) : State :=
  match ecc, xs with
  | .clean, _ => s
  | _, [] => s
  | e, a :: _ => match space with
    | .global =>
      if e = .corrected then countEcc s t.core 6
      else match a.parts.filter fun x => isLocal s x.1 with
        | [] => s
        | (p, _) :: _ => poisonSector s (physKey p / 32)
    | x => regionError s t.core t.block (spaceCode x) (a.va / 32 * 32) (e = .uncorrectable)

/-- The bytes of an access and its poison, as the thread sees memory. -/
def readLane (s : State) (t : ThreadRef) (part : Nat) (space : Space) (a : LaneAccess) (n : Nat) : List Byte × Bool :=
  match space with
  | .global => readAll s part a
  | x => readAccess s t part x a n

/-- A region read finds the errors armed for its sectors (R364). -/
def armedReads (s : State) (t : ThreadRef) (space : Space) (xs : List LaneAccess) (n : Nat) : State :=
  match space with
  | .global => s
  | x => fireEcc s t.core t.block (xs.map fun a => ⟨spaceCode x, a.va, n⟩)

/-- The lanes that an access of lane l stands for. -/
def laneMask (shared : Word) (l : Nat) : Word := if shared ≠ 0 then shared else laneBit l

/-- The late traps of accesses whose remote parts did not end well, one for each way they ended (R182, R350, R351). -/
def remoteTraps (xs : List (LaneAccess × RemoteEnd)) (shared : Word) (pc : Word) (seq depth : Nat) : List LateTrap :=
  [RemoteEnd.failed, .sealed, .refused].filterMap fun e =>
    match xs.filter fun x => x.2 = e with
    | [] => none
    | (a, _) :: rest =>
      some (remoteTrap e (((a, e) :: rest).foldl (fun m x => m ||| laneMask shared x.1.lane) 0) (a.va % 2 ^ 56) pc seq depth)

/-- Report late traps in order. -/
def raiseAll (s : State) (t : ThreadRef) (xs : List LateTrap) : State := xs.foldl (fun s x => raiseLate s t x) s

/-- The youngest byte that the wave's own queued stores older than access n give a byte of another module, with its poison: a home does
not know them yet (R178, R191). -/
def Thread.queuedByte (th : Thread) (n addr : Nat) : Option (Byte × Bool) :=
  (th.stores.filter fun x => x.atomic.isNone && x.seq < n && x.space == .global).foldl (fun m x =>
    x.lanes.foldl (fun m y =>
      ((cutBytes y.access.parts y.bytes).find? fun p => decide (p.1 ≤ addr) && decide (addr < p.1 + p.2.length)).elim m fun p =>
        some (p.2.getD (addr - p.1) 0, y.poison)) m) none

/-- Bytes of an access, with those of other modules that the wave's own queued stores have written (R191). -/
def withOwn (s : State) (th : Thread) (n : Nat) (a : LaneAccess) (r : List Byte × Bool) : List Byte × Bool :=
  if !a.isRemote s then r
  else
    let addrs := flatten (a.parts.map fun (p, k) => (List.range k).map (p + ·))
    let own := addrs.map fun p => if isLocal s p then none else th.queuedByte n p
    ((own.zip r.1).map fun (o, b) => (o.map (·.1)).getD b, r.2 || own.any fun o => (o.map (·.2)).getD false)

/-- A load has ended: it leaves the list once every older one has (R179). -/
def Thread.loadEnded (th : Thread) (x : LoadOp) : Thread :=
  ({ th with loads := th.loads.map fun y => if y = x then { y with accesses := [] } else y }).popLoads

/-- The lanes of the destination that an access of lane l fills: one access may stand for all (R178). -/
def LoadOp.fills (x : LoadOp) (l : Nat) : List Nat := if x.shared ≠ 0 && isVec x.dest then lanesOf x.shared else [l]

/-- An ordinary load ends: its lanes are written, poison with them, and lanes whose remote parts failed keep their old
contents (R178, R351, R359). -/
def writeLoad (s : State) (t : ThreadRef) (x : LoadOp) (got : List (LaneAccess × RemoteEnd × List Byte × Bool)) : State :=
  let good := got.filter fun g => g.2.1 = .data
  let vals := flatten (good.map fun g => (x.fills g.1.lane).map fun l => (l, loadedValue x.size x.signed g.2.2.1))
  let pois := maskOf fun l => good.any fun g => (x.fills g.1.lane).contains l && (g.2.2.2 || hasLane x.tainted l)
  let k := s.coreAt t.core
  let s := s.modThread t fun th =>
    (th.atDepth x.depth fun th => th.writeRegs k x.slot (loadRegs x.dest x.size) vals pois).loadEnded x
  raiseAll s t (remoteTraps (got.map fun g => (g.1, g.2.1)) x.shared x.pc x.seq x.depth)

/-- The bytes [off, off + n) of a list of parts. -/
def sliceParts : (parts : List (Nat × Nat)) → (off n : Nat) → List (Nat × Nat)
  | [], _, _ => []
  | (a, k) :: rest, off, n =>
    if n = 0 then []
    else if k ≤ off then sliceParts rest (off - k) n
    else
      let m := min n (k - off)
      (a + off, m) :: sliceParts rest 0 (n - m)

/-- A loaded register of a wave that joined an abandoned LDGK entry loads for itself, from the frames that the producer's
translation found (R72). -/
def loadAfresh (s : State) (w : Waiter) (half : Nat) (x : LoadOp) : State :=
  let size := min x.size 4
  let accesses := x.accesses.map fun a =>
    { a with va := a.va + 4 * half, parts := sliceParts a.parts (4 * half) size, remote := [] }
  if h : w.reg < 192 then
    let op : LoadOp :=
      { x with
        seq := w.seq, dest := .v ⟨w.reg, h⟩, tainted := 0, size := size, accesses := accesses, counted := true,
        entries := [], pc := w.pc, depth := w.depth, order := w.seq }
    s.modThread w.thread fun th =>
      { th with
        bound := remove th.bound w.reg
        loads := (th.loads.filter fun y => y.seq ≤ w.seq) ++ [op] ++ th.loads.filter fun y => w.seq < y.seq }
  else s

/-- One half of an LDGK miss ends: published, or abandoned where a lane is poisoned or `failed`, with the producer's register
private, its failed lanes keeping their old contents, and every other waiter loading afresh (R72, R283, R351). -/
def endEntry (s : State) (t : ThreadRef) (x : LoadOp) (half e : Nat) (words : List Word) (pois failed : Word) : State :=
  let k := s.coreAt t.core
  let n := regNum x.dest + half
  match find k.entries e with
  | none => s
  | some en =>
    if pois = 0 && failed = 0 then s.setCore t.core (publish k e words 0 s.tick)
    else
      let others : List Waiter := match en.comp with
        | some p => p.waiters.filter fun w => w.thread ≠ t || w.seq ≠ x.seq
        | none => []
      let old (l : Nat) : Word := ((s.threadAt t).map fun th => findD th.vregs (n * 32 + l) 0).getD 0
      let s := s.setCore t.core
        (k.abandon e (lanes.map fun l => if hasLane failed l then old l else words.getD l 0) pois true)
      let s := s.modThread t fun th =>
        if find th.bound n = some e then
          ({ th with bound := remove th.bound n }).writeVector k n
            (((lanes.zip words).filter fun (v : Nat × Word) => !hasLane failed v.1).map fun (v : Nat × Word) =>
              (v.1, v.2.toNat)) pois
        else th
      others.foldl (fun s w => match s.threadAt w.thread with
        | some th => if find th.bound w.reg = some e then loadAfresh s w half x else s
        | none => s) s

/-- An LDGK miss ends (R180); lanes whose remote parts failed are reported (R351). -/
def writeKeyed (s : State) (t : ThreadRef) (x : LoadOp) (got : List (LaneAccess × RemoteEnd × List Byte × Bool)) : State :=
  let word (half l : Nat) : Word :=
    match got.find? fun g => (x.fills g.1.lane).contains l && g.2.1 = .data with
    | some g => BitVec.ofNat 32 (if x.size < 4 then loadedValue x.size x.signed g.2.2.1 else leAt g.2.2.1 (4 * half) 4)
    | none => 0
  let pois := maskOf fun l => got.any fun g => (x.fills g.1.lane).contains l && g.2.1 = .data && g.2.2.2
  let failed := maskOf fun l => got.any fun g => (x.fills g.1.lane).contains l && g.2.1 ≠ .data
  let s := s.modThread t fun th => th.loadEnded x
  let s := ((List.range x.entries.length).zip x.entries).foldl (fun s (half, e) => match e with
    | some e => endEntry s t x half e (lanes.map (word half)) pois failed
    | none => s) s
  raiseAll s t (remoteTraps (got.map fun g => (g.1, g.2.1)) x.shared x.pc x.seq x.depth)

/-- A load ends. -/
def endLoad (s : State) (t : ThreadRef) (x : LoadOp) (ecc : Ecc) : State :=
  let part := partOf s t
  let s := armedReads (accessError s t x.space x.accesses ecc) t x.space x.accesses x.size
  let view := ownView s t part x.order
  let th := (s.threadAt t).getD (freshThread false 0 0 0 0 0)
  let got := x.accesses.map fun a => (a, remoteEnd s a, withOwn s th x.order a (readLane view t part x.space a x.size))
  let s := (forgetAnswers s (messagesOf x.accesses)).modThread t fun th =>
    th.returnStores x.order x.space (x.accesses.map fun a => (a.va, x.size))
  let s := if x.space = .global then s.fillCaches t.core x.hint true (flatten (x.accesses.map (·.parts))) else s
  if x.entries.isEmpty then writeLoad s t x got else writeKeyed s t x got

/-- Accesses of a load that reach another module and have not been sent. -/
def unsentReads (s : State) (x : LoadOp) : Bool := x.accesses.any fun a => a.isRemote s && a.remote.isEmpty

/-- LOAD_COMPLETE (R179): a load that reaches other modules first asks them; not while an older load of the wave waits in the FIFO of a
shift, whose own bytes are read at its end (R192, R201). -/
def execLoadComplete (t : ThreadRef) (ecc : Ecc) (s : State) : Host.Outcome State Fault Refusal :=
  match s.threadAt t with
  | none => .refused .notDue
  | some th => match loadNext th (loadsArrived (s.coreAt t.core) t) with
    | none => .refused .notDue
    | some x =>
      if unsentReads s x then
        if readsWait s th x || loadsArrived (s.coreAt t.core) t ≠ 0 then .refused .notDue
        else match sendReads s (partOf s t) x.accesses with
        | none => .refused .notDue
        | some (s, accesses) => .next (s.modThread t fun th =>
            { th with loads := th.loads.map fun y => if y = x then { y with accesses := accesses } else y })
      else respond t.core (.loadComplete t ecc) (x.accesses.length * x.size) (!loadWaits s th x) s (endLoad s t x ecc)

/-! ### Stores (R179, R187, R193) -/

/-- The store-queue entry that drains next: the oldest that can, once every older load of the wave has been performed (R192,
R193). -/
def storeNext (th : Thread) : Option StoreOp :=
  match th.drains with
  | [] => none
  | x :: _ => if th.loads.any (fun y => !y.accesses.isEmpty && y.order < x.seq) then none else some x

/-- A store lane whose frame has been sealed since it issued (R182). -/
def laneSealed (s : State) (a : LaneAccess) : Bool := a.parts.any fun x => frameSealed s x.1

/-- Lanes that reach another module have not been sent yet. -/
def unsent (s : State) (x : StoreOp) : Bool := x.lanes.any fun y => y.access.isRemote s && y.access.remote.isEmpty

/-- Send the remote parts of a store's lanes, ascending; none while one must wait. -/
def sendStore (s : State) (t : ThreadRef) (part : Nat) : List LaneStore → Option (State × List LaneStore)
  | [] => some (s, [])
  | y :: rest =>
    match sendParts s part y.poison (fun _ bs => .write bs) (cutBytes y.access.parts y.bytes) with
    | none => none
    | some (s, ns) => (sendStore s t part rest).map fun r => (r.1, { y with access := { y.access with remote := ns } } :: r.2)

/-- An entry of a store queue with other lanes. -/
def setLanes (s : State) (t : ThreadRef) (x : StoreOp) (ls : List LaneStore) : State :=
  s.modThread t fun th => { th with stores := th.stores.map fun y => if y = x then { y with lanes := ls } else y }

/-- An entry leaves its store queue. -/
def dropStore (s : State) (t : ThreadRef) (x : StoreOp) : State := s.modThread t fun th => th.dropStore x

/-- How a store or atomic lane ended: its remote parts, or a seal of its own frame. -/
def laneEnd (s : State) (a : LaneAccess) : RemoteEnd := if laneSealed s a then .sealed else remoteEnd s a

/-- A store is performed and leaves the queue: lanes that failed write nothing and are reported (R179, R351). -/
def endStore (s : State) (t : ThreadRef) (x : StoreOp) : State :=
  let ends := x.lanes.map fun y => (y.access, laneEnd s y.access)
  let ok := x.lanes.filter fun y => laneEnd s y.access = .data
  let s := forgetAnswers (performLanes s t (partOf s t) x.space ok) (messagesOf (x.lanes.map (·.access)))
  let s := if x.space = .global then s.fillCaches t.core 0 false (flatten (ok.map (·.access.parts))) else s
  raiseAll (dropStore s t x) t (remoteTraps ends x.shared x.pc x.seq x.depth)

/-- The store's answers from other modules have reached the core's FIFO (R323). -/
def storeArrived (k : Core) (t : ThreadRef) : Bool := k.fifo.any fun y => y.1 == .storePerformed t

/-- STORE_PERFORMED (R179): a store that reaches other modules first sends to them, and in a shift their answers wait in the FIFO
(R323). -/
def execStorePerformed (t : ThreadRef) (s : State) : Host.Outcome State Fault Refusal :=
  match (s.threadAt t).bind storeNext with
  | none => .refused .notDue
  | some x =>
    if x.atomic.isSome then .refused .notDue
    else if unsent s x then
      match sendStore s t (partOf s t) x.lanes with
      | none => .refused .notDue
      | some (s, ls) => .next (setLanes s t x ls)
    else if x.lanes.any fun y => y.access.isRemote s then
      respond t.core (.storePerformed t) 0
        (!storeArrived (s.coreAt t.core) t && x.lanes.all fun y => remoteEnd s y.access ≠ .waiting) s (endStore s t x)
    else .next (endStore s t x)

/-! ### Atomics (R184, R185) -/

/-- One lane of an atomic on its own module's memory or on SM: the old value is read, the new one written, and poison is
consumed (R359). -/
def atomicLane (s : State) (t : ThreadRef) (part : Nat) (space : Space) (a : AtomicOp) (y : LaneStore) :
    State × Nat × Bool :=
  let (bs, pois) := readAccess s t part space y.access a.size
  let old := leNat bs
  if pois then (s, old, true)
  else match atomicStores a old (leNat y.bytes) with
    | none => (s, old, false)
    | some new =>
      (performLanes s t part space [{ y with bytes := leBytes a.size new, poison := false }], old, false)

/-- How one lane of an atomic ends: the state, its old value, and its trap if it has one. -/
def atomicEnd (s : State) (t : ThreadRef) (part : Nat) (space : Space) (a : AtomicOp) (y : LaneStore) :
    State × Option Nat × RemoteEnd × Bool :=
  match laneEnd s y.access with
  | .data =>
    match y.access.remote with
    | [] =>
      let (s, old, pois) := atomicLane s t part space a y
      (s, if pois then none else some old, .data, pois)
    | (h, n) :: _ => match answerOf s h n with
      | .reply r => (s, if r.poison then none else some (leNat r.bytes), .data, r.poison)
      | _ => (s, none, .data, false)
  | e => (s, none, e, false)

/-- An atomic is performed, its lanes in ascending order, and leaves the queue (R184). Where the consumption of poison restarts an open
region, the consumer writes nothing: only what other modules have performed stands (R362). -/
def endAtomic (s : State) (t : ThreadRef) (x : StoreOp) (a : AtomicOp) (ecc : Ecc) : State :=
  let part := partOf s t
  let places := x.lanes.map (·.access)
  let s := armedReads (accessError s t x.space places ecc) t x.space places a.size
  let (after, got) := x.lanes.foldl (fun (acc : State × List (LaneAccess × Option Nat × RemoteEnd × Bool)) y =>
    let (s, r) := atomicEnd acc.1 t part x.space a y
    (s, acc.2 ++ [(y.access, r)])) (s, [])
  let rerun := x.depth = 0 && ((s.threadAt t).map restarts).getD false && got.any fun g => g.2.2.2
  let s := forgetAnswers (if rerun then s else after) (messagesOf places)
  let k := s.coreAt t.core
  let vals := if rerun then [] else got.filterMap fun g => g.2.1.map fun v => (g.1.lane, v)
  let s := (dropStore s t x).modThread t fun th => th.atDepth x.depth fun th => th.writeRegs k a.slot (loadRegs a.dest a.size) vals 0
  let eaten := got.foldl (fun m g => if g.2.2.2 then m ||| laneMask x.shared g.1.lane else m) 0
  let s := if eaten = 0 then s
    else raiseLate s t
      { info := { cause := .uncorrectable, lanes := eaten, pc := x.pc, seq := x.seq }, depth := x.depth, atNext := false }
  raiseAll s t (remoteTraps (got.map fun g => (g.1, g.2.2.1)) x.shared x.pc x.seq x.depth)

/-- Send the remote lanes of an atomic; none while one must wait. -/
def sendAtomic (s : State) (t : ThreadRef) (part : Nat) (a : AtomicOp) : List LaneStore → Option (State × List LaneStore)
  | [] => some (s, [])
  | y :: rest =>
    match sendParts s part false (fun _ _ => remoteAtomic a (leNat y.bytes)) (y.access.parts.map fun p => (p.1, zeros p.2)) with
    | none => none
    | some (s, ns) => (sendAtomic s t part a rest).map fun r => (r.1, { y with access := { y.access with remote := ns } } :: r.2)

/-- ATOMIC_COMPLETE (R179, R184): lanes at other modules are first sent to them. -/
def execAtomicComplete (t : ThreadRef) (ecc : Ecc) (s : State) : Host.Outcome State Fault Refusal :=
  match (s.threadAt t).bind storeNext with
  | none => .refused .notDue
  | some x => match x.atomic with
    | none => .refused .notDue
    | some a =>
      if unsent s x then
        match sendAtomic s t (partOf s t) a x.lanes with
        | none => .refused .notDue
        | some (s, ls) => .next (setLanes s t x ls)
      else
        let arrived := (s.coreAt t.core).fifo.any fun y => y.1 == .atomicComplete t ecc
        respond t.core (.atomicComplete t ecc) (x.lanes.length * a.size)
          (!arrived && x.lanes.all fun y => remoteEnd s y.access ≠ .waiting) s (endAtomic s t x a ecc)

/-! ### Posts (R217) -/

/-- A post of the block to the same ring was issued earlier: it is written first (R217). -/
def postsBefore (b : Block) (x : PostOp) : Bool :=
  b.threads.any fun (_, th) => th.posts.any fun y => y.ring = x.ring && y.seq < x.seq

/-- The post of a thread that is written next, with its ring: one whose older R, W and A accesses are performed, which no earlier
post to its ring waits before, and whose ring has a slot to claim (R200, R217). -/
def postNext (k : Core) (b : Block) (t : ThreadRef) (th : Thread) : Option (PostOp × Ring) :=
  match th.posts with
  | [] => none
  | x :: _ =>
    if loadsBefore th x.seq || storesBefore th x.seq false || storesBefore th x.seq true || enginesBefore k t x.seq ||
        postsBefore b x then none
    else match find b.rings x.ring with
      | some r => if r.post && r.claimable then some (x, r) else none
      | none => none

/-- POST_WRITE (R214, R217). -/
def execPostWrite (t : ThreadRef) (s : State) : Host.Outcome State Fault Refusal :=
  match s.threadAt t, s.blockAt t.core t.block with
  | some th, some b => match postNext (s.coreAt t.core) b t th with
    | none => .refused .notDue
    | some (x, r) =>
      let s := s.modBlock t.core t.block fun b => b.writeRegion 3 (r.slotAt r.cp) (leBytes 4 x.word.toNat) false
      let s := s.modRing t.core t.block x.ring fun r => { r with cp := r.plus r.cp 1, wp := r.plus r.wp 1 }
      .next (s.modThread t fun th => { th with posts := th.posts.drop 1 })
  | _, _ => .refused .notDue

/-! ### Matrix and ladder operations (R120, R129, R243, R244) -/

/-- The spans of a store in a block's regions. -/
def storeSpans (x : StoreOp) : List Span :=
  if x.space = .global then [] else x.lanes.map fun y => ⟨spaceCode x.space, y.access.va, y.bytes.length⟩

/-- A wave's accesses older than an operation that it must see performed: its loads, and its queued stores that meet what
the operation touches (R134, R135). -/
def olderAccesses (s : State) (t : ThreadRef) (seq : Nat) (f : Footprint) : Bool :=
  match s.threadAt t with
  | none => false
  | some th =>
    (th.loads.any fun x => !x.accesses.isEmpty && x.seq < seq) ||
    th.stores.any fun x => x.seq < seq && anyMeet (storeSpans x) (f.reads ++ f.writes)

/-- What a matrix operation reads and writes, all members together. -/
def EngineOp.footprint (op : EngineOp) (b : Block) : Footprint :=
  ⟨flatten (op.members.map fun m => (matrixFootprint b op.opcode m).reads),
   flatten (op.members.map fun m => (matrixFootprint b op.opcode m).writes)⟩

/-- The block of an operation's members, as (slot, block). -/
def EngineOp.block (op : EngineOp) (k : Core) : Option (Nat × Block) :=
  op.members.head?.bind fun m => (find k.blocks m.thread.block).map fun b => (m.thread.block, b)

/-- An older queued ladder operation of the block stands in the way (R244). -/
def ladderFirst (k : Core) (b : Block) (block seq : Nat) (f : Footprint) : Bool :=
  k.ladderQ.any fun o => o.seq < seq && o.thread.block = block && (queuedLadder k b o).blocks f

/-- An older queued matrix operation of the block stands in the way (R244). -/
def matrixFirst (k : Core) (b : Block) (block seq : Nat) (f : Footprint) : Bool :=
  k.engine.any fun e => e.seq < seq && e.members.any fun m =>
    m.thread.block = block && (matrixFootprint b e.opcode m).blocks f

/-- The engine trap of a wave's operation (R129, R243, R358). -/
def engineLate (x : EngineTrap) (quad : Nat) (lanes pc : Word) (seq depth : Nat) : LateTrap where
  info :=
    { cause := x.cause, lanes := lanes,
      synd := BitVec.ofNat 32 x.synd ||| (if x.cause = .pipeline then BitVec.ofNat 32 (64 * quad) else 0),
      unit := BitVec.ofNat 32 x.unit, tile := BitVec.ofNat 32 x.tile, va := x.va, pc := pc, seq := seq }
  depth := depth
  atNext := false

/-- Write results into a block's regions. -/
def writeResults (s : State) (core block : Nat) (ws : List (Nat × Nat × List Byte)) : State :=
  ws.foldl (fun s (code, o, bs) => s.modBlock core block fun b => b.writeRegion code o bs false) s

/-- The quadrant of a thread. -/
def quadOf (s : State) (t : ThreadRef) : Nat := ((s.threadAt t).map (·.quad)).getD 0

/-- A member's part of an operation ends: its tile, its flags, its trap. -/
def endMember (s : State) (core : Nat) (m : EngineMember) (r : EngineResult) : State :=
  let s := writeResults s core m.thread.block r.writes
  let s := s.modThread m.thread fun th => th.orFlags r.flags
  match r.trap with
  | none => s
  | some x => raiseLate (countCheck s core x.cause) m.thread (engineLate x (quadOf s m.thread) m.lanes m.pc m.seq m.depth)

/-- CBLD's table: row r from the 16-bit word at its address (R145). -/
def loadTable (s : State) (core : Nat) (b : Block) (m : EngineMember) (r : EngineResult) : State :=
  if r.trap.isSome then s
  else s.modCore core fun k =>
    { k with
      cb2Loaded := true
      cb2 := (List.range 512).foldl (fun t i => put 0 t i (BitVec.ofNat 16 (leNat (b.readRegion 3 (m.field 0 + 2 * i) 2)))) [] }

/-- The engine's oldest operation ends. -/
def endMatrix (s : State) (core : Nat) (op : EngineOp) (block : Nat) (b : Block) : State :=
  let s := fireEcc s core block (op.footprint b).reads
  let b := (s.blockAt core block).getD b
  let rs := matrixResults (s.coreAt core) b ((s.launchOf b).regionSize 2) op fun m => quadOf s m.thread
  let s := s.modCore core fun k => { k with engine := k.engine.drop 1 }
  (op.members.zip rs).foldl (fun s (m, r) =>
    endMember (if op.opcode = 0x96 then loadTable s core b m r else s) core m r) s

/-- The matrix engine's oldest operation may end: the core runs, and what it must follow has been performed. -/
def matrixDue (s : State) (core : Nat) : Option (EngineOp × Nat × Block) :=
  let k := s.coreAt core
  match k.engine with
  | [] => none
  | op :: _ => match op.block k with
    | none => none
    | some (n, b) =>
      let f := op.footprint b
      if !coreRuns s core || ladderFirst k b n op.seq f ||
          op.members.any (fun m => olderAccesses s m.thread m.seq (matrixFootprint b op.opcode m)) then none
      else some (op, n, b)

/-- MATRIX_COMPLETE (R120). -/
def execMatrixComplete (core : Nat) (s : State) : Host.Outcome State Fault Refusal :=
  match matrixDue s core with
  | none => .refused .notDue
  | some (op, n, b) => .next (endMatrix s core op n b)

/-- The ladder unit's oldest operation ends. -/
def endLadder (s : State) (core : Nat) (o : LadderOp) (b : Block) : State :=
  let t := o.thread
  let s := fireEcc s core t.block (queuedLadder (s.coreAt core) b o).reads
  let b := (s.blockAt core t.block).getD b
  let r := ladderResult b o (quadOf s t)
  let k := s.coreAt core
  let s := s.modCore core fun k => { k with ladderQ := k.ladderQ.drop 1 }
  let s := writeResults s core t.block r.writes
  let s := s.modBlock core t.block fun b => { b with ladders := put freshLadder b.ladders o.ladder r.ladder }
  let s := s.modThread t fun th =>
    let th := th.orFlags r.flags
    match o.dest, r.dest with
    | some d, some v => th.atDepth o.depth fun th => th.writeReg k o.slot d [(0, v)] 0
    | _, _ => th
  match r.trap with
  | none => s
  | some x => raiseLate (countCheck s core x.cause) t (engineLate x (quadOf s t) o.lanes o.pc o.wseq o.depth)

/-- The ladder unit's oldest operation may end. -/
def ladderDue (s : State) (core : Nat) : Option (LadderOp × Block) :=
  let k := s.coreAt core
  match k.ladderQ with
  | [] => none
  | o :: _ => match find k.blocks o.thread.block with
    | none => none
    | some b =>
      let f := queuedLadder k b o
      if !coreRuns s core || matrixFirst k b o.thread.block o.seq f || olderAccesses s o.thread o.wseq f then none
      else some (o, b)

/-- LADDER_COMPLETE (R243). -/
def execLadderComplete (core : Nat) (s : State) : Host.Outcome State Fault Refusal :=
  match ladderDue s core with
  | none => .refused .notDue
  | some (o, b) => .next (endLadder s core o b)

/-- A ring's oldest released slot has been fetched by every operation that still had to (R216). -/
def consumedDue (s : State) (core block ring : Nat) : Bool :=
  match (s.ringAt core block ring).map (·.waiting) with
  | some (ns :: _) => !stillReading (s.coreAt core) ns
  | _ => false

/-- OPERANDS_CONSUMED (R216). -/
def execOperandsConsumed (core block ring : Nat) (s : State) : Host.Outcome State Fault Refusal :=
  event (consumedDue s core block ring) (fireConsumed s core block ring)

end Sys2Proof.Machine
end

