-- ==== Sys2Proof/Machine/Walked.lean ====
section
/-! DEFINITION. A translation register as a walk of its base leaves it (R170). -/

namespace Sys2Proof.Machine
open Sys2Proof

/-- A translation register as XLAT's walk leaves it (R170). -/
def TReg.walked (r : TReg) (limit : Nat) (w : WalkResult) : TReg :=
  match w with
  | .leaf e =>
    let o := r.base % 2 ^ e.log
    { r with
      frame := e.frame + o, r := e.r, w := e.w, sealed := e.sealed, tier := e.tier, limit := min limit (2 ^ e.log - o),
      log := e.log, busy := false }
  | _ => { r with limit := 0, busy := false }

end Sys2Proof.Machine
end

