-- ==== Sys2Proof/Machine/Image.lean ====
section
/-! DEFINITION. The images of a wave and of a block (R309, R310, R316): how they are formed, how a wave or block is read back from
them (R312), and a debugger's writes of their fields. -/

namespace Sys2Proof.Machine
open Sys2Proof

/-! ### Forming a wave's image (R309) -/

/-- The state byte of a slot record. -/
def slotStateCode (p : Paths) (n : Bool) : Nat :=
  let x := p.slot n
  if x.mask = 0 then 0 else if x.park.isSome then 2 else if atJoin p n then 3 else 1

/-- 32 scalars, 4 bytes each. -/
def scalarBytes (m : List (Nat × Word)) : List Byte := flatten ((List.range 32).map fun i => leBytes 4 (findD m i 0).toNat)

/-- A slot record. -/
def slotBytes (p : Paths) (n : Bool) : List Byte :=
  let x := p.slot n
  leBytes 4 x.pc.toNat ++ leBytes 4 x.mask.toNat ++ leBytes 2 x.mode.toNat ++ leBytes 1 (slotStateCode p n) ++ zeros 1 ++
    leBytes 4 x.fmt.toNat ++ leBytes 4 x.jpc.toNat ++ zeros 12 ++ scalarBytes x.sregs

/-- A translation register's 16 bytes. -/
def tregBytes (r : TReg) : List Byte := leBytes 8 (r.base % 2 ^ 56) ++ leBytes 4 r.limit ++ zeros 4

/-- The translation registers of a thread. -/
def tregsBytes (th : Thread) : List Byte := flatten ((List.range 8).map fun i => tregBytes (th.treg i))

/-- W, H and the D code of a logged word (R254). -/
def loggedFields : Instr → Nat × Nat × Nat
  | .ldg d _ _ w h | .stg d _ _ w h | .ldgk d _ _ w h | .atomg d _ _ w h | .atomg64 d _ _ w h =>
    (w.toNat, h.toNat, (regCode d).toNat)
  | .casg d _ _ h => (2, h.toNat, (regCode d).toNat)
  | _ => (0, 0, 0)

/-- A log entry's 768 bytes. Bytes 0 to 5 hold the opcode, W, H, D, the depth tag and the valid bit (log 24). -/
def logBytes (e : LogEntry) : List Byte :=
  let (w, h, d) := loggedFields e.word
  let lane (l : Nat) : Option LogLane := e.lanes.find? fun x => x.lane = l || e.shared ≠ 0
  let offset (l : Nat) : Nat := if hasLane e.mask l then ((lane l).map (·.offset)).getD 0 else 0
  let data (l : Nat) : List Byte := if hasLane e.mask l then ((lane l).map (·.bytes)).getD [] else []
  leBytes 1 ((opcodeOf e.word).getD 0) ++ leBytes 1 w ++ leBytes 1 h ++ leBytes 1 d ++ leBytes 1 e.depth ++ leBytes 1 1 ++
    zeros 2 ++ leBytes 4 e.mask.toNat ++ zeros 4 ++ flatten (lanes.map fun l => leBytes 4 (offset l)) ++ leBytes 8 e.base ++
    zeros 104 ++ flatten (lanes.map fun l => (data l ++ zeros 16).take 16)

/-- The operand log's 8 entries by number. -/
def logArea (th : Thread) : List Byte :=
  flatten ((List.range 8).map fun n => match th.log.find? fun e => e.number = n with
    | some e => logBytes e
    | none => zeros 768)

/-- The first 7,168 bytes of a wave context. -/
def waveHead (th : Thread) : List Byte :=
  let p := th.paths
  let f := p.frame.getD { j := 0, mode := 0, fmt := 0 }
  let older := p.stack.reverse
  leBytes 4 1 ++ leBytes 2 th.regs ++ leBytes 2 th.wave ++ leBytes 4 (boolNat p.frame.isSome + 2 * p.stack.length) ++
    leBytes 4 th.gang.toNat ++ leBytes 4 th.flags.toNat ++ leBytes 4 th.depth ++ leBytes 8 p.spillPtr ++
    leBytes 4 f.j.toNat ++ leBytes 2 f.mode.toNat ++ zeros 2 ++ leBytes 4 f.fmt.toNat ++ zeros 4 ++
    slotBytes p false ++ slotBytes p true ++ (flatten (older.map spillBytes) ++ zeros 384).take 384 ++
    flatten ((List.range 7).map fun i => leBytes 4 (th.pred (i + 1)).toNat) ++ zeros 4 ++ tregsBytes th ++
    leBytes 4 th.exc.exc.toNat ++ leBytes 4 th.exc.excmask.toNat ++ leBytes 4 th.exc.synd.toNat ++
    leBytes 4 th.exc.unit.toNat ++ leBytes 4 th.exc.tilexy.toNat ++ leBytes 4 th.exc.faultva.toNat ++
    leBytes 4 th.exc.faultvah.toNat ++ leBytes 4 th.rgnpc.toNat ++ leBytes 4 th.trappc.toNat ++
    leBytes 4 th.utrapbase.toNat ++ zeros 8 ++ zeros 64 ++ logArea th

/-- A wave context: its head, then its registers as values (R284, R309). -/
def waveImage (k : Core) (th : Thread) : List Byte :=
  waveHead th ++ flatten ((List.range th.regs).map fun n => flatten (lanes.map fun l => leBytes 4 (vectorWord k th n l)))

/-- The bytes of a wave context. -/
def waveSize (regs : Nat) : Nat := 7168 + 128 * regs

/-- The trailer of a wave (R316). -/
def trailerBytes (k : Core) (t : ThreadRef) (th : Thread) : List Byte :=
  flatten ((List.range 6).map fun p => leBytes 1 (pathCount k t th p)) ++ zeros 58

/-! ### Forming a block's image (R310) -/

/-- The waves that a barrier holds, as a mask. -/
def heldAtBar (b : Block) (n : Nat) : Nat :=
  (b.threads.map fun (t, th) =>
    if !th.ccp && [false, true].any (fun k => (th.paths.slot k).mask ≠ 0 && (th.paths.slot k).hold = .bar n) then 2 ^ t
    else 0).sum

/-- A ring's 16 bytes. -/
def ringBytes (b : Block) (n : Nat) : List Byte :=
  match find b.rings n with
  | none => zeros 16
  | some r =>
    let ptr (x : Nat) : List Byte := leBytes 1 (x % r.count + x / r.count * 64)
    leBytes 4 r.base ++ leBytes 4 r.size ++ leBytes 4 (r.count + r.buffer * 256 + boolNat r.post * 4096 + 8192) ++
      ptr r.wp ++ ptr r.rp ++ ptr r.cp ++ ptr r.fp

/-- A ladder's 16 bytes. -/
def ladderBytes (x : Ladder) : List Byte :=
  leBytes 4 (x.rung0 + x.nr * 2 ^ 20 + boolNat x.defined * 2 ^ 31) ++ leBytes 4 x.dec ++ leBytes 4 x.wgt ++ leBytes 4 x.n

/-- The CCP thread's 512 bytes. -/
def ccpBytes (b : Block) : List Byte :=
  match find b.threads ccpThread with
  | none => zeros 512
  | some th =>
    let x := th.paths.slot0
    let state := if th.stopped then 3 else if th.ended then 2 else 1
    let preds := ((List.range 7).map fun i => if hasLane (th.pred (i + 1)) 0 then 2 ^ (i + 1) else 0).sum
    let bs := leBytes 4 x.pc.toNat ++ leBytes 2 x.mode.toNat ++ leBytes 1 preds ++ zeros 1 ++ leBytes 4 th.exc.exc.toNat ++
      leBytes 4 th.exc.synd.toNat ++ leBytes 4 th.trappc.toNat ++ leBytes 4 th.exc.faultva.toNat ++
      leBytes 4 th.exc.faultvah.toNat ++ leBytes 4 state ++ scalarBytes x.sregs ++ tregsBytes th
    (bs ++ zeros 512).take 512

/-- A block's regions in the order SM, AB, CB, WB, each padded to 64 bytes. -/
def regionImage (l : Launch) (b : Block) : List Byte :=
  flatten ([3, 0, 1, 2].map fun c =>
    let n := l.regionSize c
    b.readRegion c 0 n ++ zeros (roundUp n 64 - n))

/-- A block context with its regions (R310). `bars` are the barriers' masks when eviction began. -/
def blockImage (l : Launch) (b : Block) (bars : List Nat) : List Byte :=
  leBytes 4 1 ++ leBytes 4 b.blklin ++ leBytes 4 b.launch ++ leBytes 2 b.marker ++ leBytes 2 (b.request % 64) ++
    flatten ((List.range 16).map fun n => leBytes 4 (bars.getD n 0)) ++ flatten ((List.range 16).map (ringBytes b)) ++
    flatten ((List.range 4).map fun n => ladderBytes (findD b.ladders n freshLadder)) ++
    leBytes 4 (l.regionSize 3) ++ leBytes 4 (l.regionSize 0) ++ leBytes 4 (l.regionSize 1) ++ leBytes 4 (l.regionSize 2) ++
    zeros 96 ++ ccpBytes b ++ regionImage l b

/-- The masks of a block's barriers as they stand. -/
def Block.barMasks (b : Block) : List Nat := (List.range 16).map (heldAtBar b)

/-- The bytes of a block context with its regions. -/
def blockSize (l : Launch) : Nat := 1024 + ([3, 0, 1, 2].map fun c => roundUp (l.regionSize c) 64).sum

/-! ### Reading a wave back (R312) -/

/-- A 32-bit word of an image. -/
def wordAt (bs : List Byte) (o : Nat) : Word := BitVec.ofNat 32 (leAt bs o 4)

/-- A slot from its record; it resumes at its saved PC, its hold and its CYCLEH shadow gone. -/
def slotFrom (bs : List Byte) : Slot :=
  { freshSlot with
    pc := wordAt bs 0, mask := wordAt bs 4, mode := modeBits (BitVec.ofNat 16 (leAt bs 8 2)), fmt := fmtBits (wordAt bs 12),
    jpc := wordAt bs 16, sregs := scalarsOf (bs.drop 32), last := wordAt bs 0 }

/-- A translation register read back: its base walked anew as XLAT does, with the saved limit as the request. -/
def tregFrom (s : State) (part : Nat) (bs : List Byte) : TReg :=
  let r := { freshTReg with base := leAt bs 0 7 }
  let limit := leAt bs 8 4
  if limit = 0 then r else r.walked limit (walkPages s part r.base)

/-- The translation registers from 128 bytes. -/
def tregsFrom (s : State) (part : Nat) (bs : List Byte) : List (Nat × TReg) :=
  (List.range 8).foldl (fun m i => put freshTReg m i (tregFrom s part ((bs.drop (16 * i)).take 16))) []

/-- The registers of an image, from its byte 7,168 on. -/
def vregsFrom (bs : List Byte) (regs : Nat) : List (Nat × Word) :=
  (List.range (regs * 32)).foldl (fun m i => put 0 m i (wordAt bs (4 * i))) []

/-- A wave from its image, private and with nothing in flight, in a quadrant. -/
def waveFrom (s : State) (part quad : Nat) (bs : List Byte) : Thread :=
  let regs := leAt bs 4 2
  let info := leAt bs 8 4
  let stack := (List.range (bits info 2 1)).map fun i => readSpill ((bs.drop (368 + 192 * i)).take 192)
  { freshThread false (leAt bs 6 2) quad regs 0 0 with
    gang := wordAt bs 12
    flags := BitVec.ofNat 5 (leAt bs 16 4)
    paths :=
      { slot0 := slotFrom (bs.drop 48)
        slot1 := slotFrom (bs.drop 208)
        frame := if bit info 0 then
            some { j := wordAt bs 32, mode := modeBits (BitVec.ofNat 16 (leAt bs 36 2)), fmt := fmtBits (wordAt bs 40) }
          else none
        stack := stack.reverse
        spillPtr := leAt bs 24 8
        buried := [] }
    preds := (List.range 7).foldl (fun m i => put 0 m (i + 1) (wordAt bs (752 + 4 * i))) []
    tregs := tregsFrom s part (bs.drop 784)
    exc := ExcRegs.stored
      { exc := wordAt bs 912, excmask := wordAt bs 916, synd := wordAt bs 920, unit := wordAt bs 924, tilexy := wordAt bs 928,
        faultva := wordAt bs 932, faultvah := wordAt bs 936 }
    rgnpc := wordAt bs 940
    trappc := wordAt bs 944
    utrapbase := wordAt bs 948
    vregs := vregsFrom (bs.drop 7168) regs }

/-! ### Reading a block back (R312) -/

/-- A ring from its 16 bytes; none where it is not initialised. -/
def ringFrom (bs : List Byte) : Option Ring :=
  let x := leAt bs 8 4
  let n := x % 128
  let ptr (o : Nat) : Nat := leAt bs o 1 % 64 + leAt bs o 1 / 64 % 2 * n
  if bit x 13 then
    some { base := leAt bs 0 4, size := leAt bs 4 4, count := n, buffer := bits x 9 8, post := bit x 12, wp := ptr 12,
           rp := ptr 13, cp := ptr 14, fp := ptr 15, filled := [], waiting := [], senders := [] }
  else none

/-- A ladder from its 16 bytes. -/
def ladderFrom (bs : List Byte) : Ladder :=
  let x := leAt bs 0 4
  { defined := bit x 31, rung0 := bits x 18 0, nr := bits x 24 20, dec := leAt bs 4 4, wgt := leAt bs 8 4, n := leAt bs 12 4 }

/-- The CCP thread from its 512 bytes; none where the block has none. -/
def ccpFrom (s : State) (part : Nat) (bs : List Byte) : Option Thread :=
  let state := leAt bs 28 4
  let gone := state ≠ 1
  let slot : Slot :=
    { freshSlot with
      pc := wordAt bs 0, mode := modeBits (BitVec.ofNat 16 (leAt bs 4 2)), mask := if gone then 0 else 1,
      sregs := scalarsOf (bs.drop 32), last := wordAt bs 0 }
  let th : Thread :=
    { freshThread true 0 0 0 0 0 with
      ended := gone
      stopped := state = 3
      paths := { slot0 := slot, slot1 := freshSlot, frame := none, stack := [], spillPtr := 0, buried := [] }
      preds := (List.range 7).foldl (fun m i => put 0 m (i + 1) (if bit (leAt bs 6 1) (i + 1) then 1 else 0)) []
      exc := ExcRegs.stored
        { freshExc with exc := wordAt bs 8, synd := wordAt bs 12, faultva := wordAt bs 20, faultvah := wordAt bs 24 }
      trappc := wordAt bs 16
      tregs := tregsFrom s part (bs.drop 160) }
  if state = 0 then none else some th

/-- The regions of an image, from its byte 1,024 on. -/
def regionsFrom (l : Launch) (bs : List Byte) : List Host.Cell :=
  ([3, 0, 1, 2].foldl (fun (acc : List Host.Cell × List Byte) c =>
    let n := l.regionSize c
    (writeCells acc.1 (regionKey c 0) (acc.2.take n), acc.2.drop (roundUp n 64))) ([], bs)).1

/-- A block from its image, without its waves (R310, R312). -/
def blockFrom (s : State) (l : Launch) (launch cluster : Nat) (bs : List Byte) : Block :=
  { launch := launch
    blklin := leAt bs 4 4
    waves := l.waves
    threads := match ccpFrom s l.partition (bs.drop 512) with
      | some th => [(ccpThread, th)]
      | none => []
    regions := regionsFrom l (bs.drop 1024)
    rpois := []
    rings := (List.range 16).filterMap fun n => (ringFrom ((bs.drop (80 + 16 * n)).take 16)).map fun r => (n, r)
    ladders := (List.range 4).foldl (fun m n => put freshLadder m n (ladderFrom ((bs.drop (336 + 16 * n)).take 16))) []
    marker := leAt bs 12 2
    request := leAt bs 14 2 % 64
    halted := false
    exempt := none
    breaks := []
    out := []
    images := []
    placedAt := s.tick
    expired := false
    leaving := none
    aborted := false
    report := none
    cluster := cluster
    edits := [] }

/-! ### Debug writes (R316) -/

/-- The region and offset of a byte of a block image that a debug write may cover: SM, AB and CB (R310, R316). -/
def editedRegion (l : Launch) (o : Nat) : Option (Nat × Nat) :=
  let sm := 1024 + roundUp (l.regionSize 3) 64
  let ab := sm + roundUp (l.regionSize 0) 64
  if 1024 ≤ o && o < 1024 + l.regionSize 3 then some (3, o - 1024)
  else if sm ≤ o && o < sm + l.regionSize 0 then some (0, o - sm)
  else if ab ≤ o && o < ab + l.regionSize 1 then some (1, o - ab)
  else none

/-- Bytes of an image that a debug write may cover. -/
def writable (l : Launch) (image o : Nat) : Bool :=
  let inside (lo n : Nat) : Bool := decide (lo ≤ o) && decide (o < lo + n)
  let slot (at_ : Nat) : Bool := inside at_ 4 || inside (at_ + 8) 2 || inside (at_ + 12) 4 || inside (at_ + 32) 128
  match image with
  | 0 => inside 12 8 || slot 48 || slot 208 || inside 752 28 || inside 7168 (128 * l.regs)
  | 1 => (editedRegion l o).isSome
  | _ => false

/-- An image with bytes written at an offset. -/
def patchBytes (bs : List Byte) (o : Nat) (xs : List Byte) : List Byte := bs.take o ++ xs ++ bs.drop (o + xs.length)

/-- A debug write of n bytes at an offset covers a byte of the image's word at another. -/
def coversWord (o n at_ : Nat) : Bool := decide (o < at_ + 4) && decide (at_ < o + n)

/-- A slot with the fields a debugger may write taken from its record: `covers` are the words of the record that are written. Where
the PC is, no hold keeps the slot at its old word, but a sleep goes on; a scalar written is no longer poisoned. -/
def Slot.edited (x : Slot) (bs : List Byte) (covers : Nat → Bool) : Slot :=
  let y := slotFrom bs
  { x with
    pc := y.pc, mode := y.mode, fmt := y.fmt, sregs := y.sregs
    spois := maskOf fun i => hasLane x.spois i && !covers (32 + 4 * i)
    hold := if covers 0 && !asleep x then .free else x.hold }

/-- The lanes of registers that a write at an offset of the register area covers, as (register, lane, value). -/
def editedLanes (image : List Byte) (o n : Nat) : List (Nat × Nat × Nat) :=
  ((List.range (ceilDiv (o % 4 + n) 4)).map (o / 4 + ·)).filterMap fun i =>
    if 1792 ≤ i then some ((i - 1792) / 32, (i - 1792) % 32, leAt image (4 * i) 4) else none

/-- A wave with one debug write (R316): registers it covers become private. FLAGS takes the bits written: R316 lets the host write the
field of the image, and the clearing of R50 is that of MTS (log 97). -/
def Thread.edited (th : Thread) (k : Core) (o : Nat) (xs : List Byte) : Thread :=
  let image := patchBytes (waveImage k th) o xs
  let n := xs.length
  let th :=
    { th with
      gang := wordAt image 12
      flags := BitVec.ofNat 5 (leAt image 16 4)
      paths :=
        { th.paths with
          slot0 := th.paths.slot0.edited (image.drop 48) fun i => coversWord o n (48 + i)
          slot1 := th.paths.slot1.edited (image.drop 208) fun i => coversWord o n (208 + i) }
      preds := (List.range 7).foldl (fun m i => put 0 m (i + 1) (wordAt image (752 + 4 * i))) []
      ppois := th.ppois.filter fun p => !coversWord o n (748 + 4 * p.1) }
  (editedLanes image o n).foldl (fun th (n, l, v) => th.writeVector k n [(l, v)] 0) th

/-- A block with one debug write of its regions (R316). -/
def Block.edited (b : Block) (l : Launch) (o : Nat) (xs : List Byte) : Block :=
  let marked := ((List.range xs.length).zip xs).filterMap fun (i, x) => (editedRegion l (o + i)).map fun (code, at_) => (code, at_, x)
  [3, 0, 1].foldl (fun b code => match marked.filter fun y => y.1 = code with
    | [] => b
    | y :: ys => b.writeRegion code y.2.1 ((y :: ys).map (·.2.2)) false) b

/-- A thread's arrival at the latch is withdrawn where no slot of it is held there any more. -/
def withdrawLatch (s : State) (t : ThreadRef) : State :=
  if ((s.threadAt t).map Thread.latched).getD false then s
  else s.modCore t.core fun k => { k with arrivals := k.arrivals.filter fun a => a.member.thread ≠ t }

/-- Make a block's pending debug writes, in record order (R316). -/
def applyEdits (s : State) (core block : Nat) : State :=
  match s.blockAt core block with
  | none => s
  | some b =>
    let l := s.launchOf b
    let s := b.edits.foldl (fun s (image, wave, o, xs) =>
      if image = 1 then s.modBlock core block fun b => b.edited l o xs
      else withdrawLatch (s.modThread ⟨core, block, wave⟩ fun th => th.edited (s.coreAt core) o xs) ⟨core, block, wave⟩) s
    s.modBlock core block fun b => { b with edits := [] }

end Sys2Proof.Machine
end

