-- ==== Sys2Proof/Machine/Launches.lean ====
section
/-! DEFINITION. A launch's life (R292, R297 to R299): heads of queues, dependences, the constant snapshot (R93), retirement,
cancels and the stops of deterministic launches (R302); and the token balances of partitions (R293, R294). -/

namespace Sys2Proof.Machine
open Sys2Proof

/-! ### Counters and dependences (R297) -/

/-- Change a completion counter; index 0 is none. -/
def modCounter (s : State) (p i : Nat) (f : Counter → Counter) : State :=
  if i = 0 then s else s.modPart p fun q => q.setCounter i (f (q.counter i))

/-- The indices of a launch's nonzero DONE counters, in order. -/
def Launch.doneCounters (l : Launch) : List Nat := ((List.range 4).map l.done).filter (· ≠ 0)

/-- A dependence is met (R297). -/
def depMet (p : Partition) (d : Nat × Nat) : Bool :=
  d.1 = 0 || (decide (d.2 ≤ (p.counter d.1).count) && !(p.counter d.1).canc)

/-- A dependence names a cancelled counter (R292). -/
def depCancelled (p : Partition) (d : Nat × Nat) : Bool := d.1 ≠ 0 && (p.counter d.1).canc

/-- The dependences of a launch. -/
def Launch.deps (l : Launch) : List (Nat × Nat) := (List.range 3).map l.dep

/-! ### Stopping a launch (R292, R299, R302) -/

/-- A launch's blocks that are out of their cores are dropped, with their places in their clusters. -/
def dropEvicted (s : State) (l : Nat) : State :=
  match s.launchAt l with
  | none => s
  | some x =>
    let s := s.modPart x.partition fun p =>
      { p with
        evicted := p.evicted.filter fun m => !(m.launch = l && m.wave.isNone)
        raised := p.raised.filter fun r => r.1 ≠ l }
    let drop (y : Cluster) : Cluster :=
      if y.launch ≠ l then y
      else { y with blocks := y.blocks.map fun (r, p) => (r, if p.any (fun q => q.1 = coreCount) then none else p) }
    let clusters := (s.clusters.map fun (n, y) => (n, drop y)).filter fun (_, y) =>
      !(y.launch = l && y.blocks.all fun e => e.2.isNone)
    { s with clusters := clusters }

/-- A launch becomes CANCELLED or FAILED, which completes its record: no further block, CANC in its counters, its resident blocks
aborted without an ABORT event, and its own event once they have ended (R292, R299, R302, R339). -/
def stopLaunch (s : State) (l : Nat) (ending : LaunchState) (reason : Nat) : State :=
  match s.launchAt l with
  | none => s
  | some x =>
    let s := completeLaunch (s.modLaunch l fun x => { x with state := ending, reason := reason }) x
    let s := x.doneCounters.foldl (fun s i => modCounter s x.partition i fun c => { c with canc := true }) s
    let s := s.blocks.foldl (fun s (c, b, y) => if y.launch = l then abortQuiet s c b else s) s
    reportStopped (dropEvicted s l) l

/-! ### Heads of queues (R292) -/

/-- The head of a queue of a partition: its oldest launch that has not begun to dispatch. -/
def headOf (s : State) (p q : Nat) : Option (Nat × Launch) :=
  s.launches.find? fun (_, x) => x.partition = p && x.queue = q && (x.state = .queued || x.state = .waiting)

/-- One look at a queue's head: it waits, or a cancelled dependence cancels it; true where it was cancelled. -/
def lookHead (s : State) (p q : Nat) : State × Bool :=
  match headOf s p q with
  | none => (s, false)
  | some (l, x) =>
    if x.deps.any (depCancelled (s.partAt p)) then (stopLaunch s l .cancelled 4, true)
    else (if x.state = .queued then s.modLaunch l fun x => { x with state := .waiting } else s, false)

/-- Look at every head of a partition again, until none is cancelled (R292, R297). -/
def settleHeads (s : State) (p : Nat) : (fuel : Nat) → State
  | 0 => s
  | n + 1 =>
    let (s, again) := (List.range 8).foldl (fun (acc : State × Bool) q =>
      let (t, c) := lookHead acc.1 p q
      (t, acc.2 || c)) (s, false)
    if again then settleHeads s p n else s

/-- Look at the heads of a partition after a counter or a queue of it has changed. -/
def settlePart (s : State) (p : Nat) : State := settleHeads s p (s.launches.length + 1)

/-! ### The constant snapshot (R93) -/

/-- The physical parts of the constant bank; none where a page of it does not translate (R93). -/
def bankParts (s : State) (p va : Nat) : Option (List (Nat × Nat)) :=
  if 2 ^ 56 < va + 1024 then none
  else
    let parts := (cutPages va 1024).map fun (a, n) => (a, n, walkPages s p a)
    if parts.any fun (a, _, w) => (leafFault s .load w a).isSome then none
    else some (parts.map fun (a, n, w) => (leafPhys w a, n))

/-- The constants of a bank: 256 words. -/
def bankConsts (bs : List Byte) : List (Nat × Word) :=
  (List.range 256).foldl (fun m k => put 0 m k (BitVec.ofNat 32 (leAt bs (4 * k) 4))) []

/-- A launch that may be snapshot: the head of its queue, waiting, with every dependence met at once. -/
def snapshotDue (s : State) (l : Nat) : Option Launch :=
  match s.launchAt l with
  | none => none
  | some x =>
    if x.state = .waiting && (headOf s x.partition x.queue).any (fun h => h.1 = l) &&
        x.deps.all (depMet (s.partAt x.partition)) then some x
    else none

/-- The launch dispatches with the bytes of its bank, or fails where the bank cannot be read (R93). -/
def endSnapshot (s : State) (launch : Nat) (bank : Option (List Byte)) : State :=
  match bank with
  | some bs => s.modLaunch launch fun x => { x with state := .dispatching, asked := [], consts := bankConsts bs }
  | none => stopLaunch s launch .failed 1

/-- CONSTANT_SNAPSHOT (R93, R292): the launch dispatches, or fails; the next of its queue becomes the head. A page in another module is
first asked for over Yarrow (R173). -/
def execConstantSnapshot (launch : Nat) (s : State) : Host.Outcome State Fault Refusal :=
  match snapshotDue s launch with
  | none => .refused .notDue
  | some x => match bankParts s x.partition x.kbank with
    | none => .next (settlePart (endSnapshot s launch none) x.partition)
    | some parts =>
      let a : LaneAccess := { lane := 0, va := x.kbank, parts := parts, remote := x.asked }
      if a.isRemote s && x.asked.isEmpty then
        match sendReads s x.partition [a] with
        | none => .refused .notDue
        | some (s, as) => .next (s.modLaunch launch fun x => { x with asked := messagesOf as })
      else
        let e := remoteEnd s a
        let (bs, p) := readAll s x.partition a
        event (e ≠ .waiting) (settlePart
          (endSnapshot (forgetAnswers s x.asked) launch (if e = .data && !p then some bs else none)) x.partition)

/-! ### Retirement and cancels (R298, R299) -/

/-- Every block of a running launch has ended, and with them their CCPs (R298). -/
def retireDue (s : State) (l : Nat) : Option Launch :=
  match s.launchAt l with
  | none => none
  | some x =>
    if x.state = .running && x.ended.length = x.nblk && !(s.blocks.any fun (_, _, b) => b.launch = l) then some x else none

/-- LAUNCH_RETIRE (R298). -/
def execLaunchRetire (launch : Nat) (s : State) : Host.Outcome State Fault Refusal :=
  match retireDue s launch with
  | none => .refused .notDue
  | some x =>
    let s := s.killLaunch launch
    let s := completeLaunch (s.modLaunch launch fun x => { x with state := .done }) x
    let s := x.doneCounters.foldl
      (fun s i => modCounter s x.partition i fun c => { c with count := (c.count + 1) % 2 ^ 48 }) s
    .next (settlePart (sendLaunchDone s launch 0) x.partition)

/-- A launch has reached no terminal state (R292). -/
def Launch.live (x : Launch) : Bool :=
  match x.state with
  | .done | .cancelled | .failed => false
  | _ => true

/-- A cancel names a level and a counter (R299). -/
def cancelLevel (s : State) (p level i : Nat) : State :=
  let s := modCounter s p i fun c => { c with canc := true }
  let s := if i = 0 then s
    else (s.launches.filter fun (_, x) => x.partition = p && x.live && x.done level = i).foldl
      (fun s (l, _) => stopLaunch s l .cancelled 4) s
  settlePart s p

/-- A deterministic launch with a block on a core stops (R302, R331), where it has not ended: a terminal state is never left (R292). -/
def stopDeterministic (s : State) (core reason : Nat) : State :=
  let ls := ((s.coreAt core).blocks.filterMap fun (_, b) => if (s.launchOf b).det && (s.launchOf b).live then some b.launch else none).eraseDups
  ls.foldl (fun s l => settlePart (stopLaunch s l .failed reason) ((s.launchAt l).map (·.partition) |>.getD 0)) s

/-! ### Tokens (R293, R294) -/

/-- A partition may lend: no launch of it waits or dispatches, and it has tokens (R293). -/
def mayLend (s : State) (q : Nat) : Bool :=
  decide (0 < (s.partAt q).balance) && !s.launches.any fun (_, x) =>
    x.partition = q && (x.state = .queued || x.state = .waiting || x.state = .dispatching)

/-- The lender of a partition: the highest balance, ties to the lowest number (R293). -/
def lenderOf (s : State) (p : Nat) : Option Nat :=
  ((List.range partitionCount).filter fun q => q ≠ p && mayLend s q).foldl (fun m q => match m with
    | none => some q
    | some x => if (s.partAt x).balance < (s.partAt q).balance then some q else some x) none

/-- Charge one core-µs to a partition, or borrow it (R293). -/
def chargeOne (s : State) (p : Nat) : State :=
  if 1 ≤ (s.partAt p).balance then s.modPart p fun x => { x with balance := x.balance - 1 }
  else match lenderOf s p with
    | some q =>
      (s.modPart q fun x => { x with balance := x.balance - 1 }).modPart p fun x =>
        { x with debts := put 0 x.debts q (findD x.debts q 0 + 1) }
    | none => s.modPart p fun x => { x with balance := x.balance - 1 }

/-- A partition's slew allowance after one more microsecond, in mA: refilled at its slew rate, up to ten times it (R328). -/
def Partition.refillSlew (p : Partition) : Partition := { p with allowance := min (p.allowance + p.slew) (10 * p.slew) }

/-- TOKEN_CHARGE (R293): one microsecond passes; cores charge in ascending order. -/
def execTokenCharge (s : State) : Host.Outcome State Fault Refusal :=
  let s := s.cores.foldl (fun s (_, k) => match k.blocks, k.partition with
    | _ :: _, some p => chargeOne s p
    | _, _ => s) s
  .next ((List.range partitionCount).foldl (fun s p =>
    if (s.partAt p).allowance < 10 * (s.partAt p).slew then s.modPart p Partition.refillSlew else s) s)

/-- Refill one partition and repay its lenders (R294). -/
def refillOne (s : State) (p : Nat) : State :=
  let x := s.partAt p
  if !x.configured then s
  else
    let owed := (x.debts.map (·.2)).sum
    let r := min owed (x.refill / 2)
    let s := s.modPart p fun x => { x with balance := min (x.balance + x.refill - r) x.cap }
    ((List.range partitionCount).foldl (fun (acc : State × Nat) q =>
      let pay := min acc.2 (findD (acc.1.partAt p).debts q 0)
      if pay = 0 then acc
      else
        let s := acc.1.modPart p fun x => { x with debts := put 0 x.debts q (findD x.debts q 0 - pay) }
        (s.modPart q fun y => { y with balance := min (y.balance + pay) y.cap }, acc.2 - pay)) (s, r)).1

/-- TOKEN_REFILL (R294): partitions in ascending order. -/
def execTokenRefill (s : State) : Host.Outcome State Fault Refusal :=
  .next ((List.range partitionCount).foldl refillOne s)

end Sys2Proof.Machine
end

