-- ==== Sys2Proof/Machine/Place.lean ====
section
/-! DEFINITION. Placing blocks (R295, R296, R303): what a core must have free, which partition and launch the dispatcher serves, and
how a block starts (R147, R165, R218, R281, R321). -/

namespace Sys2Proof.Machine
open Sys2Proof

/-! ### What a core has free (R296) -/

/-- Bytes of register file that a core's resident waves hold. -/
def regBytes (k : Core) : Nat :=
  (flatten (k.blocks.map fun (_, b) => b.threads.map fun (_, th) => if th.ccp then 0 else th.regs * 128)).sum

/-- Free resident places of a core's quadrants: 16 each (R14). -/
def freePlaces (k : Core) : List Nat := (List.range 4).map fun q => 16 - (findD k.quads q freshQuadrant).waves

/-- Bytes a region takes, in its granules (R296). -/
def granules (code size : Nat) : Nat := roundUp size (if code = 2 then 128 else 4096)

/-- The bytes of a core's buffers, by buffer code (R18, R289). -/
def bufferSize (code : Nat) : Nat :=
  match code with
  | 1 => 524288 | 2 => 1048576
  | _ => 262144

/-- Bytes of a buffer that the resident blocks hold. -/
def bufferUsed (s : State) (k : Core) (code : Nat) : Nat :=
  (k.blocks.map fun (_, b) => granules code ((s.launchOf b).regionSize code)).sum

/-- A core's energy budget in µJ and current budget in mA, those of its cap level (R328). -/
def energyBudget (k : Core) : Nat := levelEnergy k.gear.capLevel / 1000
/-- See `energyBudget`. -/
def currentBudget (k : Core) : Nat := pointCurrent ⟨true, k.gear.capLevel⟩

/-- A declared figure; 0 counts as the whole budget (R296). -/
def orWhole (x budget : Nat) : Nat := if x = 0 then budget else x

/-- The power test (R296). -/
def powerFits (s : State) (k : Core) (l : Launch) : Bool :=
  let e := energyBudget k
  let i := currentBudget k
  decide ((k.blocks.map fun (_, b) => orWhole (s.launchOf b).energy e).sum + orWhole l.energy e ≤ e) &&
  decide ((k.blocks.map fun (_, b) => orWhole (s.launchOf b).ipeak i).sum + orWhole l.ipeak i ≤ i)

/-- The core may take a block of this partition: no window is open on it, and it holds no other partition's block
(R296, R365). -/
def partitionFits (k : Core) (p : Nat) : Bool := !k.windowOpen && (k.blocks.isEmpty || k.partition = some p)

/-- Registers and quadrant places for n waves of a launch (R296). -/
def wavesFit (k : Core) (l : Launch) (n : Nat) : Bool :=
  decide (n ≤ (freePlaces k).sum) && decide (regBytes k + n * l.regs * 128 ≤ 524288)

/-- Everything R296 asks of a core apart from registers and places. -/
def restFits (s : State) (core : Nat) (l : Launch) : Bool :=
  let k := s.coreAt core
  partitionFits k l.partition && decide (k.blocks.length < 32) &&
  (List.range 4).all (fun c => decide (bufferUsed s k c + granules c (l.regionSize c) ≤ bufferSize c)) &&
  decide ((k.blocks.map fun (_, b) => (s.launchOf b).rings).sum + l.rings ≤ 16) &&
  decide ((k.blocks.map fun (_, b) => (s.launchOf b).ladders).sum + l.ladders ≤ 4) && powerFits s k l

/-- A core passes R296 for a block of a launch that brings n waves. -/
def coreFits (s : State) (core : Nat) (l : Launch) (n : Nat) : Bool :=
  restFits s core l && wavesFit (s.coreAt core) l n

/-- The core of a cluster's block: column i, row j of a rectangle whose first core is given; none outside the die. -/
def rectCore (core i j : Nat) : Option Nat :=
  if colOf core + i < 12 && rowOf core + j < 12 then some (core + 12 * j + i) else none

/-- The places of a cluster's blocks from a first core on, where every core passes R296. -/
def placesFrom (s : State) (core : Nat) (l : Launch) (blocks : List (Nat × Nat × Nat)) (waves : Nat → Nat) :
    Option (List (Nat × Nat × Nat)) :=
  let places := blocks.map fun (i, j, b) => (rectCore core i j).map fun c => (c, j * l.clusterW + i, b)
  if places.all fun p => p.any fun x => coreFits s x.1 l (waves x.2.2) then some (places.filterMap id) else none

/-! ### What is placed next (R295) -/

/-- A cluster that waits to be placed: its launch, its blocks as (column, row, BLKLIN), and whether it was raised. -/
structure Waiting where
  launch : Nat
  blocks : List (Nat × Nat × Nat)
  raised : Bool
  deriving DecidableEq, Repr

/-- The launch still has clusters of its grid to place. -/
def Launch.unplaced (l : Launch) : Bool := l.state = .dispatching && l.next < l.clusterCount

/-- The first entry of each launch in a raised list: the blocks of one launch go in order. -/
def firstRaised (rs : List (Nat × Nat × Nat)) : List (Nat × Nat × Nat) :=
  rs.foldl (fun xs r => if xs.any fun x => x.1 = r.1 then xs else xs ++ [r]) []

/-- What a partition has waiting, in the order of R295: its raised list, then its dispatching launches by queue and
acceptance. -/
def waitingOf (s : State) (p : Nat) : List Waiting :=
  let raised := (firstRaised (s.partAt p).raised).filterMap fun (l, first, _) =>
    (s.launchAt l).map fun x => (⟨l, x.raisedBlocks first, true⟩ : Waiting)
  let grid := flatten ((List.range 8).map fun q =>
    (s.launches.filter fun (_, x) => x.partition = p && x.queue = q && x.unplaced).map fun (l, x) =>
      let (cx, cy, z) := x.clusterOf x.next
      ⟨l, x.clusterBlocks cx cy z, false⟩)
  raised ++ grid

/-- The die that a deterministic launch's next cluster goes to (R303); none where any die will do. -/
def dieFor (l : Launch) : Option Nat := if l.det then some (8 * l.next / l.clusterCount) else none

/-- Where a waiting cluster may start: its first core, and the places of its blocks. -/
def startAt (s : State) (w : Waiting) (core : Nat) : Option (List (Nat × Nat × Nat)) :=
  match s.launchAt w.launch with
  | none => none
  | some l =>
    if (!w.raised && (dieFor l).any fun d => d ≠ dieOf core) || coreCount ≤ core then none
    else placesFrom s core l w.blocks fun _ => l.waves

/-- A waiting cluster fits somewhere. -/
def fitsSomewhere (s : State) (w : Waiting) : Bool := (List.range coreCount).any fun c => (startAt s w c).isSome

/-- A partition has tokens, or a lender is available (R295). -/
def funded (s : State) (p : Nat) : Bool := decide (0 < (s.partAt p).balance) || (lenderOf s p).isSome

/-! ### A block starts -/

/-- The core passes to a partition: the value store's entries are killed and cb2 is cleared (R54, R280). -/
def Core.handOver (k : Core) (p : Nat) : Core :=
  if k.partition = some p then k
  else { k.kill (fun _ _ => true) false with partition := some p, cb2Loaded := false }

/-- Quadrants for waves, one by one: the one with the most free places, ties to the lowest (R296). -/
def assignQuads : (free : List Nat) → (n : Nat) → List Nat
  | _, 0 => []
  | free, n + 1 =>
    let best := ((List.range 4).foldl (fun m q => if free.getD m 0 < free.getD q 0 then q else m) 0)
    best :: assignQuads (changeAt free best (· - 1)) n

/-- A block's gear request as its launch gives it; a proof level the floor forbids becomes the slowest that it allows
(R289, R321). -/
def startRequest (g : Gear) (l : Launch) : Nat :=
  let level := bits l.lflags 4 3
  if bit l.lflags 2 then
    (if proofAllowed g level then level * 16 else (slowestProof g).level * 16 + boolNat (slowestProof g).bake)
  else level * 16 + 1

/-- A block as it starts: its waves at ENTRY with every lane, its CCP thread at CCPENTRY, every region byte 0 (R147, R165,
R218). -/
def freshBlock (l : Launch) (launch blklin cluster now : Nat) (g : Gear) (quads : List Nat) : Block where
  launch := launch
  blklin := blklin
  waves := l.waves
  threads :=
    (((List.range l.waves).zip quads).map fun (w, q) =>
      (w, freshThread false w q l.regs (BitVec.ofNat 32 l.entry) (l.spillBase blklin w))) ++
    (if l.ccpEntry = 0 then [] else [(ccpThread, freshThread true 0 0 0 (BitVec.ofNat 32 l.ccpEntry) 0)])
  regions := []
  rpois := []
  rings := []
  ladders := []
  marker := l.phase0
  request := startRequest g l
  halted := false
  exempt := none
  breaks := []
  out := []
  images := []
  placedAt := now
  expired := false
  leaving := none
  aborted := false
  report := none
  cluster := cluster
  edits := []

/-- Put a block into a residency slot of a core, its waves into their quadrants. -/
def putBlock (s : State) (core slot : Nat) (b : Block) : State :=
  let s := s.modCore core fun k => { k with blocks := insert k.blocks slot b }
  b.threads.foldl (fun s (t, th) =>
    if th.ccp then s else s.modCore core fun k => k.modQuad th.quad fun q => q.enter (waveKey ⟨core, slot, t⟩)) s

/-- The lowest free residency slot of a core. -/
def freeSlot (k : Core) : Nat := (freeKey k.blocks 0 32).getD 0

/-- Place one block of a cluster (R296). -/
def placeBlock (s : State) (core launch blklin cluster rank : Nat) : State :=
  match s.launchAt launch with
  | none => s
  | some l =>
    let s := s.modCore core fun k => k.handOver l.partition
    let k := s.coreAt core
    let slot := freeSlot k
    let b := freshBlock l launch blklin cluster s.tick k.gear (assignQuads (freePlaces k) l.waves)
    let s := putBlock s core slot b
    let s := markPhase s core slot
    match find s.clusters cluster with
    | none => s
    | some x => { s with clusters := insert s.clusters cluster { x with blocks := insert x.blocks rank (some (core, slot)) } }

/-- Every block of a launch below NBLK has been placed: it runs (R292). -/
def settleDispatch (s : State) (l : Nat) : State :=
  match s.launchAt l with
  | none => s
  | some x =>
    if x.state = .dispatching && x.clusterCount ≤ x.next && !(s.partAt x.partition).raised.any (fun r => r.1 = l) then
      s.modLaunch l fun x => { x with state := .running }
    else s

/-- The raised list with a launch's first cluster of n blocks taken (R300). -/
def takeRaised (launch n : Nat) : List (Nat × Nat × Nat) → List (Nat × Nat × Nat)
  | [] => []
  | (l, first, k) :: rest =>
    if l ≠ launch then (l, first, k) :: takeRaised launch n rest
    else if k ≤ n then rest else (l, first + n, k - n) :: rest

/-- A deterministic launch that has come to a core which its thermal limits or its cap keep from bake 0 stops (R302, R330, R331). -/
def stopIfHeld (s : State) (core : Nat) : State :=
  let g := (s.coreAt core).gear
  if !detResident s core then s
  else if g.hot || g.held then stopDeterministic s core 3
  else if g.cap ≠ 0 then stopDeterministic s core 2
  else s

/-- Place a waiting cluster on the cores found for it (R295, R296, R302). -/
def placeCluster (s : State) (w : Waiting) (places : List (Nat × Nat × Nat)) : State :=
  match s.launchAt w.launch with
  | none => s
  | some l =>
    let n := s.nextCluster
    let s := { s with
      nextCluster := n + 1
      served := l.partition
      clusters := insert s.clusters n { launch := w.launch, blocks := [], counts := [], arrived := [] } }
    let s := places.foldl (fun s (c, rank, b) => placeBlock s c w.launch b n rank) s
    let s := if w.raised then s.modPart l.partition fun p => { p with raised := takeRaised w.launch l.clusterSize p.raised }
      else s.modLaunch w.launch fun x => { x with next := x.next + 1 }
    places.foldl (fun s (c, _, _) => stopIfHeld s c) (settleDispatch s w.launch)

end Sys2Proof.Machine
end

