-- ==== Sys2Proof/Machine/Context.lean ====
section
/-! DEFINITION. Pre-emption (R305 to R314): time slices, which waves and blocks leave a core, saving them to the context area,
restoring them, and migration; and block placement, which restores precede (R295, R312). -/

namespace Sys2Proof.Machine
open Sys2Proof

/-! ### The context area (R308) -/

/-- The ranges of a partition's area that images hold, as (offset, length). -/
def usedRanges (p : Partition) : List (Nat × Nat) := flatten (p.evicted.map fun m => m.places.map fun x => (x.2.1, x.2.2))

/-- The lowest offset where n bytes are free; none where the area has no room. R308 leaves the place to the machine: the model's choice
(log 114). -/
def areaRoom (size : Nat) (used : List (Nat × Nat)) (n : Nat) : Option Nat :=
  let free (o : Nat) : Bool := decide (o + n ≤ size) && used.all fun u => decide (o + n ≤ u.1) || decide (u.1 + u.2 ≤ o)
  ((0 :: used.map fun u => u.1 + u.2).filter free).min?

/-- Offsets for several images, one after the other; none where one finds no room. -/
def areaRooms (size : Nat) : (used : List (Nat × Nat)) → List Nat → Option (List (Nat × Nat))
  | _, [] => some []
  | used, n :: rest => match areaRoom size used n with
    | none => none
    | some o => (areaRooms size ((o, n) :: used) rest).map ((o, n) :: ·)

/-- Write an image at an offset of a partition's area, by physical address, under the partition's key (R308). -/
def writeImage (s : State) (part o : Nat) (bs : List Byte) : State :=
  s.writeMem (s.partAt part).key (physKey ((s.partAt part).areaBase + o)) bs false

/-- A context write meets an uncorrectable error: a sector of its place holds one (R308, log 96). -/
def badPlace (s : State) (part : Nat) (places : List (Nat × Nat)) : Bool :=
  places.any fun (o, n) => anyPoison s.poison (physKey ((s.partAt part).areaBase + o)) n

/-- Read an image, and whether an uncorrectable error is met in it (R308). -/
def readImage (s : State) (part o n : Nat) : List Byte × Bool :=
  let a := physKey ((s.partAt part).areaBase + o)
  (s.readMem (s.partAt part).key a n, anyPoison s.poison a n)

/-! ### What may be saved (R307) -/

/-- A wave or CCP thread has nothing in flight and no trap or restart to take: its counters and queues are empty, no access of it
waits, no register of it waits for a value, no region of it is to be run again, and it runs no handler (R269, R307, R362). -/
def drained (s : State) (t : ThreadRef) (th : Thread) : Bool :=
  let k := s.coreAt t.core
  s.quiet t && th.depth = 0 && !th.parked && !th.restarting && th.loads.isEmpty && th.stores.isEmpty && th.posts.isEmpty && th.log.isEmpty && th.faulted.isEmpty &&
    th.late.isEmpty && th.cmds.all (fun x => x.status.isSome) && !flagsOutstanding k t th &&
    th.bound.all (fun (n, _) => if h : n < 192 then !boundPending k th (.v ⟨n, h⟩) else true) && !th.tregs.any fun (_, r) => r.busy

/-- What travels beside a wave's image. -/
def Thread.beside (th : Thread) : Beside where
  wave := th.wave
  vpois := th.vpois
  ppois := th.ppois
  spois := th.paths.slot0.spois :: th.paths.slot1.spois :: th.paths.stack.map fun e => e.slot.spois
  buried := th.paths.buried

/-- A wave with what travelled beside its image. -/
def Thread.withBeside (th : Thread) (x : Beside) : Thread :=
  let w (i : Nat) : Word := x.spois.getD i 0
  { th with
    vpois := x.vpois
    ppois := x.ppois
    paths :=
      { th.paths with
        slot0 := { th.paths.slot0 with spois := w 0 }
        slot1 := { th.paths.slot1 with spois := w 1 }
        buried := x.buried
        stack := ((List.range th.paths.stack.length).zip th.paths.stack).map fun (i, e) =>
          { e with slot := { e.slot with spois := w (i + 2) } } } }

/-- The wave has left the rendezvous latch: slots held there issue their words again. -/
def Thread.unlatched (th : Thread) : Thread :=
  let free (x : Slot) : Slot := if x.hold = .latch then { x with hold := .free } else x
  { th with
    paths := { th.paths with slot0 := free th.paths.slot0, slot1 := free th.paths.slot1,
                             stack := th.paths.stack.map fun e => { e with slot := free e.slot }
                             buried := th.paths.buried.map fun y => { y with slot := free y.slot } } }

/-- The wave stops issuing (R307): it leaves the rendezvous latch, and its arms are dropped (R364). -/
def startLeaving (s : State) (t : ThreadRef) : State :=
  let s := s.modCore t.core fun k => { k with arrivals := k.arrivals.filter fun a => a.member.thread ≠ t }
  s.modThread t fun th => { th.unlatched with evict := .leaving s.tick, arms := [] }

/-- The place of a resident block in its cluster. -/
def rankIn (s : State) (core block : Nat) (b : Block) : Nat :=
  (((find s.clusters b.cluster).bind fun x => x.blocks.find? fun e => e.2 = some (core, block)).map (·.1)).getD 0

/-- The cluster's place for a block now. -/
def setPlace (s : State) (cluster rank : Nat) (p : Nat × Nat) : State :=
  { s with clusters := adjust s.clusters cluster fun x => { x with blocks := insert x.blocks rank (some p) } }

/-! ### Wave eviction (R305 to R307) -/

/-- A wave may be chosen (R306). -/
def eligible (s : State) (b : Block) (th : Thread) : Bool :=
  !th.ccp && !th.ended && th.depth = 0 && !th.parked && !th.restarting && th.log.isEmpty && th.faulted.isEmpty && !b.halted && b.leaving.isNone && th.evict = .here && !(s.launchOf b).det

/-- Blocks by their latest placement or restore, the youngest first (R306). -/
def youngestFirst (bs : List (Nat × Block)) : (fuel : Nat) → List (Nat × Block)
  | 0 => []
  | n + 1 =>
    match bs.foldl (fun (m : Option (Nat × Block)) x => match m with
      | none => some x
      | some y => if y.2.placedAt ≤ x.2.placedAt then some x else some y) none with
    | none => []
    | some x => x :: youngestFirst (bs.filter fun y => y.1 ≠ x.1) n

/-- The candidates of a core in order (R306), but for those passed over. -/
def candidates (s : State) (core : Nat) (passed : List Nat) : List ThreadRef :=
  let bs := (s.coreAt core).blocks
  flatten ((youngestFirst bs bs.length).map fun (n, b) =>
    (b.threads.reverse.filter fun (t, th) => eligible s b th && !passed.contains (waveKey ⟨core, n, t⟩)).map fun (t, _) => ⟨core, n, t⟩)

/-- The fewest candidates whose leaving makes n waves of a launch fit on a core (R306). -/
def fewest (s : State) (core : Nat) (l : Launch) (n : Nat) (passed : List Nat) : Option (List ThreadRef) :=
  let k := s.coreAt core
  let cs := candidates s core passed
  let fits (m : Nat) : Bool :=
    let freed := ((cs.take m).map fun t => ((s.threadAt t).map fun th => th.regs * 128).getD 0).sum
    decide (n ≤ (freePlaces k).sum + m) && decide (regBytes k + n * l.regs * 128 ≤ 524288 + freed)
  ((List.range (cs.length + 1)).find? fits).map cs.take

/-- A core's room is for a waiting cluster. -/
def Room.isFor (r : Room) (w : Waiting) : Bool := r.launch = w.launch && w.blocks.head?.any fun b => b.2.2 = r.first

/-- A core's room for a waiting cluster. -/
def roomFor (s : State) (w : Waiting) (core : Nat) : Option Room := (s.coreAt core).room.filter fun r => r.isFor w

/-- A block is on its way to a core, which keeps its room (R314). -/
def movesTo (s : State) (core : Nat) : Bool := s.blocks.any fun (_, _, b) => b.leaving = some (some core)

/-- The waves that must leave for a cluster that starts at a core: every core passes R296 apart from registers and places. -/
def leaversFrom (s : State) (w : Waiting) (l : Launch) (core : Nat) : Option (List ThreadRef) :=
  let one (x : Nat × Nat × Nat) : Option (List ThreadRef) := match rectCore core x.1 x.2.1 with
    | none => none
    | some c => if restFits s c l && !movesTo s c then fewest s c l l.waves (((roomFor s w c).map (·.passed)).getD []) else none
  let xs := w.blocks.map one
  if xs.all (·.isSome) then some (flatten (xs.filterMap id)) else none

/-- The core that an eviction for a waiting cluster has been making room at, unless it was given up. -/
def attemptAt (s : State) (w : Waiting) : Option Nat :=
  (s.cores.find? fun (c, k) => k.room.any fun r => r.isFor w && r.start = c && !r.given).map (·.1)

/-- The first core that needs the fewest waves to leave, with them (R305): of those not given up, or the one where an eviction has
begun, which takes its next candidates (R307). -/
def bestCore (s : State) (w : Waiting) (l : Launch) : Option (Nat × List ThreadRef) :=
  match attemptAt s w with
  | some c => (leaversFrom s w l c).map fun xs => (c, xs)
  | none =>
    ((List.range coreCount).filter fun c => !(roomFor s w c).any (·.given)).foldl (fun m c => match leaversFrom s w l c, m with
      | none, m => m
      | some xs, none => some (c, xs)
      | some xs, some (d, ys) => if xs.length < ys.length then some (c, xs) else some (d, ys)) none

/-- A launch's waiting cluster that fits nowhere. -/
def stuckWaiting (s : State) (launch : Nat) : Option (Waiting × Launch) :=
  match s.launchAt launch with
  | none => none
  | some l => ((waitingOf s l.partition).find? fun w => w.launch = launch && !fitsSomewhere s w).map fun w => (w, l)

/-- Waves of a core that are leaving on their own, their block staying. -/
def leavers (s : State) (core : Nat) : List (ThreadRef × Thread) :=
  flatten ((s.coreAt core).blocks.map fun (n, b) =>
    if b.leaving.isSome then []
    else (b.threads.filter fun (_, th) => th.evict ≠ .here).map fun (t, th) => (⟨core, n, t⟩, th))

/-- The waves that have drained may be saved: a halted wave is never evicted (R317). -/
def savable (s : State) (t : ThreadRef) (th : Thread) : Bool :=
  drained s t th && ((s.blockAt t.core t.block).map fun b => !b.halted).getD false

/-- Save a wave to the area and take it off its core (R307); its eviction is given up where the area has no room, and an uncorrectable
error in the write aborts the block (R308). -/
def saveWave (s : State) (t : ThreadRef) (th : Thread) : State :=
  match s.blockAt t.core t.block with
  | none => s
  | some b =>
    let part := (s.launchOf b).partition
    let k := s.coreAt t.core
    let n := waveSize th.regs
    match areaRoom (s.partAt part).areaSize (usedRanges (s.partAt part)) n with
    | none => s.modThread t fun th => { th with evict := .here }
    | some o =>
      if badPlace s part [(o, n)] then abortBlock s t .uncorrectable th.paths.slot0.pc
      else
        let m : SavedImage :=
          { launch := b.launch, blklin := b.blklin, core := t.core, wave := some t.thread, places := [(t.thread, o, n)],
            beside := [th.beside], rpois := [], rank := 0, cb2Loaded := k.cb2Loaded, cb2 := k.cb2, cluster := b.cluster }
        let s := writeImage s part o (waveImage k th)
        let s := s.modPart part fun p => { p with evicted := p.evicted ++ [m] }
        let s := s.modBlock t.core t.block fun b =>
          { b with threads := remove b.threads t.thread, out := setAdd b.out t.thread, images := insert b.images t.thread o }
        s.modCore t.core fun k =>
          { k.modQuad th.quad (fun q => q.leave (waveKey t)) with walks := k.walks.filter fun w => w.thread ≠ t }

/-- Bytes of the area that the images of some waves take. -/
def imageSizes (s : State) (ts : List ThreadRef) : List Nat :=
  ts.map fun t => waveSize (((s.threadAt t).map (·.regs)).getD 0)

/-- Bytes of the area that the images of blocks and waves of a partition that are leaving already will take (R308). -/
def leavingSizes (s : State) (part : Nat) : List Nat :=
  let own := s.blocks.filterMap fun (_, _, b) =>
    if b.leaving.isSome && (s.launchOf b).partition = part then some (blockSize (s.launchOf b)) else none
  own ++ s.threads.filterMap fun (t, th) =>
    if th.evict ≠ .here && !th.ended && partOf s t = part then some (waveSize th.regs) else none

/-- The area of a partition has room for images beside those it holds and those of blocks and waves that are leaving already
(R308). -/
def areaHolds (s : State) (part : Nat) (sizes : List Nat) : Bool :=
  let going := leavingSizes s part
  (areaRooms (s.partAt part).areaSize (usedRanges (s.partAt part)) (going ++ sizes)).isSome

/-- Cores keep room for a waiting cluster that starts at one of them. -/
def keepRoom (s : State) (w : Waiting) (start : Nat) (cores : List Nat) : State :=
  let first := ((w.blocks.head?).map (·.2.2)).getD 0
  cores.foldl (fun s c => s.modCore c fun k =>
    let passed := ((k.room.filter fun r => r.isFor w).map (·.passed)).getD []
    { k with room := some { launch := w.launch, first := first, start := start, passed := passed, given := false } }) s

/-- The cores of a waiting cluster that starts at a core. -/
def clusterCores (w : Waiting) (core : Nat) : List Nat := w.blocks.filterMap fun (i, j, _) => rectCore core i j

/-- A wave is leaving a core, or a block of it. -/
def coreLeaving (s : State) (core : Nat) : Bool :=
  !(leavers s core).isEmpty || (s.coreAt core).blocks.any fun (_, b) => b.leaving = some none

/-- Nothing is leaving the cores of a waiting cluster that starts at a core. -/
def noneLeaving (s : State) (w : Waiting) (core : Nat) : Bool := (clusterCores w core).all fun c => !coreLeaving s c

/-- The core at which an eviction for a launch's waiting cluster goes on: the best, or the one to give up. -/
def evictionCore (s : State) (launch : Nat) : Option Nat :=
  (stuckWaiting s launch).bind fun (w, l) => match bestCore s w l with
    | some (c, _) => some c
    | none => attemptAt s w

/-- A core is given up for a waiting cluster: no candidate is left on it (R307). -/
def giveUp (s : State) (core : Nat) : State :=
  s.modCore core fun k => { k with room := k.room.map fun r => { r with given := true } }

/-- WAVE_EVICTION (R305, R307): a chosen wave that has drained is saved; else waves are chosen for a launch's next block, or a core on
which none is left is given up. -/
def execWaveEviction (launch core : Nat) (s : State) : Host.Outcome State Fault Refusal :=
  match (leavers s core).find? fun (t, th) => savable s t th with
  | some (t, th) => .next (saveWave s t th)
  | none =>
    if !(leavers s core).isEmpty then .refused .notDue
    else match stuckWaiting s launch with
      | none => .refused .notDue
      | some (w, l) => match bestCore s w l with
        | none => event (attemptAt s w = some core && noneLeaving s w core) (giveUp s core)
        | some (c, ts) =>
          event (c = core && funded s l.partition && !ts.isEmpty && noneLeaving s w core && areaHolds s l.partition (imageSizes s ts))
            (ts.foldl startLeaving (keepRoom s w core (clusterCores w core)))

/-- A thread that has not left issues again. -/
def stay (th : Thread) : Thread := { th with evict := .here }

/-- The core's room notes a wave whose eviction has been given up: the next candidate is taken (R307). -/
def Core.passOver (k : Core) (key : Nat) : Core :=
  { k with room := k.room.map fun r => { r with passed := setAdd r.passed key } }

/-- A block whose eviction is given up issues again. -/
def Block.stays (b : Block) : Block :=
  { b with leaving := none, threads := b.threads.map fun (n, th) => (n, stay th) }

/-- No eviction has followed an expiry within a control interval: the count restarts (R311). -/
def Block.restartSlice (b : Block) : Block :=
  if b.expired && b.leaving.isNone then
    { b with expired := false, threads := b.threads.map fun (n, th) => (n, { th with expired := false, accepted := false }) }
  else b

/-- The blocks that leave with a block: its cluster's. -/
def leavesWith (s : State) (core block : Nat) (b : Block) : List (Nat × Nat) :=
  match find s.clusters b.cluster with
  | none => [(core, block)]
  | some x => x.blocks.filterMap fun (_, p) => p.bind fun q => if (s.blockAt q.1 q.2).isSome then some q else none

/-- EVICTION_ABANDON (R307): the wave issues again, and with it a block that was leaving, whose slice restarts (R311), and the blocks of
its cluster, which leave together or not at all (R305). -/
def execEvictionAbandon (t : ThreadRef) (s : State) : Host.Outcome State Fault Refusal :=
  match s.threadAt t, s.blockAt t.core t.block with
  | some th, some b =>
    if th.evict = .here || drained s t th then .refused .notDue
    else if b.leaving.isSome then
      .next ((leavesWith s t.core t.block b).foldl (fun s (c, n) => s.modBlock c n fun x =>
        if x.leaving.isSome then x.stays.restartSlice else x) s)
    else .next ((s.modThread t stay).modCore t.core fun k => k.passOver (waveKey t))
  | _, _ => .refused .notDue

/-! ### Time slices (R311) -/

/-- TIME_SLICE_EXPIRY (R311): the expiry reaches every wave of the block; each accepts it in `settle`, at DEPTH 0 (R269). -/
def execTimeSliceExpiry (core block : Nat) (s : State) : Host.Outcome State Fault Refusal :=
  match s.blockAt core block with
  | none => .refused .notDue
  | some b =>
    let l := s.launchOf b
    event (l.slice ≠ 0 && !l.det && !b.halted && !b.threads.all (fun (_, th) => th.ccp || th.expired))
      (s.modBlock core block fun b =>
        { b with threads := b.threads.map fun (n, th) => (n, if th.ccp then th else { th with expired := true }) })

/-! ### Block eviction (R305, R307, R310) -/

/-- A block begins to leave: its waves stop issuing (R307). -/
def startBlockLeaving (s : State) (core block : Nat) (target : Option Nat) : State :=
  match s.blockAt core block with
  | none => s
  | some b =>
    let s := s.modBlock core block fun b => { b with leaving := some target }
    b.threads.foldl (fun s (t, th) => if th.ccp then s else startLeaving s ⟨core, block, t⟩) s

/-- Everything a leaving block must end before it is saved has ended (R222, R307, R310); a halted block stays (R272, R317). -/
def blockDrained (s : State) (core block : Nat) : Bool :=
  match s.blockAt core block with
  | none => true
  | some b => b.leaving.isSome && !b.halted && b.threads.all (fun (t, th) => drained s ⟨core, block, t⟩ th) &&
      b.rings.all fun (_, r) => r.waiting.isEmpty

/-- The bytes of each image that a block's eviction writes: its block context, then its waves. -/
def blockSizes (s : State) (b : Block) : List Nat :=
  blockSize (s.launchOf b) :: (b.threads.filter fun (_, th) => !th.ccp && !th.ended).map fun (_, th) => waveSize th.regs

/-- Put block and wave images at the places found for them. -/
def writeImages (s : State) (part : Nat) : List (Nat × Nat) → List (List Byte) → State
  | (o, _) :: os, bs :: rest => writeImages (writeImage s part o bs) part os rest
  | _, _ => s

/-- Save a block whole: its block context, then its waves; images of waves that were out already stay where they are
(R307, R310). Fault records of the block that no handler has read leave the core's queue (log 110). None where the area has no room. -/
def saveBlock (s : State) (core block : Nat) : Option (State × SavedImage) :=
  match s.blockAt core block with
  | none => none
  | some b =>
    let l := s.launchOf b
    let part := l.partition
    let k := s.coreAt core
    let waves := b.threads.filter fun (_, th) => !th.ccp && !th.ended
    let out := (s.partAt part).evicted.filter fun m => m.launch = b.launch && m.blklin = b.blklin && m.wave.isSome
    match areaRooms (s.partAt part).areaSize (usedRanges (s.partAt part)) (blockSizes s b) with
    | none => none
    | some rooms =>
      let rank := rankIn s core block b
      let m : SavedImage :=
        { launch := b.launch, blklin := b.blklin, core := core, wave := none
          places := ((0 :: waves.map (·.1)).zip rooms).map (fun (w, r) => (w, r.1, r.2)) ++ flatten (out.map (·.places))
          beside := waves.map (fun (_, th) => th.beside) ++ flatten (out.map (·.beside))
          rpois := b.rpois, rank := rank, cb2Loaded := k.cb2Loaded, cb2 := k.cb2, cluster := b.cluster }
      let s := writeImages s part rooms (blockImage l b b.barMasks :: waves.map fun (_, th) => waveImage k th)
      let s := forgetBlock s core block
      let s := s.modCore core fun k =>
        { k.forgetRecords (·.block = block) with
          blocks := remove k.blocks block
          walks := k.walks.filter fun w => w.thread.block ≠ block
          quads := k.quads.map fun (n, q) =>
            (n, (q.active ++ q.pending).foldl (fun q x => if x / 64 = block then q.leave x else q) q) }
      let s := setPlace s b.cluster rank (awayPlace b.blklin)
      some (s.modPart part fun p => { p with evicted := p.evicted.filter (fun x => !out.contains x) ++ [m] }, m)

/-- Save every block of a list; none where one finds no room. -/
def saveBlocks (s : State) : List (Nat × Nat) → Option State
  | [] => some s
  | (c, b) :: rest => match saveBlock s c b with
    | none => none
    | some (s, _) => saveBlocks s rest

/-- A context write of a block's eviction would meet an uncorrectable error (R308, log 96). -/
def blockPlaceBad (s : State) (core block : Nat) : Bool :=
  ((s.blockAt core block).map fun b =>
    let part := (s.launchOf b).partition
    ((areaRooms (s.partAt part).areaSize (usedRanges (s.partAt part)) (blockSizes s b)).map (badPlace s part)).getD false).getD false

/-- A waiting cluster of a funded partition that fits no core (R305): that of the lowest partition. -/
def waitingNowhere (s : State) : Option Waiting :=
  (List.range partitionCount).findSome? fun p =>
    if funded s p then (waitingOf s p).find? fun w => !fitsSomewhere s w else none

/-- A block may begin to leave (R269, R307, R311): its slice has expired, it is not halted, and no wave of it runs a handler or has a
trap or a restart to take. -/
def mayLeave (s : State) (core block : Nat) : Bool :=
  match s.blockAt core block with
  | none => true
  | some b => !b.halted && b.leaving.isNone && b.threads.all fun (_, th) => th.ccp || th.ended || (th.depth = 0 && !th.parked && !th.restarting)

/-- Every block of a core has an expired slice. -/
def allExpired (s : State) (core : Nat) : Bool := (s.coreAt core).blocks.all fun (_, b) => b.expired

/-- The blocks that leave with an expired block for a waiting cluster: those of its cluster; for a block of another partition every
block of the core, once each has expired (R305). -/
def leavesFor (s : State) (w : Waiting) (core block : Nat) (b : Block) : List (Nat × Nat) :=
  let p := (s.launchAt w.launch).map (·.partition)
  if p ≠ (s.coreAt core).partition && allExpired s core then
    (flatten ((s.coreAt core).blocks.map fun (n, x) => leavesWith s core n x)).eraseDups
  else leavesWith s core block b

/-- Blocks of a list begin to leave: each of its cores keeps room for the waiting cluster (R281, R305). -/
def startAll (s : State) (w : Waiting) (all : List (Nat × Nat)) : State :=
  all.foldl (fun s (c, n) => startBlockLeaving (keepRoom s w c [c]) c n none) s

/-- BLOCK_EVICTION (R305, R307): an expired block begins to leave for a block that fits nowhere, where the area has room for it; once it
and its cluster have drained, they are saved, or stay where the area has no room any more. An uncorrectable error in the write
aborts the block (R308). -/
def execBlockEviction (core block : Nat) (s : State) : Host.Outcome State Fault Refusal :=
  match s.blockAt core block with
  | none => .refused .notDue
  | some b =>
    match b.leaving with
    | some (some _) => .refused .notDue
    | some none =>
      let all := leavesWith s core block b
      if !all.all fun x => blockDrained s x.1 x.2 then .refused .notDue
      else match all.find? fun x => blockPlaceBad s x.1 x.2 with
        | some (c, n) => .next (abortBlock s ⟨c, n, 0⟩ .uncorrectable 0)
        | none => .next ((saveBlocks s all).getD (all.foldl (fun s (c, n) => s.modBlock c n Block.stays) s))
    | none => match waitingNowhere s with
      | none => .refused .notDue
      | some w =>
        let all := leavesFor s w core block b
        let sizes (x : Nat × Nat) : List Nat := ((s.blockAt x.1 x.2).map (blockSizes s)).getD []
        event (b.expired && all.all (fun x => mayLeave s x.1 x.2) &&
          areaHolds s (s.launchOf b).partition (flatten (all.map sizes))) (startAll s w all)

/-! ### Restore (R312) -/

/-- The waiting cluster that a core keeps room for: while waves or blocks leave for it, and then while it can start (R305). -/
def heldRoom (s : State) (core : Nat) : Option Waiting :=
  match (s.coreAt core).room with
  | none => none
  | some r =>
    if r.given then none
    else match s.launchAt r.launch with
      | none => none
      | some l => (waitingOf s l.partition).find? fun w =>
          r.isFor w && (!noneLeaving s w r.start || (startAt s w r.start).isSome)

/-- The core's cb2 state is this one (R54, R312). -/
def sameCb2 (k : Core) (part : Nat) (wasLoaded : Bool) (cb2 : List (Nat × Half)) : Bool :=
  let loaded := k.cb2Loaded && k.partition = some part
  loaded == wasLoaded && (!loaded || k.cb2 = cb2)

/-- The waves that an image of a block brings back. -/
def SavedImage.waves (m : SavedImage) : Nat := m.places.length - 1

/-- The images of the blocks that return together with one. -/
def returnsWith (p : Partition) (m : SavedImage) : List SavedImage :=
  p.evicted.filter fun x => x.wave.isNone && x.launch = m.launch && x.cluster = m.cluster

/-- The residency slot of a block on a core. -/
def slotOn (s : State) (core launch blklin : Nat) : Option Nat :=
  ((s.coreAt core).blocks.find? fun (_, b) => b.launch = launch && b.blklin = blklin).map (·.1)

/-- Where an image, and those that return with it, would go if it starts at a core: image and core. -/
def restoreAt (s : State) (part : Nat) (m : SavedImage) (core : Nat) : Option (List (SavedImage × Nat)) :=
  match s.launchAt m.launch with
  | none => none
  | some l =>
    if m.wave.isSome then
      if m.core = core && (heldRoom s core).isNone && !movesTo s core && (slotOn s core m.launch m.blklin).isSome && wavesFit (s.coreAt core) l 1 then some [(m, core)] else none
    else
      let xs := (returnsWith (s.partAt part) m).map fun x =>
        match rectCore core (x.rank % l.clusterW) (x.rank / l.clusterW) with
        | none => none
        | some c =>
          if coreFits s c l x.waves && (heldRoom s c).isNone && !movesTo s c && sameCb2 (s.coreAt c) part x.cb2Loaded x.cb2 then some (x, c) else none
      if core < coreCount && xs.all (·.isSome) then some (xs.filterMap id) else none

/-- The quadrant with the most free places, ties to the lowest. -/
def bestQuad (k : Core) : Nat := (assignQuads (freePlaces k) 1).headD 0

/-- A wave of an image comes back into a resident block (R312); true where its image holds an uncorrectable error. -/
def restoreWave (s : State) (part core slot : Nat) (m : SavedImage) (place : Nat × Nat × Nat) : State × Bool :=
  let (w, o, n) := place
  let (bs, bad) := readImage s part o n
  let quad := bestQuad (s.coreAt core)
  let th := waveFrom s part quad bs
  let th := match m.beside.find? fun x => x.wave = w with
    | some x => th.withBeside x
    | none => th
  let s := s.modBlock core slot fun b =>
    { b with threads := insert b.threads w th, out := setDrop b.out w, images := remove b.images w }
  (s.modCore core fun k => k.modQuad quad fun q => q.enter (waveKey ⟨core, slot, w⟩), bad)

/-- A block comes back to a core (R312). -/
def restoreBlock (s : State) (part core : Nat) (m : SavedImage) : State :=
  match s.launchAt m.launch, m.places with
  | some l, (_, o, n) :: rest =>
    let s := s.modCore core fun k => k.handOver part
    let slot := freeSlot (s.coreAt core)
    let (bs, bad) := readImage s part o n
    let b := { blockFrom s l m.launch m.cluster bs with rpois := m.rpois }
    let s := setPlace (putBlock s core slot b) m.cluster m.rank (core, slot)
    let (s, bad) := rest.foldl (fun (acc : State × Bool) x =>
      let (s, e) := restoreWave acc.1 part core slot m x
      (s, acc.2 || e)) (s, bad)
    if bad then abortBlock s ⟨core, slot, 0⟩ .uncorrectable 0 else s
  | _, _ => s

/-- One image comes back; an uncorrectable error in it aborts its block (R308). -/
def restoreImage (s : State) (part : Nat) (m : SavedImage) (core : Nat) : State :=
  let s := s.modPart part fun p => { p with evicted := p.evicted.filter (· ≠ m) }
  match m.wave with
  | none => restoreBlock s part core m
  | some _ => match slotOn s core m.launch m.blklin, m.places with
    | some slot, place :: _ =>
      let (s, bad) := restoreWave s part core slot m place
      if bad then abortBlock s ⟨core, slot, place.1⟩ .uncorrectable 0 else s
    | _, _ => s

/-- The oldest image of a partition that some core can take now (R312). -/
def restorable (s : State) (part : Nat) : Option SavedImage :=
  (s.partAt part).evicted.find? fun m =>
    if m.wave.isSome then (restoreAt s part m m.core).isSome
    else (List.range coreCount).any fun c => (restoreAt s part m c).isSome

/-! ### What is served next (R295, R312) -/

/-- A waiting cluster may start at a core: it fits, and no core of it keeps room for another, or for a block on its way there. -/
def mayStart (s : State) (w : Waiting) (core : Nat) : Bool :=
  (startAt s w core).isSome && (clusterCores w core).all fun c => !movesTo s c && (heldRoom s c).all fun x => x = w

/-- What a partition could place now: a launch whose next block fits nowhere is passed over (R295). -/
def readyOf (s : State) (p : Nat) : Option Waiting :=
  (waitingOf s p).find? fun w => (List.range coreCount).any (mayStart s w)

/-- A partition that may be served: a block is ready to place or to return, and it is funded (R295, R312). -/
def mayServe (s : State) (p : Nat) : Bool := funded s p && ((restorable s p).isSome || (readyOf s p).isSome)

/-- The partition served next: the highest balance, ties round-robin from the one served last (R295). -/
def serveNext (s : State) : Option Nat :=
  (((List.range partitionCount).map fun i => (s.served + 1 + i) % partitionCount).filter (mayServe s)).foldl
    (fun m p => match m with
      | none => some p
      | some x => if (s.partAt x).balance < (s.partAt p).balance then some p else some x) none

/-- RESTORE (R312): images of the partition that is served come before its launches. -/
def execRestore (partition core : Nat) (s : State) : Host.Outcome State Fault Refusal :=
  if serveNext s ≠ some partition then .refused .notDue
  else match (restorable s partition).bind fun m => restoreAt s partition m core with
    | none => .refused .notDue
    | some xs => .next (xs.foldl (fun s (m, c) => restoreImage s partition m c) { s with served := partition })

/-! ### Migration (R314) -/

/-- A block may not be moved (R314). -/
def barred (s : State) (b : Block) : Bool :=
  let waits (x : Slot) : Bool := match x.hold with
    | .waitb .. | .arrive _ => true
    | _ => false
  b.halted || (s.launchOf b).det || ((find s.clusters b.cluster).any fun x => 1 < x.blocks.length) ||
  b.threads.any fun (_, th) =>
    (th.ccp && th.cmds.any fun x => x.status.isNone) ||
    (!th.ccp && (waits th.paths.slot0 || waits th.paths.slot1 || th.depth ≠ 0 || th.parked || !th.log.isEmpty ||
      !th.faulted.isEmpty))

/-- Waves that a block brings where it moves: those with an image to write, and those whose image the area holds. -/
def Block.movers (b : Block) : Nat := (b.threads.filter fun (_, th) => !th.ccp && !th.ended).length + b.out.length

/-- The target of a move can take the block at once: it passes R296, and its cb2 state is that of the block's core (R312, R314). -/
def targetTakes (s : State) (core target : Nat) (b : Block) : Bool :=
  let k := s.coreAt core
  let l := s.launchOf b
  coreFits s target l b.movers && sameCb2 (s.coreAt target) l.partition k.cb2Loaded k.cb2

/-- A move may begin: the target takes the block, and keeps no room for another. -/
def moveFits (s : State) (core target : Nat) (b : Block) : Bool :=
  targetTakes s core target b && (heldRoom s target).isNone && !movesTo s target

/-- MIGRATION (R314, R331): from a core offered above 95 °C to one of its die below 80 °C, the block leaves, and once drained passes
through eviction and restore at once, the target keeping its room; a request that meets a barred block is dropped, and so is one
whose block has come to be barred, or whose target has ceased to take it, meanwhile (log 111). -/
def execMigration (core block target : Nat) (s : State) : Host.Outcome State Fault Refusal :=
  if coreCount ≤ target then .fault .outsideModule
  else match s.blockAt core block with
    | none => .refused .notDue
    | some b =>
      let l := s.launchOf b
      match b.leaving with
      | some (some x) =>
        if x ≠ target then .refused .notDue
        else if barred s b then .next (s.modBlock core block Block.stays)
        else if !blockDrained s core block then .refused .notDue
        else if !targetTakes s core target b then .next (s.modBlock core block Block.stays)
        else if blockPlaceBad s core block then .next (abortBlock s ⟨core, block, 0⟩ .uncorrectable 0)
        else match saveBlock s core block with
          | none => .next (s.modBlock core block Block.stays)
          | some (s, m) => .next (restoreImage s l.partition m target)
      | some none => .refused .notDue
      | none =>
        if dieOf target ≠ dieOf core || target = core || !(s.coreAt core).gear.offered || 80 ≤ (s.coreAt target).gear.celsius then
          .refused .notDue
        else if barred s b || !moveFits s core target b || !areaHolds s l.partition (blockSizes s b) then .next s
        else .next (startBlockLeaving s core block (some target))

/-! ### Placement (R295, R296) -/

/-- The cluster of a launch that the dispatcher places next, if it serves that launch now; images that can return come
first (R312). -/
def placeDue (s : State) (launch core : Nat) : Option (Waiting × List (Nat × Nat × Nat)) :=
  match serveNext s with
  | none => none
  | some p => match readyOf s p with
    | none => none
    | some w =>
      if w.launch = launch && (restorable s p).isNone && mayStart s w core then (startAt s w core).map fun ps => (w, ps) else none

/-- BLOCK_PLACEMENT (R295, R296): the next cluster of a launch starts with its first block on a core. -/
def execBlockPlacement (launch core : Nat) (s : State) : Host.Outcome State Fault Refusal :=
  if coreCount ≤ core then .fault .outsideModule
  else match placeDue s launch core with
    | none => .refused .notDue
    | some (w, ps) => .next (placeCluster s w ps)

end Sys2Proof.Machine
end

