-- ==== Sys2Proof/Machine/Control.lean ====
section
/-! DEFINITION. Control flow (R146 to R162): branches, calls, splits and merges, EXIT, YIELD, SLEEP, TRAP and BKPT, and the
steps of the wave scheduler. -/

namespace Sys2Proof.Machine
open Sys2Proof

/-! ### Targets (R23, R146, R159) -/

/-- The target of a relative branch: the next word's address and four times the signed offset, within the window. -/
def branchTarget {w : Nat} (pc : Word) (o : BitVec w) : Word := pc + 4 + o.signExtend 32 * 4

/-- An indirect target lies in the window and on a word (R159). -/
def targetOk (l : Launch) (ccp : Bool) (x : Nat) : Bool := x / 2 ^ 32 = l.window ccp && x % 4 = 0

/-- Raise cause 0x03 at the word for an indirect target, which FAULTVA holds. Lanes that a guard leaves out go on to the next word
(log 9). -/
def Ctx.badTarget (c : Ctx) (x : Nat) (s : State) : State := c.raise .address c.eff 0 (x % 2 ^ 56) s

/-- Write the address of the next word to s31 and jump (R159). -/
def Ctx.link (c : Ctx) (target : Word) (s : State) : State := c.jump target (c.putScalar (sreg 31) c.next.toNat s)

/-- NOP (R158). -/
def execNop (s : State) : Host.Outcome State Fault Refusal := perform .nop (fun c s => c.stepOn s) s

/-- BRA: all lanes of the slot (R158). -/
def execBra (o : BitVec 20) (s : State) : Host.Outcome State Fault Refusal :=
  perform (.bra o) (fun c s => c.jump (branchTarget c.cur.pc o) s) s

/-- JOINAT (R158). -/
def execJoinat (o : BitVec 20) (s : State) : Host.Outcome State Fault Refusal :=
  perform (.joinat o)
    (fun c s => c.stepOn (s.modSlot c.ref c.slot fun x => { x with jpc := branchTarget c.cur.pc o })) s

/-- CALL (R159). -/
def execCall (o : BitVec 20) (s : State) : Host.Outcome State Fault Refusal :=
  perform (.call o) (fun c s => c.link (branchTarget c.cur.pc o) s) s

/-- CALLX: the pair is read before s31 is written (R159). -/
def execCallx (a : Reg) (s : State) : Host.Outcome State Fault Refusal :=
  perform (.callx a) (fun c s =>
    let x := c.pair a
    if targetOk c.launch c.thread.ccp x then c.link (BitVec.ofNat 32 x) s else c.badTarget x s) s

/-- BRX (R159). -/
def execBrx (a : Reg) (s : State) : Host.Outcome State Fault Refusal :=
  perform (.brx a) (fun c s =>
    let x := c.pair a
    if targetOk c.launch c.thread.ccp x then c.jump (BitVec.ofNat 32 x) s else c.badTarget x s) s

/-- RET: within the window at s31 (R159). -/
def execRet (s : State) : Host.Outcome State Fault Refusal :=
  perform .ret (fun c s =>
    let x := c.scalar 31
    if x.toNat % 4 = 0 then c.jump x s else c.badTarget (c.launch.window c.thread.ccp * 2 ^ 32 + x.toNat) s) s

/-- LOOP: decrement, and branch while the counter is not 0 (R158). -/
def execLoop (d : Reg) (i : BitVec 16) (s : State) : Host.Outcome State Fault Refusal :=
  perform (.loop d i) (fun c s =>
    let x := c.uniform d - 1
    let s := c.putScalar d x.toNat s
    if x ≠ 0 then c.jump (branchTarget c.cur.pc i) s else c.stepOn s) s

/-! ### Divergence (R151 to R154, R259) -/

/-- The split of a mixed BRP (R151): the push of a live frame's sibling may fault or wait (R154). Where that push finds the stack full, or
its write faults, the whole slot parks at the BRP and EXCMASK holds its effective lanes: of a partial guard the model's choice
(log 117). -/
def Ctx.split (c : Ctx) (i : Instr) (taken target : Word) (s : State) : State :=
  let stay (cause : Cause) (synd va : Nat) : State :=
    parkLanes (dropWalks s c.ref) c.ref c.slot
      { cause := cause, lanes := c.eff, synd := BitVec.ofNat 32 (16 * synd), va := va, pc := c.cur.pc, seq := c.seq }
      c.cur.mask c.next
  match splitSlot s c.ref c.slot taken target c.next with
  | .ok s => if 2 ^ 32 ≤ c.cur.pc.toNat + 4 then parkPastEnd s c.ref c.cur.pc c.seq else s
  | .full va => stay .address 0 va
  | .waits s => c.holdAt .walk s
  | .fault .page _ va vas =>
    if c.thread.logFree then
      (dropWalks s c.ref).modThread c.ref fun th =>
        { th.modSlot c.slot (fun x => { x with pc := c.cur.pc }) with
          faulted := th.faulted ++ [spillEntry th c.slot i .spillWrite c.seq c.cur.pc c.cur.mode c.eff va vas] }
    else c.holdAt .queue (dropWalks s c.ref)
  | .fault cause synd va _ => stay cause synd va

/-- Lanes of a BRP whose predicate or guard is poisoned (R359). -/
def Ctx.branchPoison (c : Ctx) (p : BitVec 3) : Word :=
  (c.thread.predPoison p.toNat ||| c.thread.predPoison (modeG c.cur.mode)) &&& c.eff

/-- A BRP whose lanes are known (R151, R259). In a handler the lowest lane decides for all. -/
def Ctx.branch (c : Ctx) (i : Instr) (taken target : Word) (s : State) : State :=
  if c.thread.depth ≠ 0 then
    if hasLane taken (lowestLane c.eff) then c.jump target s else c.stepOn s
  else if taken = 0 then c.stepOn s
  else if taken = c.cur.mask then c.jump target s
  else c.split i taken target s

/-- BRP (R151). Lanes that consume poison are parked at the word, and the rest issue it again. -/
def execBrp (p : BitVec 3) (n : Bool) (o : BitVec 20) (s : State) : Host.Outcome State Fault Refusal :=
  let i := Instr.brp p n o
  issue i (fun c s =>
    let bad := c.branchPoison p
    if c.thread.armed 1 then c.raiseUnit 1 c.eff (c.fire 1 s)
    else if bad ≠ 0 then
      if restarts c.thread then c.consumed bad 0 0 s
      else
        parkLanes s c.ref c.slot { cause := .uncorrectable, lanes := bad, pc := c.cur.pc, seq := c.seq } bad c.cur.pc
    else c.branch i (c.taken p n) (branchTarget c.cur.pc o) s) s

/-- A wave merges at its join (R152): each frame slot is at the join or empty. -/
def mergeDue (th : Thread) : Bool :=
  match th.paths.frame with
  | none => false
  | some _ =>
    !th.ended && th.paths.slot0.park.isNone && th.paths.slot1.park.isNone && th.faulted.isEmpty && (dueLog th).isEmpty &&
    (atJoin th.paths false || th.paths.slot0.mask = 0) && (atJoin th.paths true || th.paths.slot1.mask = 0)

/-- The slot a merge leaves: the lanes of both, the frame's MODE and FMT, and the scalars of slot 0 where it holds lanes. -/
def mergedSlot (p : Paths) (f : Frame) (jpc : Word) : Slot :=
  let x := if p.slot0.mask ≠ 0 then p.slot0 else p.slot1
  { x with pc := f.j, mask := p.slot0.mask ||| p.slot1.mask, mode := f.mode, fmt := f.fmt, jpc := jpc, hold := .free }

/-- The wave has no lanes and nothing parked: it ends (R160). -/
def endIfEmpty (th : Thread) : Thread := if th.noLanes then th.endNow else th

/-- The paths after a merge with an empty stack (R152). -/
def mergeLast (th : Thread) (f : Frame) : Thread :=
  endIfEmpty { th with paths := { th.paths with slot0 := mergedSlot th.paths f 0, slot1 := freshSlot, frame := none, stack := [] } }

/-- The paths after a merge that pops an entry; `below` is what the stack holds then. -/
def mergeInto (th : Thread) (f : Frame) (e : StackEntry) (below : List StackEntry) : Thread :=
  let p : Paths := { th.paths with slot0 := freshSlot, slot1 := freshSlot, frame := some e.frame, stack := below }
  { th with paths := (p.setSlot e.number e.slot).setSlot (!e.number) (mergedSlot th.paths f e.frame.j) }

/-- The lanes a fault of a merge's spill read stands for: those that merge, else those of the path that returns. -/
def mergeLanes (p : Paths) (e : StackEntry) : Word :=
  let m := p.slot0.mask ||| p.slot1.mask
  if m ≠ 0 then m else if e.slot.mask ≠ 0 then e.slot.mask else BitVec.allOnes 32

/-- A spilled entry as it reads, with the hold and the trap its slot had, and whether a sector of it is poisoned: that is an
uncorrectable error (R154, R359, log 93). -/
def readSpilled (s : State) (t : ThreadRef) (part : Nat) (a : LaneAccess) (kept : Buried) : StackEntry × Bool :=
  let (bs, bad) := readParts (ownView s t part s.seq) part a.parts
  let e := readSpill bs
  ({ e with slot := { e.slot with
      hold := kept.slot.hold, park := kept.slot.park, since := kept.slot.since, stopped := kept.slot.stopped
      pc := e.slot.pc + (kept.slot.pc - kept.spilledPc), mask := e.slot.mask &&& ~~~kept.gone } }, bad)

/-- Merge a wave at its join (R152 to R154). A spill read that faults, or meets an error, is a cause at the word at J. -/
def mergePaths (s : State) (t : ThreadRef) : State :=
  match s.threadAt t, s.blockAt t.core t.block with
  | some th, some b =>
    match th.paths.frame, th.paths.stack with
    | some f, [] => s.modThread t fun th => mergeLast th f
    | some f, e :: below =>
      let l := s.launchOf b
      if !th.spilled l b then s.modThread t fun th => mergeInto th f e below
      else
        let va := th.paths.spillPtr - 192
        let lanes := mergeLanes th.paths e
        let live := th.paths.slot0.mask = 0
        let trap (cause : Cause) (synd va : Nat) : State :=
          let info : TrapInfo :=
            { cause := cause, lanes := lanes, synd := BitVec.ofNat 32 (16 * synd), va := va, pc := f.j, seq := s.seq }
          { s.modSlot t live (fun x => { x with park := some info, pc := f.j }) with seq := s.seq + 1 }
        match resolveLane s t live l.partition (spillReg va) .spillRead 0 0 192 with
        | .waits vas => vas.foldl (fun s v => startWalk s t live v none 0) s
        | .fault .page _ fva vas =>
          let s := dropWalks s t
          { s.modThread t (fun th =>
              { th with
                faulted := th.faulted ++
                  [spillEntry th live .nop .spillRead s.seq f.j f.mode lanes fva vas] }) with seq := s.seq + 1 }
        | .fault cause synd fva _ => dropWalks (trap cause synd fva) t
        | .ok a =>
          let (older, lost) := readSpilled s t l.partition a (th.paths.buried.headD { slot := freshSlot, spilledPc := 0, gone := 0 })
          if lost then dropWalks (trap .uncorrectable 0 va) t
          else
            (dropWalks s t).modThread t fun th =>
              let y := mergeInto (th.returnStores s.seq .global [(va, 192)]) f e (below ++ [older])
              { y with paths := { y.paths with spillPtr := va, buried := th.paths.buried.drop 1 } }
    | none, _ => s
  | _, _ => s

/-- A merge waits for the scalar results that its slots still expect (R36). -/
def mergeWaits (s : State) (t : ThreadRef) (th : Thread) : Bool := scalarsPending (s.coreAt t.core) t th

/-- The spill read of a merge waits: older loads and atomics of the wave are performed first (R192), and FENCEs that hold back R accesses
end first (R196); then a walk for each page it lacks is under way, or no walk slot is free (R175). -/
def spillWaits (s : State) (t : ThreadRef) (th : Thread) : Bool :=
  match th.paths.stack, s.blockAt t.core t.block with
  | _ :: _, some b =>
    let l := s.launchOf b
    let walking (v : Nat) : Bool := (s.coreAt t.core).walks.any fun w =>
      w.thread = t && w.xlat.isNone && w.result.isNone && w.va / 65536 = v / 65536
    th.spilled l b && (th.fencedAt s.seq setR || (th.loads.any fun x => !x.accesses.isEmpty) || (th.stores.any fun x => x.atomic.isSome) ||
      match resolveLane s t (th.paths.slot0.mask = 0) l.partition (spillReg (th.paths.spillPtr - 192)) .spillRead 0 0 192 with
      | .waits vas => vas.all walking || decide (32 ≤ walksInFlight s (dieOf t.core))
      | _ => false)
  | _, _ => false

/-- JOIN_MERGE (R152). -/
def execJoinMerge (t : ThreadRef) (s : State) : Host.Outcome State Fault Refusal :=
  event (((s.threadAt t).map fun th => mergeDue th && !mergeWaits s t th && !spillWaits s t th).getD false) (mergePaths s t)

/-! ### EXIT (R155, R160, R267) -/

/-- A slot without the lanes that exit. -/
def Slot.leave (x : Slot) (m : Word) : Slot := { x with mask := x.mask &&& ~~~m }

/-- EXIT of a wave or CCP outside a handler: the lanes leave the slot; the wave ends when none are left (R155, R160). -/
def Thread.exitLanes (th : Thread) (n : Bool) (m : Word) : Thread := endIfEmpty (th.modSlot n fun x => x.leave m)

/-- EXIT in a user handler: the same lanes of the parked slot end too, and a handler slot left empty returns (R267). -/
def Thread.exitHandler (th : Thread) (n : Bool) (m : Word) : Thread :=
  let note (sv : Saved) : Saved := { sv with exited := sv.exited ||| m }
  let th := th.modSlot n fun x => x.leave m
  let th := { th with saved := match th.saved with
    | [] => []
    | sv :: rest => note sv :: rest }
  if th.paths.slot0.mask = 0 && th.paths.slot1.mask = 0 then endIfEmpty th.returnTrap else th

/-- What a handler that returns leaves behind in its core: XLAT's walks of a supervisor handler for t6 and t7, which it returns to as
they were saved, and ladder results for its scalars (R259, R266). -/
def leaveHandler (s : State) (t : ThreadRef) (th : Thread) : State :=
  s.modCore t.core fun k =>
    { k with
      walks := k.walks.filter fun w =>
        !(th.supervisor && w.thread = t && w.depth == th.depth && (w.xlat == some 6 || w.xlat == some 7))
      ladderQ := k.ladderQ.map fun o => if o.thread = t && o.depth = th.depth then { o with dest := none } else o }

/-- EXIT (R160, R221, R267): a supervisor handler's aborts the block with the handler's cause. -/
def Ctx.exit (c : Ctx) (s : State) : State :=
  if c.thread.supervisor then
    match c.thread.saved with
    | [] => s
    | sv :: _ => abortBlock s c.ref sv.info.cause (if c.thread.depth = 2 then c.thread.strappc else c.thread.trappc)
  else
    let s := if c.thread.depth ≠ 0 && c.eff = c.cur.mask then leaveHandler s c.ref c.thread else s
    let s := s.modThread c.ref fun th =>
      if c.thread.depth ≠ 0 then th.exitHandler c.slot c.eff else th.exitLanes c.slot c.eff
    if c.eff = c.cur.mask then s else c.stepOn s

/-- EXIT (R160). -/
def execExit (s : State) : Host.Outcome State Fault Refusal := perform .exit (fun c s => c.exit s) s

/-! ### TRAP and BKPT (R162) -/

/-- TRAP (R162). -/
def execTrap (i : BitVec 16) (s : State) : Host.Outcome State Fault Refusal :=
  perform (.trap i) (fun c s => c.raise .trap c.eff (i.setWidth 32) 0 s) s

/-- The trap a BKPT records. -/
def Ctx.breakInfo (c : Ctx) (i : BitVec 16) : TrapInfo :=
  { cause := .breakpoint, lanes := c.eff, synd := i.setWidth 32, pc := c.cur.pc, seq := c.seq }

/-- A breakpoint halt of a block (R162, R315): it stops, the wave that halted it by HALTB too, the slot stays at the word, and stream 16 hears of it. -/
def Ctx.breakHalt (c : Ctx) (i : BitVec 16) (s : State) : State :=
  let s := s.modBlock c.ref.core c.ref.block fun b =>
    { b with halted := true, exempt := none, breaks := b.breaks ++ [(c.ref.thread, c.slot, c.breakInfo i)] }
  sendHalted s c.block c.ref.thread (boolNat c.slot) i.toNat c.cur.pc.toNat

/-- BKPT (R162): a trap of cause 0x0C, or a halt of the block under armed breakpoint halts. -/
def execBkpt (i : BitVec 16) (s : State) : Host.Outcome State Fault Refusal :=
  perform (.bkpt i) (fun c s =>
    if (s.partAt c.part).armed then c.breakHalt i s
    else c.raise .breakpoint c.eff (i.setWidth 32) 0 s) s

end Sys2Proof.Machine
end

