-- ==== Sys2Proof/Machine/Convert.lean ====
section
/-! DEFINITION. Conversion and packing (R106, R109 to R111), CMP and SEL (R107, R108). -/

namespace Sys2Proof.Machine
open Sys2Proof

/-- CVT (R106): converts A from the source type in B to MODE.T. -/
def execCvt (d a : Reg) (t : BitVec 4) (s : State) : Host.Outcome State Fault Refusal :=
  laneWord (.cvt d a t) s

/-- PK2 (R109): converts two sources to a 16-bit type and packs them into one lane. -/
def execPk2 (d a b : Reg) (s : State) : Host.Outcome State Fault Refusal :=
  laneWord (.pk2 d a b) s

/-- PK4 (R109): converts four sources to an 8-bit or 4-bit type and packs them into one lane. -/
def execPk4 (d a b : Reg) (s : State) : Host.Outcome State Fault Refusal :=
  laneWord (.pk4 d a b) s

/-- UPK (R110): widens one packed part of A exactly. -/
def execUpk (d a : Reg) (p : BitVec 2) (s : State) : Host.Outcome State Fault Refusal :=
  laneWord (.upk d a p) s

/-- BSCL (R111): computes the E8M1 block scale for max(|a|, |b|). -/
def execBscl (d a b : Reg) (s : State) : Host.Outcome State Fault Refusal :=
  laneWord (.bscl d a b) s

/-- Write lanes of a predicate and of its poison; p0 is discarded (R26, R359). -/
def Thread.writePred (th : Thread) (n : Nat) (mask value : Word) : Thread :=
  if n = 0 then th
  else
    { th with
      preds := put 0 th.preds n ((th.pred n &&& ~~~mask) ||| (value &&& mask))
      ppois := put 0 th.ppois n (th.predPoison n &&& ~~~mask) }

/-- What CMP finds in the lanes of a mask: the lanes where the condition holds, and the flags (R107). -/
def Ctx.compare (c : Ctx) (cond : BitVec 4) (a b : Use) (lanes : Word) : Word × Flags :=
  let r := fun l => compareLane cond c.ty (modeFtz c.cur.mode) (c.value a l) (c.value b l)
  (maskOf fun l => hasLane lanes l && (r l).1, (lanesOf lanes).foldl (fun f l => f ||| (r l).2) 0)

/-- CMP (R107): writes the predicate in the lanes of the effective mask. -/
def execCmp (c : BitVec 4) (p : BitVec 3) (a b : Reg) (s : State) : Host.Outcome State Fault Refusal :=
  let i := Instr.cmp c p a b
  issue i (fun x s =>
    let unit := unitOf i x.ty
    let bad := x.sourcePoison i &&& x.eff
    if x.thread.armed unit then x.raiseUnit unit x.eff (x.fire unit s)
    else if bad ≠ 0 && restarts x.thread then x.consumed bad 0 0 s
    else
      let good := x.eff &&& ~~~bad
      let (m, f) := x.compare c (srcR a) (srcR b) good
      x.parkPoisoned bad (s.modThread x.ref fun th => (th.writePred p.toNat good m).orFlags f)) s

/-- The lanes of a slot that SEL gives A (R28, R108). -/
def Ctx.picksA (c : Ctx) : Word := guardMask c.thread c.cur.mode

/-- The lanes SEL consumes poison in: its guard's, and those whose chosen source is poisoned (R108, R359). -/
def Ctx.selPoison (c : Ctx) (a b : Use) : Word :=
  (c.thread.predPoison (modeG c.cur.mode) ||| (c.picksA &&& c.usePoison a) ||| (~~~c.picksA &&& c.usePoison b)) &&&
    c.cur.mask

/-- SEL (R108): every active lane takes A or B by the guard; a scalar destination by the lowest active lane, in the
scalar pipe, whose check may fail (R79, R98, R358 unit 8). -/
def execSel (d a b : Reg) (s : State) : Host.Outcome State Fault Refusal :=
  let i := Instr.sel d a b
  issue i (fun c s =>
    let bad := c.selPoison (srcR a) (srcR b)
    let pick (l : Nat) : Nat := if hasLane c.picksA l then c.value (srcR a) l else c.value (srcR b) l
    let write (lanes : List Nat) (s : State) : State :=
      s.modThread c.ref fun th => th.writeRegs c.core c.slot (c.destRegs i) (lanes.map fun l => (l, pick l)) 0
    if isScalar d then
      let l := lowestLane c.cur.mask
      if c.thread.armed 8 then c.raiseUnit 8 c.cur.mask (c.fire 8 s)
      else if hasLane bad l then c.consumed c.cur.mask 0 0 s else c.stepOn (write [l] s)
    else if bad ≠ 0 && restarts c.thread then c.consumed bad 0 0 s
    else c.parkPoisoned bad (write (lanesOf (c.cur.mask &&& ~~~bad)) s)) s

end Sys2Proof.Machine
end

