-- ==== Sys2Proof/Machine/Cross.lean ====
section
/-! DEFINITION. The words that move values across lanes (R112 to R118), VOTE and PMOV. -/

namespace Sys2Proof.Machine
open Sys2Proof

/-- SHFL (R113): reads each lane's value from an indexed source lane. -/
def execShfl (d a b : Reg) (s : State) : Host.Outcome State Fault Refusal :=
  laneWord (.shfl d a b) s

/-- SHFLU (R113): shuffles values up by a distance. -/
def execShflu (d a b : Reg) (s : State) : Host.Outcome State Fault Refusal :=
  laneWord (.shflu d a b) s

/-- SHFLD (R113): shuffles values down by a distance. -/
def execShfld (d a b : Reg) (s : State) : Host.Outcome State Fault Refusal :=
  laneWord (.shfld d a b) s

/-- SHFLX (R113): shuffles values by XOR of the lane index. -/
def execShflx (d a b : Reg) (s : State) : Host.Outcome State Fault Refusal :=
  laneWord (.shflx d a b) s

/-- RDLANE (R114): reads one lane of a vector register into D. -/
def execRdlane (d a b : Reg) (s : State) : Host.Outcome State Fault Refusal :=
  laneWord (.rdlane d a b) s

/-- WRLANE (R114): writes a uniform value into one lane and 0 into the other masked lanes. -/
def execWrlane (d a b : Reg) (s : State) : Host.Outcome State Fault Refusal :=
  laneWord (.wrlane d a b) s

/-- REDADD (R117): sums the active lanes in the fixed pairwise tree. -/
def execRedadd (d a : Reg) (s : State) : Host.Outcome State Fault Refusal :=
  laneWord (.redadd d a) s

/-- REDMIN (R117): takes the minimum of the active lanes in the tree. -/
def execRedmin (d a : Reg) (s : State) : Host.Outcome State Fault Refusal :=
  laneWord (.redmin d a) s

/-- REDMAX (R117): takes the maximum of the active lanes in the tree. -/
def execRedmax (d a : Reg) (s : State) : Host.Outcome State Fault Refusal :=
  laneWord (.redmax d a) s

/-- SCAN (R118): forms an inclusive or exclusive running combination in lane order. -/
def execScan (d a : Reg) (x : Bool) (o : BitVec 2) (s : State) : Host.Outcome State Fault Refusal :=
  laneWord (.scan d a x o) s

/-- What VOTE writes (R115): a ballot, all or any of P over E. -/
def voteResult (kind : Nat) (p e : Word) : Nat :=
  match kind with
  | 0 => (p &&& e).toNat
  | 1 => boolNat (p &&& e = e)
  | _ => boolNat (p &&& e ≠ 0)

/-- VOTE (R115). -/
def execVote (d : Reg) (p : BitVec 3) (k : BitVec 2) (s : State) : Host.Outcome State Fault Refusal :=
  perform (.vote d p k)
    (fun c s => c.stepOn (c.putScalar d (voteResult k.toNat (c.thread.pred p.toNat) c.eff) s)) s

/-- PMOV sD, p (R116): all 32 bits, whatever the mask. -/
def execPmovToScalar (d : Reg) (p : BitVec 3) (s : State) : Host.Outcome State Fault Refusal :=
  perform (.pmovToScalar d p) (fun c s => c.stepOn (c.putScalar d (c.thread.pred p.toNat).toNat s)) s

/-- PMOV p, sA (R116): the lanes of the effective mask. -/
def execPmovToPredicate (p : BitVec 3) (a : Reg) (s : State) : Host.Outcome State Fault Refusal :=
  perform (.pmovToPredicate p a)
    (fun c s => c.stepOn (s.modThread c.ref fun th => th.writePred p.toNat c.eff (c.uniform a))) s

end Sys2Proof.Machine
end

