-- ==== Sys2Proof/WellFormed.lean ====
section
/-! DEFINITION. Which instructions the encodings of R22 to R30 admit: the checks of R26 and of R34's third step that the
word alone decides. The checks that read MODE.T, the allocation or the agent are the machine's (`operandsFit`). -/

namespace Sys2Proof

/-- The word breaks no rule of R26, holds no reserved code (R30, R34) and sets no FLAGS that R223 rules out. -/
def Instr.wellFormed (i : Instr) : Bool := Machine.staticOk i

/-- See `Instr.wellFormed`. -/
abbrev Instr.WellFormed (i : Instr) : Prop := i.wellFormed = true

end Sys2Proof
end

