-- ==== Sys2Proof/Decode.lean ====
section
/-! DEFINITION. Decoding: bytes to an instruction, or the name of what is wrong with them (R21 to R34), and the encoder
after it, written from the same tables of R22 and R30. An instruction's bytes stand in address order, the byte of bits
[7:0] first (R2, R21), so the four bytes of a word are its B, A, D and OP fields. -/

namespace Sys2Proof
open Machine

/-- Why bytes are no instruction, in the order R34 checks them. -/
inductive DecodeError where
  /-- Fewer bytes than the word, or than LIW and its literal (R21). -/
  | truncated
  /-- Opcode 0x00, the all-zero word, or an opcode R30 does not list. -/
  | opcode
  /-- A nonzero field that R30 gives as MBZ. -/
  | mbz
  /-- An operand code of 0xE8 to 0xFF (R24). -/
  | operandCode
  /-- A W code of CASG or CASS that R30 does not give. -/
  | field
  deriving DecidableEq, Repr

/-- A field that must be zero. -/
def mbz {w : Nat} (x : BitVec w) : Except DecodeError Unit := if x = 0 then .ok () else .error .mbz

/-- A field that must hold one code. -/
def code (b : Bool) : Except DecodeError Unit := if b then .ok () else .error .field

/-- An operand field. -/
def operand (c : Byte) : Except DecodeError Reg :=
  match regOfCode c with
  | some r => .ok r
  | none => .error .operandCode

/-! ### The six formats of R22 -/

/-- Format A with no field used. -/
def noFields (i : Instr) (d a b : Byte) : Except DecodeError Instr := do
  mbz d; mbz a; mbz b; return i

/-- Format A with D, A and B. -/
def regs3 (k : Reg → Reg → Reg → Instr) (d a b : Byte) : Except DecodeError Instr := do
  return k (← operand d) (← operand a) (← operand b)

/-- Format A with D and A. -/
def regs2 (k : Reg → Reg → Instr) (d a b : Byte) : Except DecodeError Instr := do
  mbz b; return k (← operand d) (← operand a)

/-- Format A with A and B. -/
def regsAB (k : Reg → Reg → Instr) (d a b : Byte) : Except DecodeError Instr := do
  mbz d; return k (← operand a) (← operand b)

/-- Format A with A alone. -/
def regA (k : Reg → Instr) (d a b : Byte) : Except DecodeError Instr := do
  mbz d; mbz b; return k (← operand a)

/-- Format A with D alone. -/
def regD (k : Reg → Instr) (d a b : Byte) : Except DecodeError Instr := do
  mbz a; mbz b; return k (← operand d)

/-- Format I with D. -/
def regImm (k : Reg → BitVec 16 → Instr) (d a b : Byte) : Except DecodeError Instr := do
  return k (← operand d) (a ++ b)

/-- Format I without D. -/
def imm (k : BitVec 16 → Instr) (d a b : Byte) : Except DecodeError Instr := do
  mbz d; return k (a ++ b)

/-- Format B with P and N MBZ. -/
def branch (k : BitVec 20 → Instr) (d a b : Byte) : Except DecodeError Instr := do
  mbz (d.extractLsb' 4 4); return k (d.extractLsb' 0 4 ++ a ++ b)

/-- Format B with a predicate: BRP. -/
def branchOn (d a b : Byte) : Except DecodeError Instr :=
  return .brp (d.extractLsb' 5 3) (d.getLsbD 4) (d.extractLsb' 0 4 ++ a ++ b)

/-- The FLAGS byte of format C. -/
def flagsOf (b : Byte) : CopyFlags :=
  ⟨b.getLsbD 7, b.getLsbD 6, b.getLsbD 5, b.extractLsb' 2 3, b.getLsbD 1, b.getLsbD 0⟩

/-- Format C. -/
def copyWord (k : Reg → Reg → CopyFlags → Instr) (d a b : Byte) : Except DecodeError Instr := do
  return k (← operand d) (← operand a) (flagsOf b)

/-! ### The opcode map of R30 -/

/-- Opcodes 0x00 to 0x0F (R30). -/
def decodeControl (n : Nat) (d a b : Byte) : Except DecodeError Instr :=
  match n with
  | 1 => noFields .nop d a b
  | 2 => branch .bra d a b
  | 3 => branchOn d a b
  | 4 => branch .joinat d a b
  | 5 => branch .call d a b
  | 6 => regA .callx d a b
  | 7 => noFields .ret d a b
  | 8 => noFields .exit d a b
  | 9 => regImm .loop d a b
  | 10 => regA .brx d a b
  | 11 => noFields .yield d a b
  | 12 => imm .sleep d a b
  | 13 => imm .bkpt d a b
  | 14 => imm .trap d a b
  | _ => .error .opcode

/-- Opcodes 0x10 to 0x1F (R30). -/
def decodeInteger (n : Nat) (d a b : Byte) : Except DecodeError Instr :=
  match n with
  | 0 => regs3 .iadd d a b
  | 1 => regs3 .isub d a b
  | 2 => regs3 .imul d a b
  | 3 => regs3 .imulh d a b
  | 4 => regs3 .imad d a b
  | 5 => regs3 .imin d a b
  | 6 => regs3 .imax d a b
  | 7 => regs2 .iabs d a b
  | 8 => regs2 .ineg d a b
  | 9 => regImm .iaddi d a b
  | 10 => regImm .movi d a b
  | 11 => regImm .movhi d a b
  | _ => .error .opcode

/-- Opcodes 0x20 to 0x2F (R30). -/
def decodeLogic (n : Nat) (d a b : Byte) : Except DecodeError Instr :=
  match n with
  | 0 => regs3 .and d a b
  | 1 => regs3 .or d a b
  | 2 => regs3 .xor d a b
  | 3 => regs2 .not d a b
  | 4 => regs3 .shl d a b
  | 5 => regs3 .shr d a b
  | 6 => regs3 .sar d a b
  | 7 => regs3 .rol d a b
  | 8 => regs2 .popc d a b
  | 9 => regs2 .clz d a b
  | 10 => regs2 .brev d a b
  | 11 => regs3 .bfe d a b
  | 12 => regs3 .bfi d a b
  | 13 => regs3 .prmt d a b
  | _ => .error .opcode

/-- Opcodes 0x30 to 0x3F (R30). -/
def decodeFloat (n : Nat) (d a b : Byte) : Except DecodeError Instr :=
  match n with
  | 0 => regs3 .fadd d a b
  | 1 => regs3 .fsub d a b
  | 2 => regs3 .fmul d a b
  | 3 => regs3 .fma d a b
  | 4 => regs3 .fmin d a b
  | 5 => regs3 .fmax d a b
  | 6 => regs2 .fabs d a b
  | 7 => regs2 .fneg d a b
  | 8 => regs2 .rcp d a b
  | 9 => regs2 .rsq d a b
  | 10 => regs2 .sqrt d a b
  | 11 => regs2 .ex2 d a b
  | 12 => regs2 .lg2 d a b
  | 13 => regs2 .sin d a b
  | 14 => regs2 .cos d a b
  | 15 => regs2 .frnd d a b
  | _ => .error .opcode

/-- Opcodes 0x40 to 0x4F (R30). -/
def decodeConvert (n : Nat) (d a b : Byte) : Except DecodeError Instr :=
  match n with
  | 0 => do
      mbz (b.extractLsb' 4 4)
      let d' ← operand d
      let a' ← operand a
      return .cvt d' a' (b.extractLsb' 0 4)
  | 1 => do
      mbz (d.extractLsb' 7 1)
      let a' ← operand a
      let b' ← operand b
      return .cmp (d.extractLsb' 3 4) (d.extractLsb' 0 3) a' b'
  | 2 => regs3 .sel d a b
  | 3 => regs3 .pk2 d a b
  | 4 => regs3 .pk4 d a b
  | 5 => do
      mbz (b.extractLsb' 2 6)
      let d' ← operand d
      let a' ← operand a
      return .upk d' a' (b.extractLsb' 0 2)
  | 6 => regs3 .bscl d a b
  | _ => .error .opcode

/-- Opcodes 0x50 to 0x5F (R30). -/
def decodeLane (n : Nat) (d a b : Byte) : Except DecodeError Instr :=
  match n with
  | 0 => regs3 .shfl d a b
  | 1 => regs3 .shflu d a b
  | 2 => regs3 .shfld d a b
  | 3 => regs3 .shflx d a b
  | 4 => regs3 .rdlane d a b
  | 5 => regs3 .wrlane d a b
  | 6 => do
      mbz (a.extractLsb' 3 5)
      mbz (b.extractLsb' 2 6)
      let d' ← operand d
      return .vote d' (a.extractLsb' 0 3) (b.extractLsb' 0 2)
  | 7 => regs2 .redadd d a b
  | 8 => regs2 .redmin d a b
  | 9 => regs2 .redmax d a b
  | 10 => do
      mbz (b.extractLsb' 3 5)
      let d' ← operand d
      let a' ← operand a
      return .scan d' a' (b.getLsbD 2) (b.extractLsb' 0 2)
  | 11 =>
    if b.getLsbD 0 then do
        mbz (d.extractLsb' 3 5)
        mbz (b.extractLsb' 1 7)
        let a' ← operand a
        return .pmovToPredicate (d.extractLsb' 0 3) a'
    else do
        mbz (a.extractLsb' 3 5)
        mbz (b.extractLsb' 1 7)
        let d' ← operand d
        return .pmovToScalar d' (a.extractLsb' 0 3)
  | _ => .error .opcode

/-- Opcodes 0x60 to 0x6F (R30). -/
def decodeState (n : Nat) (d a b : Byte) : Except DecodeError Instr :=
  match n with
  | 0 => regs2 .mov d a b
  | 2 => do
      mbz a
      let d' ← operand d
      return .ldk d' b
  | 3 => imm .mode d a b
  | 4 => regA .setf d a b
  | 5 => regImm .mfs d a b
  | 6 => regImm .mts d a b
  | 7 => regs2 .tagof d a b
  | 8 => regD .vsdrop d a b
  | 9 => do
      mbz (d.extractLsb' 3 5)
      let a' ← operand a
      let b' ← operand b
      return .xlat (d.extractLsb' 0 3) a' b'
  | 10 => regs2 .graise d a b
  | 11 => imm .phase d a b
  | 12 => regs2 .gear d a b
  | 13 => noFields .rgn d a b
  | 14 => noFields .rgnend d a b
  | _ => .error .opcode

/-- Opcodes 0x70 to 0x7F (R30). -/
def decodeMemory (n : Nat) (d a b : Byte) : Except DecodeError Instr :=
  match n with
  | 0 => do
      let d' ← operand d
      let o' ← operand a
      return .ldg d' o' (b.extractLsb' 5 3) (b.extractLsb' 2 3) (b.extractLsb' 0 2)
  | 1 => do
      let d' ← operand d
      let o' ← operand a
      return .stg d' o' (b.extractLsb' 5 3) (b.extractLsb' 2 3) (b.extractLsb' 0 2)
  | 2 => do
      let d' ← operand d
      let o' ← operand a
      return .ldgk d' o' (b.extractLsb' 5 3) (b.extractLsb' 2 3) (b.extractLsb' 0 2)
  | 3 => do
      mbz (b.extractLsb' 0 2)
      mbz (b.extractLsb' 5 3)
      let d' ← operand d
      let o' ← operand a
      return .lds d' o' (b.extractLsb' 2 3)
  | 4 => do
      mbz (b.extractLsb' 0 2)
      mbz (b.extractLsb' 5 3)
      let d' ← operand d
      let o' ← operand a
      return .sts d' o' (b.extractLsb' 2 3)
  | 5 => do
      mbz (b.extractLsb' 0 2)
      let d' ← operand d
      let o' ← operand a
      return .ldb d' o' (b.extractLsb' 5 3) (b.extractLsb' 2 3)
  | 6 => do
      mbz (b.extractLsb' 0 2)
      let d' ← operand d
      let o' ← operand a
      return .stb d' o' (b.extractLsb' 5 3) (b.extractLsb' 2 3)
  | 7 => do
      mbz d
      mbz (b.extractLsb' 2 3)
      let o' ← operand a
      return .prf o' (b.extractLsb' 5 3) (b.extractLsb' 0 2)
  | 8 => do
      let d' ← operand d
      let o' ← operand a
      return .atomg d' o' (b.extractLsb' 5 3) (b.extractLsb' 2 3) (b.extractLsb' 0 2)
  | 9 => do
      let d' ← operand d
      let o' ← operand a
      return .atomg64 d' o' (b.extractLsb' 5 3) (b.extractLsb' 2 3) (b.extractLsb' 0 2)
  | 10 => do
      code (b.extractLsb' 2 3 == 2)
      let d' ← operand d
      let o' ← operand a
      return .casg d' o' (b.extractLsb' 5 3) (b.extractLsb' 0 2)
  | 11 => do
      mbz (b.extractLsb' 0 2)
      mbz (b.extractLsb' 5 3)
      let d' ← operand d
      let o' ← operand a
      return .atoms d' o' (b.extractLsb' 2 3)
  | 12 => do
      mbz (b.extractLsb' 0 2)
      mbz (b.extractLsb' 5 3)
      code (b.extractLsb' 2 3 == 2)
      let d' ← operand d
      let o' ← operand a
      return .cass d' o'
  | _ => .error .opcode

/-- Opcodes 0x80 to 0x8F (R30). -/
def decodeSync (n : Nat) (d a b : Byte) : Except DecodeError Instr :=
  match n with
  | 0 => do
      mbz (a.extractLsb' 0 5)
      mbz b
      return .fence (d.extractLsb' 4 4) (d.extractLsb' 0 4) (a.extractLsb' 5 3)
  | 1 => do
      mbz d
      mbz a
      mbz (b.extractLsb' 4 4)
      return .bar (b.extractLsb' 0 4)
  | 2 => do
      mbz a
      mbz (b.extractLsb' 3 5)
      let d' ← operand d
      return .arrive d' (b.extractLsb' 0 3)
  | 3 => do
      mbz (d.extractLsb' 3 5)
      mbz b
      let a' ← operand a
      return .waitb (d.extractLsb' 0 3) a'
  | 4 => do
      mbz (b.extractLsb' 3 5)
      let d' ← operand d
      let a' ← operand a
      return .testb d' a' (b.extractLsb' 0 3)
  | 5 => do
      mbz (d.extractLsb' 3 5)
      mbz b
      let a' ← operand a
      return .waitc (d.extractLsb' 0 3) a'
  | 6 => regA .gang d a b
  | 7 => do
      mbz a
      mbz (b.extractLsb' 4 4)
      let d' ← operand d
      return .rawait d' (b.extractLsb' 0 4)
  | 8 => do
      mbz d
      mbz a
      mbz (b.extractLsb' 4 4)
      return .rrel (b.extractLsb' 0 4)
  | 9 => do
      mbz d
      mbz (b.extractLsb' 4 4)
      let a' ← operand a
      return .rpost a' (b.extractLsb' 0 4)
  | 10 => do
      mbz (d.extractLsb' 4 4)
      mbz b
      let a' ← operand a
      return .rinit (d.extractLsb' 0 4) a'
  | _ => .error .opcode

/-- Opcodes 0x90 to 0x9F (R30). -/
def decodeMatrix (n : Nat) (d a b : Byte) : Except DecodeError Instr :=
  match n with
  | 0 => regA .mma d a b
  | 1 => regA .mmaz d a b
  | 2 => regA .mmas d a b
  | 3 => regA .epi d a b
  | 4 => regA .rowsum d a b
  | 5 => regA .cmpr d a b
  | 6 => regA .cbld d a b
  | 7 => regA .qacc d a b
  | 8 => regA .clrt d a b
  | 9 => regA .mtrn d a b
  | _ => .error .opcode

/-- Opcodes 0xA0 to 0xAF (R30). -/
def decodeLadder (n : Nat) (d a b : Byte) : Except DecodeError Instr :=
  match n with
  | 0 => do
      mbz d
      mbz (b.extractLsb' 2 6)
      let a' ← operand a
      return .ldef a' (b.extractLsb' 0 2)
  | 1 => do
      mbz d
      mbz (b.extractLsb' 2 6)
      let a' ← operand a
      return .lpush a' (b.extractLsb' 0 2)
  | 2 => do
      mbz d
      mbz (b.extractLsb' 2 6)
      let a' ← operand a
      return .lread a' (b.extractLsb' 0 2)
  | 3 => do
      mbz (b.extractLsb' 2 6)
      let d' ← operand d
      let a' ← operand a
      return .lrung d' a' (b.extractLsb' 0 2)
  | 4 => do
      mbz d
      mbz (b.extractLsb' 2 6)
      let a' ← operand a
      return .lsetr a' (b.extractLsb' 0 2)
  | 5 => do
      mbz a
      mbz (b.extractLsb' 2 6)
      let d' ← operand d
      return .lstep d' (b.extractLsb' 0 2)
  | 6 => do
      mbz d
      mbz (b.extractLsb' 2 6)
      let a' ← operand a
      return .lstepw a' (b.extractLsb' 0 2)
  | 7 => do
      mbz d
      mbz a
      mbz (b.extractLsb' 2 6)
      return .lclr (b.extractLsb' 0 2)
  | _ => .error .opcode

/-- Opcodes 0xB0 to 0xBF (R30). -/
def decodeCopy (n : Nat) (d a b : Byte) : Except DecodeError Instr :=
  match n with
  | 0 => copyWord .cpy d a b
  | 1 => copyWord .cpy2 d a b
  | 2 => copyWord .cpyx d a b
  | 3 => copyWord .cpym d a b
  | 4 => copyWord .cpye d a b
  | 5 => copyWord .cpyg d a b
  | 6 => copyWord .redx d a b
  | 7 => regs2 .cwait d a b
  | 8 => regs2 .cstat d a b
  | 9 => regA .ccan d a b
  | 10 => regA .rfill d a b
  | _ => .error .opcode

/-- Opcodes 0xC0 to 0xCF (R30). -/
def decodeSystem (n : Nat) (d a b : Byte) : Except DecodeError Instr :=
  match n with
  | 0 => noFields .rft d a b
  | 1 => regD .fltq d a b
  | 2 => regs2 .mapft d a b
  | 3 => noFields .replay d a b
  | 4 => regA .cancel d a b
  | 5 => regA .haltb d a b
  | 6 => noFields .drain d a b
  | 7 => regsAB .tlbinv d a b
  | 8 => regImm .mfsv d a b
  | 9 => regImm .mtsv d a b
  | 10 => regA .errinj d a b
  | 11 => noFields .vsflush d a b
  | 12 => regA .resumeb d a b
  | _ => .error .opcode

/-- LIW: its literal is the word that follows (R91). -/
def decodeLiw (d a b : Byte) (literal : Option Word) : Except DecodeError Instr := do
  mbz a; mbz b
  let d' ← operand d
  match literal with
  | some l => return .liw d' l
  | none => .error .truncated

/-- A word's four fields to an instruction: the opcode, the MBZ fields and the operand codes. The word is read whatever its
operands' kinds and its other codes are: `Instr.wellFormed` says whether it breaks a rule of R26, R30 or R223, and an
issued word that does takes the trap of R34 (`decodeTrap`). -/
def decodeWord (op d a b : Byte) (literal : Option Word) : Except DecodeError Instr :=
  let n := op.toNat % 16
  match op.toNat / 16 with
    | 0 => decodeControl n d a b
    | 1 => decodeInteger n d a b
    | 2 => decodeLogic n d a b
    | 3 => decodeFloat n d a b
    | 4 => decodeConvert n d a b
    | 5 => decodeLane n d a b
    | 6 => if n = 1 then decodeLiw d a b literal else decodeState n d a b
    | 7 => decodeMemory n d a b
    | 8 => decodeSync n d a b
    | 9 => decodeMatrix n d a b
    | 10 => decodeLadder n d a b
    | 11 => decodeCopy n d a b
    | 12 => decodeSystem n d a b
    | _ => .error .opcode

/-- The first instruction of a list of bytes, and the bytes after it (R21). -/
def decode (bytes : List Byte) : Except DecodeError (Instr × List Byte) :=
  match bytes with
  | b :: a :: d :: op :: rest =>
    if op = 0x61 then
      match rest with
      | l0 :: l1 :: l2 :: l3 :: rest' => (decodeWord op d a b (some (Word.ofBytes l0 l1 l2 l3))).map (·, rest')
      | _ => (decodeWord op d a b none).map (·, rest)
    else (decodeWord op d a b none).map (·, rest)
  | _ => .error .truncated

/-- The longest instruction in bytes: LIW and its literal (R21). -/
def longestInstr : Nat := 8

/-- The bytes of an instruction whose low `nbits` bits are `w`, the byte of bits [7:0] first; every bit above is 0. -/
def tableBytes (nbits w : Nat) : List Byte := leBytes longestInstr (w % 2 ^ nbits)

/-- The instruction the decoder reads from an instruction of the opcode table whose bits are `w`. -/
def decodeTableWord (nbits w : Nat) : Option Instr :=
  match decode (tableBytes nbits w) with
  | .ok (i, _) => some i
  | .error _ => none

/-! ### Encoding -/

/-- The bytes of a word with the four fields given. -/
def encWord (op d a b : Byte) : List Byte := [b, a, d, op]

/-- The FLAGS byte of format C. -/
def flagsByte (f : CopyFlags) : Byte :=
  BitVec.ofBool f.ring ++ BitVec.ofBool f.cmpx ++ BitVec.ofBool f.chk ++ f.scope ++ BitVec.ofBool f.rel ++
    BitVec.ofBool f.acq

/-- The bytes of a word, in address order (R21, R22, R30); the steps that are not words have none. -/
def encode : Instr → List Byte
  | .nop => encWord 0x01 0 0 0
  | .bra o => encWord 0x02 ((o.extractLsb' 16 4).setWidth 8) (o.extractLsb' 8 8) (o.extractLsb' 0 8)
  | .brp p n o => encWord 0x03 (p ++ BitVec.ofBool n ++ o.extractLsb' 16 4) (o.extractLsb' 8 8) (o.extractLsb' 0 8)
  | .joinat o => encWord 0x04 ((o.extractLsb' 16 4).setWidth 8) (o.extractLsb' 8 8) (o.extractLsb' 0 8)
  | .call o => encWord 0x05 ((o.extractLsb' 16 4).setWidth 8) (o.extractLsb' 8 8) (o.extractLsb' 0 8)
  | .callx a => encWord 0x06 0 (regCode a) 0
  | .ret => encWord 0x07 0 0 0
  | .exit => encWord 0x08 0 0 0
  | .loop d i => encWord 0x09 (regCode d) (i.extractLsb' 8 8) (i.extractLsb' 0 8)
  | .brx a => encWord 0x0A 0 (regCode a) 0
  | .yield => encWord 0x0B 0 0 0
  | .sleep i => encWord 0x0C 0 (i.extractLsb' 8 8) (i.extractLsb' 0 8)
  | .bkpt i => encWord 0x0D 0 (i.extractLsb' 8 8) (i.extractLsb' 0 8)
  | .trap i => encWord 0x0E 0 (i.extractLsb' 8 8) (i.extractLsb' 0 8)
  | .iadd d a b => encWord 0x10 (regCode d) (regCode a) (regCode b)
  | .isub d a b => encWord 0x11 (regCode d) (regCode a) (regCode b)
  | .imul d a b => encWord 0x12 (regCode d) (regCode a) (regCode b)
  | .imulh d a b => encWord 0x13 (regCode d) (regCode a) (regCode b)
  | .imad d a b => encWord 0x14 (regCode d) (regCode a) (regCode b)
  | .imin d a b => encWord 0x15 (regCode d) (regCode a) (regCode b)
  | .imax d a b => encWord 0x16 (regCode d) (regCode a) (regCode b)
  | .iabs d a => encWord 0x17 (regCode d) (regCode a) 0
  | .ineg d a => encWord 0x18 (regCode d) (regCode a) 0
  | .iaddi d i => encWord 0x19 (regCode d) (i.extractLsb' 8 8) (i.extractLsb' 0 8)
  | .movi d i => encWord 0x1A (regCode d) (i.extractLsb' 8 8) (i.extractLsb' 0 8)
  | .movhi d i => encWord 0x1B (regCode d) (i.extractLsb' 8 8) (i.extractLsb' 0 8)
  | .and d a b => encWord 0x20 (regCode d) (regCode a) (regCode b)
  | .or d a b => encWord 0x21 (regCode d) (regCode a) (regCode b)
  | .xor d a b => encWord 0x22 (regCode d) (regCode a) (regCode b)
  | .not d a => encWord 0x23 (regCode d) (regCode a) 0
  | .shl d a b => encWord 0x24 (regCode d) (regCode a) (regCode b)
  | .shr d a b => encWord 0x25 (regCode d) (regCode a) (regCode b)
  | .sar d a b => encWord 0x26 (regCode d) (regCode a) (regCode b)
  | .rol d a b => encWord 0x27 (regCode d) (regCode a) (regCode b)
  | .popc d a => encWord 0x28 (regCode d) (regCode a) 0
  | .clz d a => encWord 0x29 (regCode d) (regCode a) 0
  | .brev d a => encWord 0x2A (regCode d) (regCode a) 0
  | .bfe d a b => encWord 0x2B (regCode d) (regCode a) (regCode b)
  | .bfi d a b => encWord 0x2C (regCode d) (regCode a) (regCode b)
  | .prmt d a b => encWord 0x2D (regCode d) (regCode a) (regCode b)
  | .fadd d a b => encWord 0x30 (regCode d) (regCode a) (regCode b)
  | .fsub d a b => encWord 0x31 (regCode d) (regCode a) (regCode b)
  | .fmul d a b => encWord 0x32 (regCode d) (regCode a) (regCode b)
  | .fma d a b => encWord 0x33 (regCode d) (regCode a) (regCode b)
  | .fmin d a b => encWord 0x34 (regCode d) (regCode a) (regCode b)
  | .fmax d a b => encWord 0x35 (regCode d) (regCode a) (regCode b)
  | .fabs d a => encWord 0x36 (regCode d) (regCode a) 0
  | .fneg d a => encWord 0x37 (regCode d) (regCode a) 0
  | .rcp d a => encWord 0x38 (regCode d) (regCode a) 0
  | .rsq d a => encWord 0x39 (regCode d) (regCode a) 0
  | .sqrt d a => encWord 0x3A (regCode d) (regCode a) 0
  | .ex2 d a => encWord 0x3B (regCode d) (regCode a) 0
  | .lg2 d a => encWord 0x3C (regCode d) (regCode a) 0
  | .sin d a => encWord 0x3D (regCode d) (regCode a) 0
  | .cos d a => encWord 0x3E (regCode d) (regCode a) 0
  | .frnd d a => encWord 0x3F (regCode d) (regCode a) 0
  | .cvt d a t => encWord 0x40 (regCode d) (regCode a) (0#4 ++ t)
  | .cmp c p a b => encWord 0x41 (0#1 ++ c ++ p) (regCode a) (regCode b)
  | .sel d a b => encWord 0x42 (regCode d) (regCode a) (regCode b)
  | .pk2 d a b => encWord 0x43 (regCode d) (regCode a) (regCode b)
  | .pk4 d a b => encWord 0x44 (regCode d) (regCode a) (regCode b)
  | .upk d a p => encWord 0x45 (regCode d) (regCode a) (0#6 ++ p)
  | .bscl d a b => encWord 0x46 (regCode d) (regCode a) (regCode b)
  | .shfl d a b => encWord 0x50 (regCode d) (regCode a) (regCode b)
  | .shflu d a b => encWord 0x51 (regCode d) (regCode a) (regCode b)
  | .shfld d a b => encWord 0x52 (regCode d) (regCode a) (regCode b)
  | .shflx d a b => encWord 0x53 (regCode d) (regCode a) (regCode b)
  | .rdlane d a b => encWord 0x54 (regCode d) (regCode a) (regCode b)
  | .wrlane d a b => encWord 0x55 (regCode d) (regCode a) (regCode b)
  | .vote d p k => encWord 0x56 (regCode d) (0#5 ++ p) (0#6 ++ k)
  | .redadd d a => encWord 0x57 (regCode d) (regCode a) 0
  | .redmin d a => encWord 0x58 (regCode d) (regCode a) 0
  | .redmax d a => encWord 0x59 (regCode d) (regCode a) 0
  | .scan d a x o => encWord 0x5A (regCode d) (regCode a) (0#5 ++ BitVec.ofBool x ++ o)
  | .pmovToScalar d p => encWord 0x5B (regCode d) (0#5 ++ p) 0
  | .pmovToPredicate p a => encWord 0x5B (0#5 ++ p) (regCode a) 1
  | .mov d a => encWord 0x60 (regCode d) (regCode a) 0
  | .liw d l => encWord 0x61 (regCode d) 0 0 ++ leBytes 4 l.toNat
  | .ldk d i => encWord 0x62 (regCode d) 0 i
  | .mode i => encWord 0x63 0 (i.extractLsb' 8 8) (i.extractLsb' 0 8)
  | .setf a => encWord 0x64 0 (regCode a) 0
  | .mfs d i => encWord 0x65 (regCode d) (i.extractLsb' 8 8) (i.extractLsb' 0 8)
  | .mts d i => encWord 0x66 (regCode d) (i.extractLsb' 8 8) (i.extractLsb' 0 8)
  | .tagof d a => encWord 0x67 (regCode d) (regCode a) 0
  | .vsdrop d => encWord 0x68 (regCode d) 0 0
  | .xlat t a b => encWord 0x69 (0#5 ++ t) (regCode a) (regCode b)
  | .graise d a => encWord 0x6A (regCode d) (regCode a) 0
  | .phase i => encWord 0x6B 0 (i.extractLsb' 8 8) (i.extractLsb' 0 8)
  | .gear d a => encWord 0x6C (regCode d) (regCode a) 0
  | .rgn => encWord 0x6D 0 0 0
  | .rgnend => encWord 0x6E 0 0 0
  | .ldg d o x w h => encWord 0x70 (regCode d) (regCode o) (x ++ w ++ h)
  | .stg d o x w h => encWord 0x71 (regCode d) (regCode o) (x ++ w ++ h)
  | .ldgk d o x w h => encWord 0x72 (regCode d) (regCode o) (x ++ w ++ h)
  | .lds d o w => encWord 0x73 (regCode d) (regCode o) (0#3 ++ w ++ 0#2)
  | .sts d o w => encWord 0x74 (regCode d) (regCode o) (0#3 ++ w ++ 0#2)
  | .ldb d o x w => encWord 0x75 (regCode d) (regCode o) (x ++ w ++ 0#2)
  | .stb d o x w => encWord 0x76 (regCode d) (regCode o) (x ++ w ++ 0#2)
  | .prf o x h => encWord 0x77 0 (regCode o) (x ++ 0#3 ++ h)
  | .atomg d o x w h => encWord 0x78 (regCode d) (regCode o) (x ++ w ++ h)
  | .atomg64 d o x w h => encWord 0x79 (regCode d) (regCode o) (x ++ w ++ h)
  | .casg d o x h => encWord 0x7A (regCode d) (regCode o) (x ++ 2#3 ++ h)
  | .atoms d o w => encWord 0x7B (regCode d) (regCode o) (0#3 ++ w ++ 0#2)
  | .cass d o => encWord 0x7C (regCode d) (regCode o) (0#3 ++ 2#3 ++ 0#2)
  | .fence p s c => encWord 0x80 (p ++ s) (c ++ 0#5) 0
  | .bar n => encWord 0x81 0 0 (0#4 ++ n)
  | .arrive d n => encWord 0x82 (regCode d) 0 (0#5 ++ n)
  | .waitb n a => encWord 0x83 (0#5 ++ n) (regCode a) 0
  | .testb d a n => encWord 0x84 (regCode d) (regCode a) (0#5 ++ n)
  | .waitc p a => encWord 0x85 (0#5 ++ p) (regCode a) 0
  | .gang a => encWord 0x86 0 (regCode a) 0
  | .rawait d n => encWord 0x87 (regCode d) 0 (0#4 ++ n)
  | .rrel n => encWord 0x88 0 0 (0#4 ++ n)
  | .rpost a n => encWord 0x89 0 (regCode a) (0#4 ++ n)
  | .rinit n a => encWord 0x8A (0#4 ++ n) (regCode a) 0
  | .mma a => encWord 0x90 0 (regCode a) 0
  | .mmaz a => encWord 0x91 0 (regCode a) 0
  | .mmas a => encWord 0x92 0 (regCode a) 0
  | .epi a => encWord 0x93 0 (regCode a) 0
  | .rowsum a => encWord 0x94 0 (regCode a) 0
  | .cmpr a => encWord 0x95 0 (regCode a) 0
  | .cbld a => encWord 0x96 0 (regCode a) 0
  | .qacc a => encWord 0x97 0 (regCode a) 0
  | .clrt a => encWord 0x98 0 (regCode a) 0
  | .mtrn a => encWord 0x99 0 (regCode a) 0
  | .ldef a l => encWord 0xA0 0 (regCode a) (0#6 ++ l)
  | .lpush a l => encWord 0xA1 0 (regCode a) (0#6 ++ l)
  | .lread a l => encWord 0xA2 0 (regCode a) (0#6 ++ l)
  | .lrung d a l => encWord 0xA3 (regCode d) (regCode a) (0#6 ++ l)
  | .lsetr a l => encWord 0xA4 0 (regCode a) (0#6 ++ l)
  | .lstep d l => encWord 0xA5 (regCode d) 0 (0#6 ++ l)
  | .lstepw a l => encWord 0xA6 0 (regCode a) (0#6 ++ l)
  | .lclr l => encWord 0xA7 0 0 (0#6 ++ l)
  | .cpy d a f => encWord 0xB0 (regCode d) (regCode a) (flagsByte f)
  | .cpy2 d a f => encWord 0xB1 (regCode d) (regCode a) (flagsByte f)
  | .cpyx d a f => encWord 0xB2 (regCode d) (regCode a) (flagsByte f)
  | .cpym d a f => encWord 0xB3 (regCode d) (regCode a) (flagsByte f)
  | .cpye d a f => encWord 0xB4 (regCode d) (regCode a) (flagsByte f)
  | .cpyg d a f => encWord 0xB5 (regCode d) (regCode a) (flagsByte f)
  | .redx d a f => encWord 0xB6 (regCode d) (regCode a) (flagsByte f)
  | .cwait d a => encWord 0xB7 (regCode d) (regCode a) 0
  | .cstat d a => encWord 0xB8 (regCode d) (regCode a) 0
  | .ccan a => encWord 0xB9 0 (regCode a) 0
  | .rfill a => encWord 0xBA 0 (regCode a) 0
  | .rft => encWord 0xC0 0 0 0
  | .fltq d => encWord 0xC1 (regCode d) 0 0
  | .mapft d a => encWord 0xC2 (regCode d) (regCode a) 0
  | .replay => encWord 0xC3 0 0 0
  | .cancel a => encWord 0xC4 0 (regCode a) 0
  | .haltb a => encWord 0xC5 0 (regCode a) 0
  | .drain => encWord 0xC6 0 0 0
  | .tlbinv a b => encWord 0xC7 0 (regCode a) (regCode b)
  | .mfsv d i => encWord 0xC8 (regCode d) (i.extractLsb' 8 8) (i.extractLsb' 0 8)
  | .mtsv d i => encWord 0xC9 (regCode d) (i.extractLsb' 8 8) (i.extractLsb' 0 8)
  | .errinj a => encWord 0xCA 0 (regCode a) 0
  | .vsflush => encWord 0xCB 0 0 0
  | .resumeb a => encWord 0xCC 0 (regCode a) 0
  | _ => []

end Sys2Proof
end

