-- ==== Sys2Proof/Machine/Fetch.lean ====
section
/-! DEFINITION. Fetching (R21, R23, R146, R174): the bytes at a slot's PC, the word they decode to, the trap of a fetch that
fails, and the smallest module in which a given word is the next to issue. -/

namespace Sys2Proof.Machine
open Sys2Proof

/-- What a fetch finds. -/
inductive Fetched where
  | word (i : Instr)
  /-- Cause, SYND[7:4] and the address. -/
  | fault (cause : Cause) (synd va : Nat)
  deriving DecidableEq, Repr

/-- The address of the word at a PC of a thread's launch (R146). -/
def fetchAddress (l : Launch) (ccp : Bool) (pc : Nat) : Nat := l.window ccp * 2 ^ 32 + pc

/-- Four bytes of code (R23, R174): a leaf with R = 0, sealed or not, a walk that ends otherwise, or a page outside this module
is cause 0x03; a poisoned sector of code is consumed (log 9). -/
def fetchFour (s : State) (part va : Nat) : Except (Cause × Nat) (List Byte) :=
  let w := walkPages s part va
  let phys := leafPhys w va
  match w with
  | .invalid .. => .error (.address, 1)
  | .malformed => .error (.address, 3)
  | .uncorrectable => .error (.address, 0)
  | .leaf e =>
    if !e.r then .error (.address, 2)
    else if physModule phys ≠ s.fabric.module then .error (.address, 3)
    else if anyPoison s.poison (physKey phys) 4 then .error (.uncorrectable, 0)
    else .ok (s.readMem (s.partAt part).key (physKey phys) 4)

/-- The word at a slot's PC: LIW takes its literal from the address above (R21), and bytes that decode to nothing are the
word of R34. A LIW whose own four bytes break a field (an MBZ bit, a reserved operand code) is that word before its literal is fetched;
what needs MODE.T or the allocation to see is found once the literal has come, so that a literal that cannot be fetched comes first: the
model's choice (log 115). -/
def fetchWord (s : State) (l : Launch) (ccp : Bool) (pc : Word) : Fetched :=
  let va := fetchAddress l ccp pc.toNat
  if pc.toNat % 4 ≠ 0 then .fault .address 0 va
  else
    match fetchFour s l.partition va with
    | .error (cause, synd) => .fault cause synd va
    | .ok bs =>
      match decode bs with
      | .ok (i, _) => .word i
      | .error .truncated =>
        if 2 ^ 32 ≤ pc.toNat + 4 then .fault .address 0 (va + 4)
        else
          match fetchFour s l.partition (va + 4) with
          | .error (cause, synd) => .fault cause synd (va + 4)
          | .ok more =>
            match decode (bs ++ more) with
            | .ok (i, _) => .word i
            | .error _ => .word (.illegalInstruction (BitVec.ofNat 32 (leNat bs)))
      | .error _ => .word (.illegalInstruction (BitVec.ofNat 32 (leNat bs)))

/-- A fetch that failed (R23): cause 0x03 parks the slot's lanes at the word that led to the fetch, or for LIW's literal at LIW
itself (R91), and an uncorrectable error of the code at the word itself (log 9). -/
def fetchFault (c : Ctx) (cause : Cause) (synd va : Nat) (s : State) : State :=
  let own := fetchAddress c.launch c.thread.ccp c.cur.pc.toNat
  let pc := if cause = .address && va = own then c.cur.last else c.cur.pc
  let s := { s with seq := s.seq + 1 }
  parkLanes s c.ref c.slot
    { cause := cause, lanes := c.cur.mask, synd := BitVec.ofNat 32 (synd * 16), va := va, pc := pc, seq := c.seq }
    c.cur.mask c.next

/-! ### A module with one word to run (log 4) -/

/-- The launch of `oneWord`: one block of one wave and a CCP thread, both entered at 0x2_0000, with 192 vector registers,
16 rings, 4 ladders and the largest regions; DONE counters 0 to 3. -/
def oneLaunch : Launch :=
  { noLaunch with
    state := .running
    nblk := 1
    next := 1
    desc :=
      leBytes 8 0x20000 ++ leBytes 8 0x20000 ++ leBytes 8 0x30000 ++ leBytes 8 0x40000 ++
      leBytes 4 1 ++ leBytes 2 1 ++ leBytes 2 1 ++ leBytes 4 0x09001801 ++
      leBytes 4 0x40000 ++ leBytes 4 0x40000 ++ leBytes 4 0x40000 ++ leBytes 4 0x40000 ++ zeros 40 ++
      leBytes 4 1 ++ leBytes 4 2 ++ leBytes 4 3 ++ zeros 16 }

/-- The block of `oneWord`: its wave and its CCP thread. -/
def oneBlock : Block where
  launch := 0
  blklin := 0
  waves := 1
  threads := [(0, freshThread false 0 0 192 0x20000 0x40000), (32, freshThread true 0 0 0 0x20000 0)]
  regions := []
  rpois := []
  rings := []
  ladders := []
  marker := 0
  request := 0
  halted := false
  exempt := none
  breaks := []
  out := []
  images := []
  placedAt := 0
  expired := false
  leaving := none
  aborted := false
  report := none
  cluster := 0
  edits := []

/-- A booted module whose core 0 holds `oneBlock` in partition 0, which maps virtual addresses below 2^36 to the same physical
addresses, with bytes placed at 0x2_0000 and the thread named about to issue. -/
def oneWord (s : State) (thread : Nat) (bytes : List Byte) : State :=
  let s := s.modPart 0 fun p => { p with configured := true, ptroot := 0x10000, ptrooth := 0 }
  let key := (s.partAt 0).key
  let s := s.writeMem key 0x10000 (leBytes 8 0x12001) false
  let s := s.writeMem key 0x12000 (leBytes 8 0x47) false
  let s := s.writeMem key 0x20000 bytes false
  let s := s.setCore 0
    { freshCore with partition := some 0, blocks := [(0, oneBlock)], quads := [(0, { freshQuadrant with active := [0] })] }
  { s with
    agenda := []
    phase := false
    who := ⟨0, 0, thread⟩
    whoSlot := false
    launches := insert s.launches 0 oneLaunch
    nextLaunch := max s.nextLaunch 1
    clusters := insert s.clusters 0 { launch := 0, blocks := [(0, some (0, 0))], counts := [], arrived := [] }
    nextCluster := max s.nextCluster 1
    boot := { s.boot with stage := 7, alarm := .clear } }

end Sys2Proof.Machine
end

