-- ==== Sys2Proof/Machine/StateOps.lean ====
section
/-! DEFINITION. Moves, literals and constants, slot settings, special registers and the other words of group 0x6_ (R77, R78,
R90 to R97, R170, R300, R301, R322, R361). -/

namespace Sys2Proof.Machine
open Sys2Proof

/-! ### MOV, LIW and LDK (R69, R90 to R92) -/

/-- The registers MOV writes with the ones it reads; a special in a pair stands with %zero (R26). -/
def Ctx.movePairs (c : Ctx) (d a : Reg) : List (Reg × Reg) := (useRegs (dstR d) c.ty).zip (tagRegs (srcR a) c.ty)

/-- MOV joins the entries of its source (R63). -/
def Ctx.moveJoins (c : Ctx) (d a : Reg) : Bool :=
  lineageOn c && isVec d && (tagRegs (srcR a) c.ty).all (nameable c.thread)

/-- Copy the registers privately, with their poison (R90, R359). Lanes guarded by a poisoned predicate consume it; a scalar
destination's stand for the whole effective mask. -/
def Ctx.moveCopy (c : Ctx) (d a : Reg) (s : State) : State :=
  let bad := c.guardPoison
  let outs := if isScalar d then [0] else lanesOf (c.eff &&& ~~~bad)
  if bad ≠ 0 && (isScalar d || restarts c.thread) then c.consumed c.eff 0 0 s
  else c.parkPoisoned bad (s.modThread c.ref fun th =>
    (c.movePairs d a).foldl (fun th p =>
      th.writeReg c.core c.slot p.1 (outs.map fun l => (l, c.reg p.2 l)) (c.poison p.2)) th)

/-- A MOV that joins a PENDING entry is bound to it like an instruction, but owes no flags (R73, R90). -/
def Core.joinMove (k : Core) (e : Nat) (w : Waiter) : Core :=
  k.modEntry e fun x => { x with comp := x.comp.map fun p => { p with waiters := p.waiters ++ [w] } }

/-- Bind MOV's destinations to the entries that stand for its sources (R69). -/
def Ctx.moveBind (c : Ctx) (d a : Reg) (s : State) : State :=
  match resolveTags c s.tick (s.coreAt c.ref.core) [] (tagRegs (srcR a) c.ty) with
  | (k, none) =>
    if c.sourcePending (.mov d a) then c.holdAt .operand s else c.moveCopy d a (s.setCore c.ref.core k)
  | (k, some tags) =>
    let binds := ((useRegs (dstR d) c.ty).map regNum).zip tags
    let k := binds.foldl (fun k b => k.joinMove b.2 { c.waiter b.1 with owes := false }) k
    c.stepOn (c.bindTo k binds 0 s)

/-- MOV (R90): a register moved onto itself changes nothing. -/
def execMov (d a : Reg) (s : State) : Host.Outcome State Fault Refusal :=
  let i := Instr.mov d a
  runGate (gateNaming (fun c => c.moveJoins d a) i s) i (fun c s =>
    if d = a then c.stepOn s else if c.moveJoins d a then c.moveBind d a s else c.moveCopy d a s) s

/-- LIW: the literal word that follows, unconverted (R91). -/
def execLiw (d : Reg) (literal : Word) (s : State) : Host.Outcome State Fault Refusal := laneWord (.liw d literal) s

/-- LDK: a constant of the launch's snapshot (R92). -/
def execLdk (d : Reg) (i : BitVec 8) (s : State) : Host.Outcome State Fault Refusal := laneWord (.ldk d i) s

/-! ### MODE, SETF, MFS and MTS (R94 to R97) -/

/-- MODE (R94). -/
def execMode (i : BitVec 16) (s : State) : Host.Outcome State Fault Refusal :=
  perform (.mode i) (fun c s => c.stepOn (s.modSlot c.ref c.slot fun x => { x with mode := i })) s

/-- SETF (R95). -/
def execSetf (a : Reg) (s : State) : Host.Outcome State Fault Refusal :=
  perform (.setf a)
    (fun c s => c.stepOn (s.modSlot c.ref c.slot fun x => { x with fmt := c.uniform a &&& 0x00FFFFFF })) s

/-- The registers whose MFS is order-dependent in a deterministic launch (R302). -/
def orderedIndex (i : BitVec 16) : Bool := i = 0x000 || i = 0x001 || i = 0x01A || i = 0x01B

/-- MFS (R96, R302). -/
def execMfs (d : Reg) (i : BitVec 16) (s : State) : Host.Outcome State Fault Refusal :=
  performEach (.mfs d i) d (fun c s =>
    if c.launch.det && orderedIndex i then c.raise .orderDependent c.eff 0 0 s else c.moveFrom d i.toNat s) s

/-- MTS (R97). -/
def execMts (d : Reg) (i : BitVec 16) (s : State) : Host.Outcome State Fault Refusal :=
  perform (.mts d i) (fun c s => c.moveTo d i.toNat s) s

/-! ### TAGOF and VSDROP (R77, R78) -/

/-- What TAGOF reports of a register's binding (R77). -/
def tagWord (k : Core) (th : Thread) (a : Reg) : Nat :=
  match find th.bound (regNum a) with
  | none => 0xFFFFFFFF
  | some e =>
    let st := (find k.entries e).map (·.state)
    e + (if st = some .pending then 2 ^ 16 else 0) + (if st = some .dead then 2 ^ 17 else 0)

/-- TAGOF (R77): the binding is no value and carries no poison; a poisoned guard is consumed (R359). -/
def execTagof (d a : Reg) (s : State) : Host.Outcome State Fault Refusal :=
  issue (.tagof d a) (fun c s =>
    let bad := c.guardPoison
    let outs := if isScalar d then [0] else lanesOf (c.eff &&& ~~~bad)
    if bad ≠ 0 && (isScalar d || restarts c.thread) then c.consumed c.eff 0 0 s
    else c.parkPoisoned bad (s.modThread c.ref fun th =>
      th.writeReg c.core c.slot d (outs.map fun l => (l, tagWord c.core c.thread a)) 0)) s

/-- VSDROP (R78): the register keeps what it shows, privately, once its entry is published. -/
def execVsdrop (d : Reg) (s : State) : Host.Outcome State Fault Refusal :=
  issue (.vsdrop d) (fun c s =>
    if boundPending c.core c.thread d then c.holdAt .operand s
    else if c.guardPoison ≠ 0 then c.consumed c.eff 0 0 s
    else c.stepOn (s.modThread c.ref fun th => th.privatise c.core (regNum d))) s

/-! ### XLAT (R170) -/

/-- XLAT: the register is busy until its walk ends (R170). -/
def execXlat (t : BitVec 3) (a b : Reg) (s : State) : Host.Outcome State Fault Refusal :=
  perform (.xlat t a b) (fun c s =>
    let base := c.pair a
    if 2 ^ 56 ≤ base then c.raise .address c.eff 0x40 (base % 2 ^ 56) s
    else if 32 ≤ walksInFlight s (dieOf c.ref.core) then c.holdAt .walk s
    else
      let s := startWalk s c.ref c.slot base (some t.toNat) (c.uniform b).toNat
      c.stepOn (s.modThread c.ref fun th =>
        { th with tregs := put freshTReg th.tregs t.toNat { th.treg t.toNat with base := base, busy := true } })) s

/-! ### GRAISE and PHASE (R300, R301) -/

/-- Raise a launch's block count (R300): the blocks join the raised list unless the launch places none any more. -/
def raiseBlocks (s : State) (l old n : Nat) : State :=
  match s.launchAt l with
  | none => s
  | some x =>
    let s := s.modLaunch l fun x => { x with nblk := old + n }
    if n = 0 || x.state = .cancelled || x.state = .failed then s
    else (s.modLaunch l fun x => { x with state := .dispatching }).modPart x.partition fun p => { p with raised := p.raised ++ [(l, old, n)] }

/-- GRAISE (R300, R302): the blocks it adds see the wave's older accesses. -/
def execGraise (d a : Reg) (s : State) : Host.Outcome State Fault Refusal :=
  perform (.graise d a) (fun c s =>
    let n := (c.uniform a).toNat
    let old := c.launch.nblk
    if c.launch.det then c.raise .orderDependent c.eff 0 0 s
    else if !c.released then c.holdAt .queue s
    else if n % c.launch.clusterSize ≠ 0 || 2 ^ 32 - 1 < old + n then c.stepOn (c.putScalar d 0xFFFFFFFF s)
    else c.stepOn (c.putScalar d old (raiseBlocks s c.block.launch old n))) s

/-- PHASE (R301, R329). -/
def execPhase (i : BitVec 16) (s : State) : Host.Outcome State Fault Refusal :=
  perform (.phase i) (fun c s =>
    c.stepOn (markPhase (s.modBlock c.ref.core c.ref.block fun b => { b with marker := i.toNat })
      c.ref.core c.ref.block)) s

/-! ### GEAR (R322) -/

/-- A request word breaks its fields. -/
def badRequest (r : Nat) : Bool := r / 512 != 0 || bits r 7 6 != 0 || bits r 3 1 != 0 || bits r 5 4 = 3

/-- The status that denies a request on a core; none when it is granted or recorded. -/
def denied (g : Gear) (r : Nat) : Option Nat :=
  if bit r 0 then (if bits r 5 4 < g.capLevel then some 3 else none)
  else if proofAllowed g (bits r 5 4) then none else some 2

/-- The end of a GEAR whose request stands: the status, or a wait until no shift is pending (R322). -/
def Ctx.gearStatus (c : Ctx) (d : Reg) (r : Nat) (s : State) : State :=
  if bit r 8 && shiftPending s c.ref.core then c.holdAt .gear s
  else
    let p := (s.coreAt c.ref.core).gear.point
    c.stepOn (c.putScalar d (if p = ⟨bit r 0, bits r 5 4⟩ then 0 else 1) s)

/-- GEAR (R322). A slot that already waits has recorded its request. -/
def execGear (d a : Reg) (s : State) : Host.Outcome State Fault Refusal :=
  perform (.gear d a) (fun c s =>
    let r := (c.uniform a).toNat
    if c.cur.hold = .gear then c.gearStatus d r s
    else if badRequest r then c.raise .illegal c.eff 0 0 s
    else if c.launch.det then c.stepOn (c.putScalar d 4 s)
    else match denied (s.coreAt c.ref.core).gear r with
      | some status => c.stepOn (c.putScalar d status s)
      | none =>
        c.gearStatus d r (s.modBlock c.ref.core c.ref.block fun b => { b with request := r % 64 })) s

/-! ### RGN and RGNEND (R360, R361) -/

/-- An open region closes only once paths 0, 2, 3 and 5 are 0 (R361). -/
def Ctx.closeWaits (c : Ctx) : Bool :=
  c.thread.rgnpc.toNat % 4 ≠ 0 && [0, 2, 3, 5].any fun p => pathCount c.core c.ref c.thread p ≠ 0

/-- RGN (R361): RGNPC takes the word's address with STATE 1; R368 finds that address there at the end. -/
def execRgn (s : State) : Host.Outcome State Fault Refusal :=
  perform .rgn (fun c s =>
    if c.thread.paths.frame.isSome || (c.thread.paths.slot (!c.slot)).park.isSome || c.thread.depth ≠ 0 then
      c.raise .illegal c.eff 0 0 s
    else if c.closeWaits then c.holdAt .region s
    else c.stepOn (s.modThread c.ref fun th => { th with rgnpc := wordAligned c.cur.pc + 1 })) s

/-- RGNEND (R361): STATE 0, and RGNPC keeps its address (R368). -/
def execRgnend (s : State) : Host.Outcome State Fault Refusal :=
  perform .rgnend (fun c s =>
    if c.closeWaits then c.holdAt .region s
    else c.stepOn (s.modThread c.ref fun th => { th with rgnpc := wordAligned th.rgnpc })) s

end Sys2Proof.Machine
end

