-- ==== Sys2Proof/Machine/System.lean ====
section
/-! DEFINITION. System instructions (R260 to R275, R364): returns, fault records, first-touch mapping, replay and cancel, halts,
TLB and value-store maintenance, supervisor registers and error injection. -/

namespace Sys2Proof.Machine
open Sys2Proof

/-- ILLEGAL_INSTRUCTION (R34): a word that no row of R30 encodes always takes its trap before it issues. -/
def execIllegalInstruction (w : Word) (s : State) : Host.Outcome State Fault Refusal :=
  perform (.illegalInstruction w) (fun c s => c.raise .illegal c.eff 0 0 s) s

/-- RFT (R266). -/
def execRft (s : State) : Host.Outcome State Fault Refusal :=
  perform .rft (fun c s =>
    if c.thread.depth = 0 then c.raise .illegal c.eff 0 0 s
    else (leaveHandler s c.ref c.thread).modThread c.ref fun th => endIfEmpty th.returnTrap) s

/-! ### Fault records (R260) -/

/-- The code of an access kind in a fault record (R260). -/
def kindCode : AccessKind → Nat
  | .load => 0 | .store => 1 | .atomic => 2 | .spillWrite => 3 | .spillRead => 4

/-- Records of a wave that have not entered the queue yet. -/
def recordsDue (th : Thread) : Nat :=
  ((th.log.map fun e => e.unqueued.length).sum) + ((th.faulted.map fun e => e.pages.length).sum)

/-- The records of a wave in its core's queue, oldest first. -/
def recordsHere (k : Core) (t : ThreadRef) : List FaultRecord :=
  k.faultQ.filter fun r => r.block = t.block && r.thread = t.thread

/-- The four words of a record, with `left` records still to be read (R260). -/
def recordWords (r : FaultRecord) (left : Nat) : List Nat :=
  [r.va % 2 ^ 32, r.va / 2 ^ 32 % 2 ^ 24 + kindCode r.kind * 2 ^ 24 + r.number * 2 ^ 28, r.lanes.toNat,
   4 + min left 63 * 256 + 2 ^ 31]

/-- The list without the first element that a test picks. -/
def dropFirst (p : α → Bool) : List α → List α
  | [] => []
  | x :: rest => if p x then rest else x :: dropFirst p rest

/-- Write words to consecutive scalars from d on. -/
def Ctx.putScalars (c : Ctx) (d : Reg) (ws : List Nat) (s : State) : State :=
  s.modThread c.ref fun th =>
    ((List.range ws.length).zip ws).foldl (fun th (i, w) => th.writeReg c.core c.slot (sreg (regNum d + i)) [(0, w)] 0) th

/-- FLTQ (R260). -/
def execFltq (d : Reg) (s : State) : Host.Outcome State Fault Refusal :=
  perform (.fltq d) (fun c s =>
    if c.thread.depth = 0 then c.raise .illegal c.eff 0 0 s
    else match recordsHere c.core c.ref with
      | [] =>
        if recordsDue c.thread ≠ 0 then c.holdAt .records s else c.stepOn (c.putScalars d [0, 0, 0, 0] s)
      | r :: rest =>
        let s := s.modCore c.ref.core fun k => { k with faultQ := dropFirst (· = r) k.faultQ }
        c.stepOn (c.putScalars d (recordWords r (rest.length + recordsDue c.thread)) s)) s

/-! ### MAPFT (R261, R262) -/

/-- Where a walk toward the level-0 entry of an address ends: its address, or MAPFT's status. -/
def findEntry (s : State) (key va : Nat) : (levels : List Nat) → (table : Nat) → Except Nat Nat
  | [], table =>
    let a := entryAt table va 0
    if anyPoison s.poison a 8 then .error 4
    else
      let e := leNat (s.readMem key a 8)
      if bit e 0 then .error (if malformed s.fabric.module e 0 then 2 else 1)
      else if bit e 4 then .ok a
      else .error 2
  | level :: below, table =>
    let a := entryAt table va level
    if anyPoison s.poison a 8 then .error 4
    else
      let e := leNat (s.readMem key a 8)
      if !bit e 0 || malformed s.fabric.module e level then .error 2
      else if bit e 6 then .error 1
      else findEntry s key va below (physKey (entryAddr e))

/-- Memory with 64 KiB of zeros from key a on, under a key. -/
def State.zeroFrame (s : State) (key a : Nat) : State :=
  let inside (x : Nat) : Bool := decide (a ≤ x) && decide (x < a + 65536)
  { s with
    mem := s.mem.filter fun c => !inside c.1
    memKey := (blocksOf a 65536).foldl (fun m x => insert m x key) s.memKey
    poison := s.poison.filter fun x => !inside (32 * x) }

/-- The leaf that MAPFT installs for a frame of this module (R262). -/
def firstTouchLeaf (module frame : Nat) : Nat := module * moduleWeight + frame + 71

/-- Map the first-touch page of an address with a frame of the pool; the state and MAPFT's status (R262). -/
def mapFirstTouch (s : State) (part va : Nat) : State × Nat :=
  let p := s.partAt part
  if 2 ^ 56 ≤ va then (s, 2)
  else match findEntry s p.key va [3, 2, 1] (rootOf p) with
    | .error status => (s, status)
    | .ok entry =>
      let pool := p.pool.toNat * 4096
      let own := s.boot.moduleKey
      let top := leNat (s.readMem own pool 4)
      let slot := pool + 16 + 4 * (top - 1)
      let frame := leNat (s.readMem own slot 4) * 65536
      if anyPoison s.poison pool 4 then (s, 4)
      else if top = 0 then (s, 3)
      else if anyPoison s.poison slot 4 || !keyExists frame then (s, 4)
      else if findD s.seals (frame / 65536) 0 ≠ 0 then (s, 2)
      else
        let s := s.writeMem own pool (leBytes 4 (top - 1)) false
        let s := s.zeroFrame p.key frame
        (s.writeMem p.key entry (leBytes 8 (firstTouchLeaf s.fabric.module frame)) false, 0)

/-- MAPFT (R262). -/
def execMapft (d a : Reg) (s : State) : Host.Outcome State Fault Refusal :=
  perform (.mapft d a) (fun c s =>
    let (s, status) := mapFirstTouch s c.part (c.pair a)
    c.stepOn (c.putScalar d status s)) s

/-! ### REPLAY and CANCEL (R263 to R265) -/

/-- The handler was entered for a page fault. -/
def Ctx.pageHandler (c : Ctx) : Bool := (c.thread.saved.head?.map fun v => v.info.cause == .page).getD false

/-- The stores of a wave that can be performed have been (R193, R263, R274, log 92). -/
def storesDrained (th : Thread) : Bool := th.drains.isEmpty

/-- The entries that a handler's REPLAY and CANCEL act on. -/
def Ctx.entriesBelow (c : Ctx) : List LogEntry := c.thread.log.filter fun e => e.depth + 1 = c.thread.depth

/-- A lane's access walked anew (R175, R263). -/
def rewalkLane (s : State) (part base : Nat) (kind : AccessKind) (lane offset n : Nat) : LaneResult :=
  let va := base + offset
  (placeFault kind va n).getD (laneResult s kind lane va ((cutPages va n).map fun (a, k) => (a, k, walkPages s part a)))

/-- The log entry holds a lane for a mask: its own bit, or any of those one access stands for. -/
def LogEntry.laneMask (e : LogEntry) (l : LogLane) : Word := if e.shared ≠ 0 then e.shared else laneBit l.lane

/-- What a replay of one entry finds: lanes that perform, lanes that fault again, and lanes that meet another cause. -/
structure Replayed where
  ok : List (LogLane × LaneAccess)
  again : List LogLane
  traps : List (Cause × Nat × Nat × Word)

/-- Walk every lane of an entry anew. -/
def replayEntry (s : State) (part : Nat) (e : LogEntry) : Replayed :=
  e.lanes.foldl (fun r l =>
    match rewalkLane s part e.base e.kind l.lane l.offset (accessSize e.word) with
    | .ok x => { r with ok := r.ok ++ [(l, x)] }
    | .fault .page _ _ vas => { r with again := r.again ++ [{ l with vas := vas }] }
    | .fault cause synd va _ => { r with traps := r.traps ++ [(cause, synd, va, e.laneMask l)] }
    | .waits _ => r) ⟨[], [], []⟩

/-- The late traps of an entry's lanes, one for each cause (R263). -/
def entryTraps (e : LogEntry) (xs : List (Cause × Nat × Nat × Word)) : List LateTrap :=
  (xs.map (·.1)).eraseDups.filterMap fun cause =>
    let mine := xs.filter fun x => x.1 = cause
    mine.head?.map fun (_, synd, va, _) =>
      { info :=
          { cause := cause, lanes := mine.foldl (fun m x => m ||| x.2.2.2) 0, synd := BitVec.ofNat 32 (16 * synd), va := va,
            pc := e.pc, seq := e.seq }
        depth := e.depth
        atNext := false }

/-- The lowest number that no entry of a log holds. -/
def freeNumber (log : List LogEntry) : Nat := ((List.range 8).find? fun n => log.all fun e => e.number ≠ n).getD 0

/-- Lanes leave the load or store that an entry logged: `gone` wait no more. -/
def Thread.unlog (th : Thread) (seq : Nat) (gone : Word) : Thread :=
  { th with
    loads := th.loads.map fun x => if x.seq = seq then { x with logged := x.logged &&& ~~~gone } else x
    stores := th.stores.map fun x => if x.seq = seq then { x with waiting := x.waiting &&& ~~~gone } else x }

/-- Cancelled lanes of a load that makes one access for all keep their contents (R178, R265). -/
def Thread.unshare (th : Thread) (seq : Nat) (gone : Word) : Thread :=
  { th with loads := th.loads.map fun x => if x.seq = seq then { x with shared := x.shared &&& ~~~gone } else x }

/-- Store lanes in ascending order, with others added. -/
def addLanes (xs ys : List LaneStore) : List LaneStore :=
  (List.range 32).filterMap fun l => (xs ++ ys).find? fun x => x.access.lane = l

/-- Put the lanes a replay performs back into the load or store they belong to (R264): a load's count as issued now. -/
def Thread.reissue (th : Thread) (seq now : Nat) (ok : List (LogLane × LaneAccess)) : Thread :=
  { th with
    loads := th.loads.map fun x =>
      if x.seq = seq && !ok.isEmpty then { x with accesses := x.accesses ++ ok.map (·.2), order := now } else x
    stores := th.stores.map fun x =>
      if x.seq = seq then
        { x with lanes := addLanes x.lanes (ok.map fun (l, a) => { access := a, bytes := l.bytes, poison := l.poison }) }
      else x }

/-- Re-issue one entry (R263): its lanes go back to their access, fault again, or wait as late traps. -/
def replayOne (s : State) (t : ThreadRef) (part : Nat) (e : LogEntry) : State :=
  let r := replayEntry s part e
  let okMask := r.ok.foldl (fun m x => m ||| e.laneMask x.1) 0
  let trapMask := r.traps.foldl (fun m x => m ||| x.2.2.2) 0
  let s := if r.again.isEmpty then s
    else s.modCore t.core fun k => { k with fltcnt := min (k.fltcnt + r.again.length) (2 ^ 32 - 1) }
  let s := s.modThread t fun th =>
    let log := th.log.filter (· ≠ e)
    let log := if r.again.isEmpty then log
      else log ++ [{ e with number := freeNumber log, lanes := r.again, queued := [] }]
    { ((th.unlog e.seq (okMask ||| trapMask)).reissue e.seq s.seq r.ok).popLoads with
      log := log
      late := th.late ++ entryTraps e r.traps }
  { s with seq := s.seq + 1 }

/-- REPLAY (R263). -/
def execReplay (s : State) : Host.Outcome State Fault Refusal :=
  perform .replay (fun c s =>
    let es := c.entriesBelow
    if !c.pageHandler then c.raise .illegal c.eff 0 0 s
    else if !storesDrained c.thread ||
        c.thread.loads.any (fun x => !x.accesses.isEmpty && es.any fun e => e.seq = x.seq) then c.holdAt .system s
    else c.stepOn (es.foldl (fun s e => replayOne s c.ref c.part e) s)) s

/-- Cancel lanes of one entry (R265). -/
def cancelOne (s : State) (t : ThreadRef) (lanes : Word) (e : LogEntry) : State :=
  let gone := e.mask &&& lanes
  if gone = 0 then s
  else
    let hit := e.lanes.filter fun l => e.laneMask l &&& lanes ≠ 0
    let va := ((hit.head?.bind fun l => l.vas.head?).map (·.1)).getD 0
    let trap : LateTrap :=
      { info := { cause := .address, lanes := gone, synd := 0x70, va := va, pc := e.pc, seq := e.seq }
        depth := e.depth, atNext := false }
    let left : LogEntry :=
      if e.shared ≠ 0 then { e with shared := e.shared &&& ~~~lanes }
      else { e with lanes := e.lanes.filter fun l => !hasLane lanes l.lane }
    let empty := if e.shared ≠ 0 then left.shared = 0 else left.lanes.isEmpty
    s.modThread t fun th =>
      { ((th.unlog e.seq gone).unshare e.seq gone).popLoads with
        log := if empty then th.log.filter (· ≠ e) else th.log.map fun x => if x = e then left else x
        late := th.late ++ [trap] }

/-- CANCEL (R265). -/
def execCancel (a : Reg) (s : State) : Host.Outcome State Fault Refusal :=
  perform (.cancel a) (fun c s =>
    if !c.pageHandler then c.raise .illegal c.eff 0 0 s
    else c.stepOn (c.entriesBelow.foldl (fun s e => cancelOne s c.ref (c.uniform a) e) s)) s

/-! ### Halts (R272, R273) -/

/-- HALTB (R272). -/
def execHaltb (a : Reg) (s : State) : Host.Outcome State Fault Refusal :=
  perform (.haltb a) (fun c s =>
    let mask := c.uniform a
    c.stepOn (s.modCore c.ref.core fun k =>
      { k with blocks := k.blocks.map fun (n, b) =>
          (n, if hasLane mask n then
            { b with halted := true, exempt := if n = c.ref.block then some c.ref.thread else none } else b) })) s

/-- Park the pending breakpoint of a slot, or pass it (R317). -/
def deliverBreak (s : State) (core block : Nat) (skip : Bool) (x : Nat × Bool × TrapInfo) : State :=
  let t : ThreadRef := ⟨core, block, x.1⟩
  match s.threadAt t with
  | none => s
  | some th =>
    if skip then s.modSlot t x.2.1 fun y => { y with pc := x.2.2.pc + 4 }
    else if (th.paths.slot x.2.1).park.isSome then s
    else parkLanes s t x.2.1 x.2.2 x.2.2.lanes (x.2.2.pc + 4)

/-- Restart a halted block: pending breakpoints are delivered, or skipped (R272, R317). -/
def resumeBlock (s : State) (core block : Nat) (skip : Bool) : State :=
  match s.blockAt core block with
  | none => s
  | some b =>
    if !b.halted then s
    else
      let s := applyEdits (s.modBlock core block fun b => { b with halted := false, exempt := none, breaks := [] }) core block
      b.breaks.foldl (fun s x => deliverBreak s core block skip x) s

/-- RESUMEB (R272). -/
def execResumeb (a : Reg) (s : State) : Host.Outcome State Fault Refusal :=
  perform (.resumeb a) (fun c s =>
    c.stepOn ((lanesOf (c.uniform a)).foldl (fun s n => resumeBlock s c.ref.core n false) s)) s

/-- A thread of a halted block has work in flight that DRAIN waits for (R273). -/
def drainsStill (s : State) (t : ThreadRef) (th : Thread) : Bool :=
  !s.quiet t || !th.loads.isEmpty || !th.stores.isEmpty || !th.faulted.isEmpty ||
  th.log.any (fun e => !e.unqueued.isEmpty) || th.cmds.any fun x => x.status.isNone

/-- DRAIN (R273). -/
def execDrain (s : State) : Host.Outcome State Fault Refusal :=
  perform .drain (fun c s =>
    if (s.coreAt c.ref.core).blocks.any fun (n, b) =>
        b.halted && b.threads.any fun (t, th) => drainsStill s ⟨c.ref.core, n, t⟩ th then c.holdAt .drain s
    else c.stepOn s) s

/-! ### TLBINV (R171, R274) -/

/-- The size exponent of a span code; none for every translation. -/
def spanLog (x : Nat) : Option Nat :=
  match x % 4 with
  | 0 => some 16 | 1 => some 26 | 2 => some 36
  | _ => none

/-- A range of n bytes from `lo` on meets the span of an address. -/
def spanMeets (x va lo n : Nat) : Bool :=
  match spanLog x with
  | none => true
  | some k => decide (lo / 2 ^ k ≤ va / 2 ^ k) && decide (va / 2 ^ k ≤ (lo + n - 1) / 2 ^ k)

/-- A cached leaf that an invalidation of a partition's span removes. -/
def TlbEntry.hit (e : TlbEntry) (part x va : Nat) : Bool :=
  e.partition = part && spanMeets x va (e.page * 2 ^ e.log) (2 ^ e.log)

/-- A translation register with its fast limit cleared where the span meets the page or block that its frame came from (R171). -/
def TReg.forget (r : TReg) (x va : Nat) : TReg :=
  if r.limit ≠ 0 && spanMeets x va (r.base / 2 ^ r.log * 2 ^ r.log) (2 ^ r.log) then { r with limit := 0 } else r

/-- A thread's translation registers, the saved ones and those of its commands too. -/
def Thread.forgetPages (th : Thread) (x va : Nat) : Thread :=
  { th with
    tregs := th.tregs.map fun (n, r) => (n, r.forget x va)
    saved := th.saved.map fun v => { v with t6 := v.t6.forget x va, t7 := v.t7.forget x va }
    cmds := th.cmds.map fun c => { c with source := c.source.forget x va, dest := c.dest.forget x va } }

/-- What a walk that has ended found lies in a span: its leaf or the block of its invalid entry. -/
def Walk.hit (w : Walk) (x va : Nat) : Bool :=
  match w.result with
  | none => false
  | some (.leaf e) => spanMeets x va (e.page * 2 ^ e.log) (2 ^ e.log)
  | some r => spanMeets x va (w.va / 2 ^ r.log * 2 ^ r.log) (2 ^ r.log)

/-- A core's translations of a partition without those a span covers; a walk that has ended is forgotten with them, and one under way
reads the tables as they stand when it ends. -/
def Core.forgetPages (k : Core) (s : State) (part x va : Nat) : Core :=
  { k with
    tlb := k.tlb.filter fun e => !e.hit part x va
    walks := k.walks.filter fun w => !(partOf s w.thread = part && w.hit x va)
    blocks := k.blocks.map fun (n, b) =>
      (n, if (s.launchOf b).partition = part then
        { b with threads := b.threads.map fun (t, th) => (t, th.forgetPages x va) } else b) }

/-- Remove a partition's translations on the cores and dies of a scope (R274). -/
def invalidate (s : State) (core part x va : Nat) : State :=
  let scope := x / 4 % 4
  let inScope (c : Nat) : Bool := if scope = 0 then c = core else if scope = 1 then dieOf c = dieOf core else true
  let dieIn (d : Nat) : Bool := if scope = 0 then false else if scope = 1 then d = dieOf core else true
  { s with
    cores := s.cores.map fun (c, k) => (c, if inScope c then k.forgetPages s part x va else k)
    l2tlb := s.l2tlb.map fun (d, l) => (d, if dieIn d then l.filter fun e => !e.hit part x va else l) }

/-- TLBINV (R274). -/
def execTlbinv (a b : Reg) (s : State) : Host.Outcome State Fault Refusal :=
  perform (.tlbinv a b) (fun c s =>
    if !storesDrained c.thread then c.holdAt .system s
    else c.stepOn (invalidate s c.ref.core c.part (c.uniform b).toNat (c.pair a))) s

/-! ### MFSV and MTSV (R271) -/

/-- MFSV (R271). -/
def execMfsv (d : Reg) (i : BitVec 16) (s : State) : Host.Outcome State Fault Refusal :=
  performEach (.mfsv d i) d (fun c s => c.moveFrom d i.toNat s) s

/-- MTSV (R271). -/
def execMtsv (d : Reg) (i : BitVec 16) (s : State) : Host.Outcome State Fault Refusal :=
  perform (.mtsv d i) (fun c s => c.moveTo d i.toNat s) s

/-! ### VSFLUSH (R275) -/

/-- VSFLUSH (R275): registers bound to the entries trap when they are read (R281). -/
def execVsflush (s : State) : Host.Outcome State Fault Refusal :=
  perform .vsflush (fun c s =>
    if c.core.entries.any fun (_, x) => x.state == .pending then c.holdAt .system s
    else c.stepOn (s.modCore c.ref.core fun k => k.kill (fun _ _ => true) true)) s

/-! ### ERRINJ (R363, R364) -/

/-- What ERRINJ's scalars ask for: an arm, or the trap of its first failed check. -/
inductive Inject where
  | arm (a : Arm)
  | trap (cause : Cause) (synd va : Nat)

/-- The region that a SPACE code names (R364), as a space. -/
def injectSpace (x : Nat) : Space :=
  match x % 4 with
  | 0 => .sm | 1 => .ab | 2 => .cb | _ => .wb

/-- The checks of ERRINJ, in their order. -/
def injection (l : Launch) (testen : Word) (ccp : Bool) (x y : Nat) : Inject :=
  let kind := x % 16
  let illegal : Inject := .trap .illegal 0 0
  if bits x 7 4 ≠ 0 || 2 ^ 11 ≤ x || 4 ≤ kind then illegal
  else if !testen.getLsbD kind then .trap .privileged 0 0
  else match kind with
    | 0 => if y = 0 || 12 < y then illegal else .arm (.residue y)
    | 1 =>
      let sp := injectSpace (bits x 10 9)
      let code := spaceCode sp
      if y % 32 ≠ 0 then illegal
      else if !insideRegion (l.regionSize code) y 32 then .trap .address code y
      else .arm (.ecc sp y (bit x 8))
    | 2 => if 36 ≤ y then illegal else .arm (.fabric y)
    | _ => if !ccp || bits y 7 5 ≠ 0 then illegal else .arm (.copy (y % 32) (y / 256))

/-- The kind of an arm. -/
def armKind : Arm → Nat
  | .residue _ => 0 | .ecc .. => 1 | .fabric _ => 2 | .copy .. => 3

/-- ERRINJ (R364): a later arm of a kind replaces an earlier one. -/
def execErrinj (a : Reg) (s : State) : Host.Outcome State Fault Refusal :=
  perform (.errinj a) (fun c s =>
    match injection c.launch (s.partAt c.part).testen c.thread.ccp (c.field a 0).toNat
        (c.field a 1).toNat with
    | .trap cause synd va => c.raise cause c.eff (BitVec.ofNat 32 synd) va s
    | .arm x => c.stepOn (s.modThread c.ref fun th =>
        { th with
          arms := th.arms.filter (fun y => armKind y ≠ armKind x) ++ [x]
          copyWords := if armKind x = 3 then [] else th.copyWords })) s

end Sys2Proof.Machine
end

