-- ==== Sys2Proof/Machine/Ready.lean ====
section
/-! DEFINITION. Readiness (R148) and the long-latency holds (R149): what a slot's next word waits for, as the wave scheduler sees
it before the word is tried. -/

namespace Sys2Proof.Machine
open Sys2Proof

/-- The slot of a thread as its next word finds it, with the word and its effective mask; none where the fetch fails. -/
def nextWord (s : State) (t : ThreadRef) (n : Bool) : Option (Ctx × Instr) :=
  match ({ s with who := t, whoSlot := n } : State).issuer with
  | none => none
  | some c => match fetchWord s c.launch c.thread.ccp c.cur.pc with
    | .word i => some ({ c with eff := effectiveMask i c.thread c.cur }, i)
    | .fault .. => none

/-- A word resolves its destination by its sources' tags, and so does not wait for their values (R69). -/
def namesSources (c : Ctx) (i : Instr) : Bool :=
  match i with
  | .mov d a => c.moveJoins d a
  | _ => hasLineage i c

/-! ### Trying a word -/

/-- What the meaning of a word that may be held does; none for a word that only its operands hold. -/
def attempt (i : Instr) (s : State) : Option (Host.Outcome State Fault Refusal) :=
  match i with
  | .mov d a => some (execMov d a s)
  | .mfs d x => some (execMfs d x s)
  | .mts d x => some (execMts d x s)
  | .mfsv d a => some (execMfsv d a s)
  | .mtsv d a => some (execMtsv d a s)
  | .vsdrop d => some (execVsdrop d s)
  | .xlat t a b => some (execXlat t a b s)
  | .graise d a => some (execGraise d a s)
  | .gear d a => some (execGear d a s)
  | .rgn => some (execRgn s)
  | .rgnend => some (execRgnend s)
  | .brp p n o => some (execBrp p n o s)
  | .ldg d o x w h => some (execLdg d o x w h s)
  | .stg d o x w h => some (execStg d o x w h s)
  | .ldgk d o x w h => some (execLdgk d o x w h s)
  | .lds d o w => some (execLds d o w s)
  | .sts d o w => some (execSts d o w s)
  | .ldb d o x w => some (execLdb d o x w s)
  | .stb d o x w => some (execStb d o x w s)
  | .prf o x h => some (execPrf o x h s)
  | .atomg d o x a h => some (execAtomg d o x a h s)
  | .atomg64 d o x a h => some (execAtomg64 d o x a h s)
  | .casg d o x h => some (execCasg d o x h s)
  | .atoms d o a => some (execAtoms d o a s)
  | .cass d o => some (execCass d o s)
  | .fence p u k => some (execFence p u k s)
  | .arrive d n => some (execArrive d n s)
  | .waitb n a => some (execWaitb n a s)
  | .waitc p a => some (execWaitc p a s)
  | .rawait d n => some (execRawait d n s)
  | .rrel n => some (execRrel n s)
  | .rpost a n => some (execRpost a n s)
  | .rinit n a => some (execRinit n a s)
  | .rfill a => some (execRfill a s)
  | .cwait d a => some (execCwait d a s)
  | .cpy d a f => some (execCpy d a f s)
  | .cpy2 d a f => some (execCpy2 d a f s)
  | .cpyx d a f => some (execCpyx d a f s)
  | .cpym d a f => some (execCpym d a f s)
  | .cpye d a f => some (execCpye d a f s)
  | .cpyg d a f => some (execCpyg d a f s)
  | .redx d a f => some (execRedx d a f s)
  | .mma a => some (execMma a s)
  | .mmaz a => some (execMmaz a s)
  | .mmas a => some (execMmas a s)
  | .epi a => some (execEpi a s)
  | .rowsum a => some (execRowsum a s)
  | .cmpr a => some (execCmpr a s)
  | .cbld a => some (execCbld a s)
  | .qacc a => some (execQacc a s)
  | .clrt a => some (execClrt a s)
  | .mtrn a => some (execMtrn a s)
  | .ldef a l => some (execLdef a l s)
  | .lpush a l => some (execLpush a l s)
  | .lread a l => some (execLread a l s)
  | .lrung d a l => some (execLrung d a l s)
  | .lsetr a l => some (execLsetr a l s)
  | .lstep d l => some (execLstep d l s)
  | .lstepw a l => some (execLstepw a l s)
  | .lclr l => some (execLclr l s)
  | .fltq d => some (execFltq d s)
  | .replay => some (execReplay s)
  | .haltb a => some (execHaltb a s)
  | .tlbinv a b => some (execTlbinv a b s)
  | .vsflush => some (execVsflush s)
  | _ => if lineageOpcode i then some (laneWord i s) else none

/-- A slot of a thread. -/
def slotAt (s : State) (t : ThreadRef) (n : Bool) : Slot := ((s.threadAt t).map fun th => th.paths.slot n).getD freshSlot

/-- A try of a slot's word has left the word where it was: the slot is held at it, and the word has not issued. A BAR has issued. -/
def waited (s : State) (t : ThreadRef) (n : Bool) (s' : State) : Bool :=
  let x := slotAt s t n
  let y := slotAt s' t n
  (match y.hold with
    | .free | .bar _ => false
    | _ => true) && y.pc == x.pc && y.mask == x.mask && y.park.isNone

/-- A slot's next word would be held: its operands are not there, its unit cannot accept it, or what it waits for has not come. One that
would come to the rendezvous latch is not held yet (R130, R148). -/
def wouldWait (s : State) (t : ThreadRef) (n : Bool) (c : Ctx) (i : Instr) : Bool :=
  match attempt i { s with who := t, whoSlot := n } with
  | some (.next s') => waited s t n s' && (slotAt s' t n).hold != .latch
  | some _ => false
  | none => scoreboarded c i (namesSources c i) || splitWaits c i

/-- A slot's next word can issue (R148): one that traps issues. -/
def wordReady (s : State) (t : ThreadRef) (n : Bool) : Bool :=
  match nextWord s t n with
  | none => true
  | some (c, i) =>
    (decodeTrap c (s.partAt c.part).testen i ((wordOpcode i).getD 0)).isSome || c.eff = 0 || !wouldWait s t n c i

/-- Some slot of a thread is ready (R148). -/
def ready (s : State) (t : ThreadRef) (b : Block) (th : Thread) : Bool :=
  threadFree b th && [false, true].any fun n => slotFree b th n && wordReady s t n

/-- The wave of a name is ready. -/
def keyReady (s : State) (core key : Nat) : Bool :=
  let t := keyThread core key
  match s.blockAt core t.block, s.threadAt t with
  | some b, some th => ready s t b th
  | _, _ => false

/-- The ready pending wave that has waited longest in the pending set (R149). -/
def pendingReady (s : State) (core : Nat) (q : Quadrant) : Option Nat := q.pending.find? (keyReady s core)

/-- The pending wave that has been ready longest (R150). -/
def readyLongest (s : State) (core : Nat) (q : Quadrant) : Option Nat :=
  ((q.ready.filter q.pending.contains) ++ q.pending).find? (keyReady s core)

/-- The pending waves of a quadrant that are ready, those that have been so longest first. -/
def Quadrant.noteReady (s : State) (core : Nat) (q : Quadrant) : Quadrant :=
  let now := q.pending.filter (keyReady s core)
  { q with ready := (q.ready.filter now.contains) ++ now.filter fun x => !q.ready.contains x }

/-- Note on every core which pending waves are ready now (R150). -/
def settleReady (s : State) : State :=
  s.cores.foldl (fun s (c, k) =>
    if k.quads.all fun x => x.2.pending.isEmpty then s
    else s.modCore c fun k => { k with quads := k.quads.map fun (n, q) => (n, q.noteReady s c) }) s

/-! ### Long-latency holds (R149) -/

/-- The registers of a word, a matrix word's codebook among them (R52). -/
def registersOf (c : Ctx) (i : Instr) : List Reg :=
  flatten ((usesOf i).map fun u => useRegs u c.ty) ++
    (if readsLut ((opcodeOf i).getD 0) c.cur.fmt then c.lutReg.toList else [])

/-- A slot's next word reads a register whose global load has missed L1 and is still in flight (R149). -/
def loadAwaited (s : State) (t : ThreadRef) (th : Thread) (n : Bool) : Bool :=
  match nextWord s t n with
  | none => false
  | some (c, i) =>
    let late := flatten ((th.loads.filter fun x => x.missed && !x.accesses.isEmpty &&
      (isVec x.dest || (x.slot == n && x.depth = th.depth))).map fun x => loadRegs x.dest x.size)
    (registersOf c i).any late.contains

/-- The PENDING entries that some entries' computations wait for, up to a number of steps away (R69). -/
def awaitedEntries (k : Core) : (fuel : Nat) → List Nat → List Nat
  | 0, es => es
  | n + 1, es => awaitedEntries k n (es ++ flatten (es.map fun e =>
      ((find k.entries e).map fun x => if x.state == .pending then x.sources else []).getD [])).eraseDups

/-- What a slot waits for among its last word's sources is a load that has missed L1. -/
def sourceMissed (k : Core) (e : Nat) : Bool :=
  let es := (awaitedEntries k 8 [e]).filter fun x => entryPending k x
  k.blocks.any fun (_, b) => b.threads.any fun (_, th) => th.loads.any fun x =>
    x.missed && x.entries.any fun y => y.any es.contains

/-- A slot is held by a long-latency cause: those of R149, GEAR's wait (R322) and the close of a region (R361). A wait whose condition
has come is over, though the slot has not been tried again. -/
def longHeld (s : State) (t : ThreadRef) (b : Block) (th : Thread) (n : Bool) : Bool :=
  let x := th.paths.slot n
  match x.hold with
  | .operand => loadAwaited s t th n
  | .sources e => sourceMissed (s.coreAt t.core) e
  | .bar _ | .latch => true
  | .waitc _ | .waitb .. | .gear | .region => !wordReady s t n
  | .rawait _ => heldFast b x.hold
  | .sleep k => 64 ≤ k
  | _ => false

/-- Every live slot of a wave is held long-latency; a slot at its join counts with its partner. -/
def allLongHeld (s : State) (t : ThreadRef) (b : Block) (th : Thread) : Bool :=
  let held (n : Bool) : Bool :=
    (th.paths.slot n).mask = 0 || longHeld s t b th n || (atJoin th.paths n && longHeld s t b th !n)
  ((th.paths.slot0.mask ||| th.paths.slot1.mask) ≠ 0) && held false && held true

end Sys2Proof.Machine
end

