-- ==== Sys2Proof/Machine/Power.lean ====
section
/-! DEFINITION. The 10 µs interval (R311, R326, R328, R329), gear shifts (R321 to R323), auto-proof (R325), thermal limits (R331), the
rack cap's lease (R330), ageing (R365) and the lifetime record (R366, R367). -/

namespace Sys2Proof.Machine
open Sys2Proof

/-! ### The lifetime record (R366) -/

/-- The record as it stands: the value store's binds and misses since its statistics were last cleared count with those
before (R285, R366). -/
def Core.lifeNow (k : Core) : Life :=
  { k.life with
    binds := saturate64 (k.life.binds + k.stats.hitv + k.stats.hitp)
    misses := saturate64 (k.life.misses + k.stats.missa + k.stats.missn) }

/-- Whole core-seconds of a number of 10 µs samples; the counter saturates (R366). -/
def coreSeconds (n : Nat) : Nat := saturate64 (n / 100000)

/-- The 416 bytes of the record (R366). -/
def lifeBytes (k : Core) : List Byte :=
  let x := k.lifeNow
  flatten ((List.range 6).map fun i => leBytes 8 (coreSeconds (findD x.gears i 0))) ++
    flatten ((List.range 16).map fun i => leBytes 8 (coreSeconds (findD x.temps i 0))) ++
    flatten ((List.range 16).map fun i => leBytes 8 (coreSeconds (findD x.volts i 0))) ++
    flatten ((List.range 8).map fun i => leBytes 8 (findD x.ecc i 0)) ++
    flatten ([x.traps, x.droops, x.shifts, x.binds, x.misses].map (leBytes 8)) ++
    leBytes 4 x.slow ++ leBytes 1 k.gear.offset ++ leBytes 2 k.gear.floor ++ zeros 1

/-- LIFETIME_SAVE (R367): every core's record goes to non-volatile storage. -/
def execLifetimeSave (s : State) : Host.Outcome State Fault Refusal :=
  let keep (saved : List (Nat × Life × Nat × Nat)) (e : Nat × Core) : List (Nat × Life × Nat × Nat) :=
    insert saved e.1 (e.2.lifeNow, e.2.gear.offset, e.2.gear.floor)
  .next { s with boot := { s.boot with saved := s.cores.foldl keep s.boot.saved, savedIntervals := s.intervals } }

/-- LDO_DROOP (R366). -/
def execLdoDroop (core : Nat) (s : State) : Host.Outcome State Fault Refusal :=
  if coreCount ≤ core then .fault .outsideModule
  else .next (s.modCore core fun k => { k with life := { k.life with droops := saturate64 (k.life.droops + 1) } })

/-! ### The interval (R326, R328, R329) -/

/-- STALLR of a window (R326). -/
def stallRatio (stalled cycles : Nat) : Nat := if cycles = 0 then 0 else min 0xFFFF (65536 * stalled / cycles)

/-- The cap level a core has after the samples. -/
def capAfter (s : State) (samples : List CoreSample) (core : Nat) : Nat :=
  match samples.find? fun x => x.core = core with
  | some x => x.cap
  | none => (s.coreAt core).gear.cap

/-- The package power limit, in W (R14). -/
def packageWatts : Nat := 4000

/-- The energy budgets of all cores under cap levels, in µJ per 10 µs, which are tenths of a W. -/
def budgetOf (caps : List Nat) : Nat := (caps.map fun c => levelEnergy c / 1000).sum

/-- The samples that a governor may bring: one for each core it names, every core that holds a block among them, legal cap levels,
stalls within the window, and energy budgets within the module cap and the package's 4.0 kW, which no level can undercut below
bake 2 everywhere (R14, R327, R328, R330). -/
def samplesFit (s : State) (samples : List CoreSample) : Bool :=
  let caps := (List.range coreCount).map (capAfter s samples)
  samples.all (fun x => x.core < coreCount && x.cap ≤ 2 && x.stalled ≤ x.cycles) &&
  decide (samples.map (·.core)).Nodup && s.cores.all (fun (c, k) => k.blocks.isEmpty || samples.any fun x => x.core = c) &&
  (decide (budgetOf caps ≤ 10 * min s.rack.watts packageWatts) || caps.all (· = 2))

/-- A core's thermal flags at a temperature: offered above 95, bake 2 above 105, held above 110 until below 100. -/
def heat (g : Gear) (celsius : Nat) : Gear :=
  { g with
    celsius := celsius
    offered := decide (95 < celsius)
    hot := decide (105 < celsius)
    held := decide (110 < celsius) || (g.held && decide (100 ≤ celsius)) }

/-- One core's sample: a deterministic launch stops rather than have its core lowered, by its cap or by its temperature (R302, R330,
R331). -/
def applySample (s : State) (x : CoreSample) : State :=
  let s := if x.cap ≠ 0 && detResident s x.core then stopDeterministic s x.core 2 else s
  let s := if 105 < x.celsius && detResident s x.core then stopDeterministic s x.core 3 else s
  s.modCore x.core fun k =>
    { k with
      gear := { heat k.gear x.celsius with cap := x.cap, stallr := BitVec.ofNat 32 (stallRatio x.stalled x.cycles) }
      life := sampleLife k.life k.gear x.celsius 1 }

/-- The sample of a core that holds no block and that the step does not name: nothing stalled there (log 71). -/
def applyIdle (k : Core) : Core :=
  { k with gear := { k.gear with stallr := 0 }, life := sampleLife k.life k.gear k.gear.celsius 1 }

/-- Write an entry of an operating-point table of 256: the least recently used one is replaced (R329). -/
def writePoint (now : Nat) (points : List (Nat × Nat × Nat)) (key level : Nat) : List (Nat × Nat × Nat) :=
  let room := (find points key).isSome || points.length < 256
  let oldest := points.foldl (fun (m : Option (Nat × Nat)) (k, _, r) => match m with
    | none => some (k, r)
    | some y => if r < y.2 then some (k, r) else some y) none
  let points := if room then points else match oldest with
    | some (k, _) => remove points k
    | none => points
  insert points key (level, now)

/-- A table write names a partition, a kernel and marker of 16 bits and a bake level (R329). -/
def pointFits (x : PointWrite) : Bool :=
  x.partition < partitionCount && 0 < x.kernel && x.kernel < 65536 && x.marker < 65536 && x.level ≤ 2

/-- One table write. -/
def applyPoint (s : State) (x : PointWrite) : State :=
  s.modPart x.partition fun p => { p with points := writePoint s.tick p.points (x.kernel * 65536 + x.marker) x.level }

/-- POWER_INTERVAL (R311, R326, R328, R329): every core of the module is sampled, those that the state does not list in one count (R366). -/
def execPowerInterval (samples : List CoreSample) (points : List PointWrite) (s : State) :
    Host.Outcome State Fault Refusal :=
  if samplesFit s samples && points.all pointFits then
    let idle := (s.cores.map (·.1)).filter fun c => !samples.any fun x => x.core = c
    let s := idle.foldl (fun s c => s.modCore c applyIdle) (samples.foldl applySample s)
    let s := points.foldl applyPoint { s with intervals := s.intervals + 1 }
    .next (s.blocks.foldl (fun s (c, b, _) => s.modBlock c b Block.restartSlice) s)
  else .refused .notDue

/-- RACKCAP_LEASE_EXPIRY (R330): the safe budget of 3,080 W applies. -/
def execRackcapLeaseExpiry (s : State) : Host.Outcome State Fault Refusal :=
  event s.rack.lease.isSome { s with rack := { s.rack with watts := 3080, lease := none } }

/-! ### Shifts (R321, R323, R328) -/

/-- GEAR_SHIFT_START (R323, R328): an upshift draws its step. -/
def execGearShiftStart (core : Nat) (s : State) : Host.Outcome State Fault Refusal :=
  if coreCount ≤ core then .fault .outsideModule
  else if !shiftDue s core then .refused .notDue
  else
    let k := s.coreAt core
    let target := resolvePoint s core
    let step := stepOf k.gear.point target
    let s := match slewPart k with
      | some p => if step = 0 then s else s.modPart p fun p => if p.slew = 0 then p else { p with allowance := p.allowance - step }
      | none => s
    .next (s.modCore core fun k => { k with gear := { k.gear with shift := some target } })

/-- GEAR_SHIFT_END (R323): the core runs its new point, the FIFO drains in arrival order before anything later, and the shift
is counted (R366). -/
def execGearShiftEnd (core : Nat) (s : State) : Host.Outcome State Fault Refusal :=
  let k := s.coreAt core
  match k.gear.shift with
  | none => .refused .notDue
  | some target =>
    let s := s.modCore core fun k =>
      { k with
        gear := { k.gear with point := target, shift := none, returning := k.gear.returning && target ≠ resolvePoint s core }
        fifo := []
        life := { k.life with shifts := saturate64 (k.life.shifts + 1) } }
    .next { s with agenda := k.fifo.map (·.1) ++ s.agenda }

/-! ### Auto-proof (R325) -/

/-- A slot is held at a cluster barrier: its phase has not completed, or an arrival of the wave that stands waits for older accesses
(R207, R208). -/
def clusterHeld (s : State) (b : Block) (th : Thread) (n : Bool) : Bool :=
  let x := th.paths.slot n
  match find s.clusters b.cluster with
  | none => false
  | some y => match x.hold with
    | .waitb i h => signedOf 16 (findD y.counts i 0 + 65536 - h % 65536) < 0
    | .arrive i => th.arriving.any (·.1 = i) || (findD y.arrived i []).any fun key =>
        key % 64 = th.wave && y.blocks.any fun e => e.1 = key / 64 && e.2.any fun p => (s.blockAt p.1 p.2).any (· == b)
    | _ => false

/-- Every live slot of a wave is held at a cluster barrier. -/
def waveHeld (s : State) (b : Block) (th : Thread) : Bool :=
  let ok (n : Bool) : Bool := (th.paths.slot n).mask = 0 || clusterHeld s b th n
  th.ended || ((th.paths.slot0.mask ||| th.paths.slot1.mask) ≠ 0 && ok false && ok true)

/-- The conditions of R325 on a core's blocks. -/
def allWaiting (s : State) (core : Nat) (k : Core) : Bool :=
  !k.blocks.isEmpty && k.blocks.all fun (n, b) =>
    (s.launchOf b).autop && b.threads.all fun (t, th) =>
      if th.ccp then !ready s ⟨core, n, t⟩ b th else waveHeld s b th

/-- The point a core would resolve to without auto-proof. -/
def pointWithout (s : State) (core : Nat) : Point :=
  resolvePoint (s.modCore core fun k => { k with gear := { k.gear with auto := false } }) core

/-- Auto-proof may hold on a core: its blocks wait, and the allowance holds enough for the return (R325). -/
def autoHolds (s : State) (core : Nat) : Bool :=
  let k := s.coreAt core
  allWaiting s core k && coreSlew s k (stepOf (slowestProof k.gear) (pointWithout s core))

/-- AUTO_PROOF (R325): the core drops to the slowest proof level. -/
def execAutoProof (core : Nat) (s : State) : Host.Outcome State Fault Refusal :=
  if coreCount ≤ core then .fault .outsideModule
  else event (!(s.coreAt core).gear.auto && !detResident s core && autoHolds s core)
    (s.modCore core fun k => { k with gear := { k.gear with auto := true } })

/-- Auto-proof ends on a core in the cycle that ends its conditions; the core then returns before anything issues (R325). -/
def settleAuto (s : State) (core : Nat) : State :=
  if (s.coreAt core).gear.auto && !autoHolds s core then
    let s := s.modCore core fun k => { k with gear := { k.gear with auto := false } }
    s.modCore core fun k =>
      { k with gear := { k.gear with returning := decide (k.gear.shift.isSome || k.gear.point ≠ resolvePoint s core) } }
  else if (s.coreAt core).gear.returning then
    s.modCore core fun k =>
      { k with gear := { k.gear with returning := decide (k.gear.shift.isSome || k.gear.point ≠ resolvePoint s core) } }
  else s

/-! ### Thermal limits (R331) -/

/-- THERMAL_LIMIT (R331): a deterministic launch stops where the rule would lower its core, and is never offered. -/
def execThermalLimit (core celsius : Nat) (s : State) : Host.Outcome State Fault Refusal :=
  if coreCount ≤ core then .fault .outsideModule
  else
    let s := if 105 < celsius && detResident s core then stopDeterministic s core 3 else s
    .next (s.modCore core fun k => { k with gear := heat k.gear celsius })

/-! ### Rails and ageing (R318, R341, R365) -/

/-- A core that holds no block takes its RAILMAP byte (R341). -/
def settleRails (s : State) (core : Nat) : State :=
  let k := s.coreAt core
  match k.gear.railNext with
  | some (pb, bb) =>
    if k.blocks.isEmpty then
      s.modCore core fun k => { k with gear := { k.gear with railPB := pb, railBB := bb, railNext := none } }
    else s
  | none => s

/-- LDO offset code for a slowdown of u ppm (R365). -/
def agedOffset (u : Nat) : Nat := min 8 (ceilDiv u 2500)

/-- The floor after a slowdown of u ppm; it never falls (R365). -/
def agedFloor (floor u : Nat) : Nat := max floor (520 + 5 * (u / 5000))

end Sys2Proof.Machine
end

