-- ==== Sys2Proof/Machine/Records.lean ====
section
/-! DEFINITION. Taking a record from the host (R335, R337 to R343): its header, its sender, the checks before its sequence, the
sequence itself, and the REFUSED and RESPONSE events. -/

namespace Sys2Proof

/-! ### The header (R337) -/

/-- A little-endian field of a record. -/
def HostRecord.field (r : HostRecord) (o n : Nat) : Nat := Machine.leAt r.bytes o n
/-- TYPE. -/
def HostRecord.type (r : HostRecord) : Nat := r.field 2 2
/-- QUEUE. -/
def HostRecord.queue (r : HostRecord) : Nat := r.field 4 2
/-- PART. -/
def HostRecord.part (r : HostRecord) : Nat := r.field 6 2
/-- LEN. -/
def HostRecord.len (r : HostRecord) : Nat := r.field 8 4
/-- HSEQ. -/
def HostRecord.hseq (r : HostRecord) : Nat := r.field 16 8
/-- PART of an event that answers a record. -/
def HostRecord.eventPart (r : HostRecord) : Nat := if r.part < Machine.partitionCount then r.part else Machine.noPart

end Sys2Proof

namespace Sys2Proof.Machine
open Sys2Proof

/-- The queues that R340 gives a type. -/
inductive QueueKind where
  | partition | hyper | either | debug | sync
  deriving DecidableEq, Repr

/-- The queues of a type; none for a type that R340 does not list. -/
def queueKind (type : Nat) : Option QueueKind :=
  if 1 ≤ type && type ≤ 8 then some .partition
  else if type = 9 then some .either
  else if (0x10 ≤ type && type ≤ 0x19) || type = 0x1B || type = 0x1C then some .hyper
  else if 0x20 ≤ type && type ≤ 0x24 then some .debug
  else if type = 0xFF then some .sync
  else none

/-- The queue is one of a kind's. -/
def QueueKind.takes (k : QueueKind) (queue : Nat) : Bool :=
  match k with
  | .partition => decide (queue < 128)
  | .hyper => queue = 128
  | .either => decide (queue ≤ 128)
  | .debug => queue = 129
  | .sync => queue = 255

/-- The LEN that a record's layout gives it (R340, R341); none where the layout has no one length. -/
def layoutLen (r : HostRecord) : Option Nat :=
  match r.type with
  | 0x01 => some 160
  | 0x02 | 0x03 => some 40
  | 0x04 | 0x05 | 0x06 => some 48
  | 0x07 => some 40
  | 0x08 => some 48
  | 0x10 => some 80
  | 0x11 => some 1184
  | 0x12 => some 56
  | 0x13 | 0x14 => some 48
  | 0x15 => some 40
  | 0x16 | 0x17 => some 48
  | 0x18 | 0x19 | 0x1B => some 40
  | 0x1C => some 88
  | 0x20 | 0x23 => if 1 ≤ r.field 40 4 && r.field 40 4 ≤ 32 then some (roundUp (48 + 4 * r.field 40 4) 8) else none
  | 0x21 => some 56
  | 0x22 => if 1 ≤ r.field 48 4 && r.field 48 4 ≤ 65480 then some (roundUp (56 + r.field 48 4) 8) else none
  | 0x24 => some 40
  | 0xFF => some 48
  | _ => none

/-- A queue-128 record's PART is 0xFFFF, or the partition that it configures (R340). -/
def partOk (r : HostRecord) : Bool :=
  if r.queue ≠ 128 then true
  else if r.type = 0x10 || r.type = 0x12 || r.type = 0x13 then decide (r.part < partitionCount)
  else r.part = noPart

/-- A record that R337 or R340 refuses with MALFORMED. -/
def malformedRecord (r : HostRecord) : Bool :=
  r.field 0 1 != 1 || r.field 1 1 != 0 || r.field 12 2 != 0 || r.field 14 2 != 0 || r.field 24 8 != 0 ||
  r.len % 8 != 0 || decide (r.len < 32) || decide (65536 < r.len) || r.len != r.bytes.length ||
  (match layoutLen r with
    | some n => r.len != n
    | none => false) ||
  (match queueKind r.type with
    | none => true
    | some k => !k.takes r.queue) ||
  !partOk r

/-! ### The sender (R335) -/

/-- Who sends: the hypervisor, or a job of a partition. -/
inductive Sender where
  | hypervisor
  | job (part : Nat)
  deriving DecidableEq, Repr

/-- The partition that a job ID maps to (R335). -/
def jobPart (s : State) (job : Nat) : Option Nat :=
  (List.range partitionCount).find? fun p => (s.partAt p).configured && (s.partAt p).jobs.contains job

/-- The partition of a job whose packets it takes: secured ones where TSS is required (R334, R335). -/
def takenJob (s : State) (job : Nat) (secured : Bool) : Option Nat :=
  (jobPart s job).bind fun p => if (s.partAt p).tss && !secured then none else some p

/-- The sender of a record; none for a packet that is dropped. -/
def senderOf (s : State) (r : HostRecord) : Option Sender :=
  if r.hypervisor then some .hypervisor else (takenJob s r.job r.secured).map .job

/-- The queue and the partition can be reached by the sender (R335, R338). -/
def reachable (r : HostRecord) (x : Sender) : Bool :=
  match x with
  | .hypervisor =>
    if r.queue = 129 then decide (r.part < partitionCount)
    else r.queue = 128 || r.queue = 255
  | .job p =>
    if r.queue < 128 then r.part = r.queue / 8 && p = r.queue / 8
    else if r.queue = 129 then r.granted && r.part = p
    else r.queue = 255 && (r.field 32 2 = p || decide (16 < r.field 32 2))

/-- The stream that answers a record: the sender's, and for debug the hypervisor's (R342). -/
def streamOf (r : HostRecord) (x : Sender) : Nat :=
  match x with
  | .hypervisor => hyperStream
  | .job p => if r.queue = 129 && r.granted then hyperStream else p

/-! ### Answers (R339, R341) -/

/-- Change a queue (R339). -/
def State.modQueue (s : State) (q : Nat) (f : HostQueue → HostQueue) : State :=
  { s with host := { s.host with queues := insert s.host.queues q (f (findD s.host.queues q freshQueue)) } }

/-- A record of a queue is completed (R339). -/
def completeRecord (s : State) (q hseq : Nat) : State :=
  if q = 255 then s else s.modQueue q fun x => { x with open_ := setDrop x.open_ hseq }

/-- A REFUSED event (R341). -/
def sendRefused (s : State) (r : HostRecord) (stream status reason : Nat) : State :=
  sendEvent s stream 0x8003 r.queue r.eventPart status
    (leBytes 2 r.type ++ leBytes 2 status ++ leBytes 4 reason ++ leBytes 8 r.hseq)

/-- A RESPONSE event, which completes its record (R339, R341). -/
def sendResponse (s : State) (type queue part stream hseq : Nat) (answer : List Byte) : State :=
  sendEvent (completeRecord s queue hseq) stream 0x8005 queue part 0
    (leBytes 2 type ++ zeros 6 ++ leBytes 8 hseq ++ answer)

/-- How an accepted record ends. -/
inductive Acted where
  /-- Carried out, with its answer. -/
  | ok (s : State) (answer : List Byte)
  /-- Refused with a status and a reason; nothing else changes. -/
  | no (status reason : Nat)
  /-- Under way: its event follows later. -/
  | later (s : State)

/-- REFUSED. -/
def refusedCode : Nat := 1
/-- BUSY. -/
def busyCode : Nat := 3

/-- A field outside its range, or a nonzero MBZ field (R341). -/
def Acted.outOfRange : Acted := .no refusedCode 1
/-- A named object absent or not held by the partition. -/
def Acted.absent : Acted := .no refusedCode 2

/-- Carry out an accepted record and answer it (R339). -/
def carryOut (r : HostRecord) (stream : Nat) (act : Nat → State → Acted) (s : State) : State :=
  match act stream s with
  | .ok t answer => sendResponse t r.type r.queue r.eventPart stream r.hseq answer
  | .no status reason => sendRefused (completeRecord s r.queue r.hseq) r stream status reason
  | .later t => t

/-- A record arrives (R339): MALFORMED and PERM come before its sequence, then the rows of the table. -/
def receive (r : HostRecord) (x : Sender) (act : Nat → State → Acted) (s : State) : State :=
  let stream := streamOf r x
  if malformedRecord r then sendRefused s r stream 5 0
  else if !reachable r x then sendRefused s r stream 4 0
  else
    let a := (findD s.host.queues r.queue freshQueue).accepted
    if r.hseq ≤ a then s
    else if r.hseq = a + 1 then
      carryOut r stream act (s.modQueue r.queue fun q => { q with accepted := r.hseq, open_ := setAdd q.open_ r.hseq })
    else sendRefused s r stream 2 0

/-- The ports take a record of a type: the module has booted, and no alarm has halted it but for SYNC and SPDM (R369, R376). -/
def portsTake (s : State) (type : Nat) : Bool := s.boot.stage = 7 && (s.boot.alarm = .clear || type = 0xFF || type = 9)

/-- The step of a record of a type: it is due when such a record of a known sender arrives at open ports. -/
def hostRecord (type : Nat) (r : HostRecord) (act : Nat → State → Acted) (s : State) : Host.Outcome State Fault Refusal :=
  match senderOf s r with
  | none => .refused .notDue
  | some x => event (r.type = type && portsTake s type) (receive r x act s)

/-! ### SYNC (R343) and records of no type (R340) -/

/-- The last completed sequence C of a queue (R339). -/
def HostQueue.completed (q : HostQueue) : Nat :=
  match q.open_ with
  | [] => q.accepted
  | h :: _ => h - 1

/-- The queues of a stream. -/
def queuesOf (stream : Nat) : List Nat := if stream < 16 then (List.range 8).map (8 * stream + ·) else [128, 129]

/-- The SYNCREPLY of a stream (R341, R343); it takes no DSEQ and is not held. -/
def syncReply (s : State) (stream last : Nat) : List Byte :=
  let x := findD s.host.streams stream freshStream
  let oldest := match x.held with
    | [] => x.dseq + 1
    | (n, _) :: _ => n
  let qs := queuesOf stream
  eventBytes 0x80FF 255 (if stream < 16 then stream else noPart) 0 0 0
    (leBytes 4 s.boot.epoch ++ leBytes 2 stream ++ leBytes 2 qs.length ++ leBytes 8 x.dseq ++ leBytes 8 oldest ++
      leBytes 8 (boolNat (decide (last + 1 < oldest))) ++
      flatten (qs.map fun q =>
        let y := findD s.host.queues q freshQueue
        leBytes 2 q ++ zeros 6 ++ leBytes 8 y.accepted ++ leBytes 8 y.completed))

/-- A held event as it is sent again: STATUS[15] is set. -/
def resent (bs : List Byte) : List Byte := changeAt bs 13 fun b => b ||| 0x80

/-- Answer a SYNC. -/
def answerSync (s : State) (stream last : Nat) : State :=
  let x := findD s.host.streams stream freshStream
  let again := (x.held.filter fun e => last < e.1).map fun e => (stream, resent e.2)
  { s with host := { s.host with sent := s.host.sent ++ [(stream, syncReply s stream last)] ++ again } }

/-- SYNC (R343): queue 255 has no sequence. -/
def execSync (r : HostRecord) (s : State) : Host.Outcome State Fault Refusal :=
  match senderOf s r with
  | none => .refused .notDue
  | some x =>
    let stream := streamOf r x
    event (r.type = 0xFF && portsTake s 0xFF)
      (if malformedRecord r then sendRefused s r stream 5 0
      else if !reachable r x then sendRefused s r stream 4 0
      else if 16 < r.field 32 2 || r.field 34 6 ≠ 0 then sendRefused s r stream refusedCode 1
      else answerSync s (r.field 32 2) (r.field 40 8))

/-- UNKNOWN_RECORD (R340): a TYPE that the table does not list. -/
def execUnknownRecord (r : HostRecord) (s : State) : Host.Outcome State Fault Refusal :=
  match senderOf s r with
  | none => .refused .notDue
  | some x => event ((queueKind r.type).isNone && portsTake s r.type) (sendRefused s r (streamOf r x) 5 0)

/-- DROPPED_PACKET (R334, R335): counted at its port, and nothing else. -/
def execDroppedPacket (port : Nat) (p : Packet) (s : State) : Host.Outcome State Fault Refusal :=
  if 4 ≤ port then .fault .outsideModule
  else
    let dropped := match p with
      | .unsupported => true
      | .job id secured => (takenJob s id secured).isNone
    event (dropped && s.boot.stage = 7)
      { s with host := { s.host with dropped := insert s.host.dropped port (findD s.host.dropped port 0 + 1) } }

end Sys2Proof.Machine
end

