-- ==== Sys2Proof/Machine/HostWork.lean ====
section
/-! DEFINITION. Host work that may reach another module: RMA puts and gets (R336), SEAL and UNSEAL (R182). A part of this module's
memory is done at once; a part of another module's is a message (R347), and the host is told when every part has ended. -/

namespace Sys2Proof.Machine
open Sys2Proof

/-! ### Work in progress -/

/-- The virtual lane of a part's message: sealed-frame entries travel on VL 5 (R182, R348). -/
def pieceLane : RemoteOp → Nat
  | .seals .. => 5
  | _ => 0

/-- Send a part that has not been sent, or take the answer that has come. -/
def movePiece (s : State) (part : Nat) (x : Piece) : State × Piece :=
  if x.answer.isSome || x.failed then (s, x)
  else
    let home := physModule x.addr
    match x.message with
    | none => match sendRemote s (pieceLane x.op) part home (physKey x.addr) false x.op with
      | .wait => (s, x)
      | .done s n => (s, { x with message := some n })
    | some n => match answerOf s home n with
      | .waiting => (s, x)
      | .failed => (forgetAnswers s [(home, n)], { x with failed := true })
      | .reply r => (forgetAnswers s [(home, n)], { x with answer := some r })

/-- Move every part of a work. -/
def movePieces (s : State) (part : Nat) : List Piece → State × List Piece
  | [] => (s, [])
  | x :: rest =>
    let (s, x) := movePiece s part x
    let (s, rest) := movePieces s part rest
    (s, x :: rest)

/-- A part has ended. -/
def Piece.ended (x : Piece) : Bool := x.answer.isSome || x.failed

/-- A part ended without its effect, or its data is poisoned. -/
def Piece.bad (x : Piece) : Bool := x.failed || x.answer.any fun r => r.refused || r.sealed || r.poison

/-- Tell the host that a work has ended (R336, R339). A record whose message failed is refused, its entry absent. -/
def finishWork (s : State) (w : HostWork) : State :=
  let bad := w.pieces.any (·.bad)
  let bytes := flatten (w.pieces.map fun x => (x.answer.map (·.bytes)).getD [])
  let reply (r : RmaReply) : State := { s with host := { s.host with rma := s.host.rma ++ [r] } }
  match w.kind with
  | .put job => reply { job := job, failed := bad, bytes := [] }
  | .get job => reply { job := job, failed := bad, bytes := if bad then [] else bytes }
  | .record type queue part stream hseq =>
    if bad then
      sendEvent (completeRecord s queue hseq) stream 0x8003 queue part refusedCode
        (leBytes 2 type ++ leBytes 2 refusedCode ++ leBytes 4 2 ++ leBytes 8 hseq)
    else sendResponse s type queue part stream hseq []

/-- Move one work along; none once it has ended. -/
def moveWork (s : State) (w : HostWork) : State × Option HostWork :=
  let (s, pieces) := movePieces s w.part w.pieces
  let w := { w with pieces := pieces }
  if pieces.all (·.ended) then (finishWork s w, none) else (s, some w)

/-- Move works along, oldest first. -/
def moveWorks (s : State) : List HostWork → State × List HostWork
  | [] => (s, [])
  | w :: rest =>
    let (s, w) := moveWork s w
    let (s, rest) := moveWorks s rest
    (s, w.toList ++ rest)

/-- Move all host work along, as every step may. -/
def settleWork (s : State) : State :=
  if s.host.work.isEmpty then s
  else
    let (s, ws) := moveWorks { s with host := { s.host with work := [] } } s.host.work
    { s with host := { s.host with work := ws ++ s.host.work } }

/-- Begin a work, and end it at once where no part of it is away. -/
def startWork (s : State) (w : HostWork) : State :=
  settleWork { s with host := { s.host with work := s.host.work ++ [w] } }

/-! ### RMA (R336) -/

/-- The parts of a range, cut at 64 KiB boundaries. -/
def cutRange : (fuel : Nat) → (va n : Nat) → List (Nat × Nat)
  | 0, _, _ => []
  | f + 1, va, n =>
    if n = 0 then []
    else
      let k := min n (65536 - va % 65536)
      (va, k) :: cutRange f (va + k) (n - k)

/-- The physical parts of a host access, in order; none where R174 does not let it be performed, first-touch pages included. -/
def hostParts (s : State) (part : Nat) (kind : AccessKind) (va n : Nat) : Option (List (Nat × Nat)) :=
  if 2 ^ 56 < va + n then none
  else
    let parts := (cutRange (n / 65536 + 2) va n).map fun (a, k) => (a, k, walkPages s part a)
    if parts.any fun (a, _, w) => (leafFault s kind w a).isSome then none
    else some (parts.map fun (a, k, w) => (leafPhys w a, k))

/-- The most that one operation moves: 16 MiB (R334). -/
def rmaLimit : Nat := 2 ^ 24

/-- An answer of this module's own memory. -/
def ownReply (bytes : List Byte) (poison : Bool) : RemoteReply :=
  { home := 0, number := 0, refused := false, sealed := false, poison := poison, bytes := bytes }

/-- A part of a put: written at once where it is local. -/
def putPiece (s : State) (part : Nat) (x : Nat × List Byte) : State × Piece :=
  let piece (a : Option RemoteReply) : Piece :=
    { addr := x.1, op := .write x.2, message := none, answer := a, failed := false }
  if isLocal s x.1 then (s.writeMem (s.partAt part).key (physKey x.1) x.2 false, piece (some (ownReply [] false)))
  else (s, piece none)

/-- Every part of a put. -/
def putPieces (s : State) (part : Nat) : List (Nat × List Byte) → State × List Piece
  | [] => (s, [])
  | x :: rest =>
    let (s, p) := putPiece s part x
    let (s, ps) := putPieces s part rest
    (s, p :: ps)

/-- Bytes shared out over parts, in order. -/
def shareBytes : List (Nat × Nat) → List Byte → List (Nat × List Byte)
  | [], _ => []
  | (a, n) :: rest, bs => (a, bs.take n) :: shareBytes rest (bs.drop n)

/-- An RMA operation that could not be performed. -/
def failRma (s : State) (job : Nat) : State :=
  { s with host := { s.host with rma := s.host.rma ++ [{ job := job, failed := true, bytes := [] }] } }

/-- A partition's RMA operation of a size arrives at open ports (R334, R335, R369, R376). -/
def rmaJob (s : State) (job : Nat) (secured : Bool) (n : Nat) : Option Nat :=
  if s.boot.stage = 7 && s.boot.alarm = .clear && n ≤ rmaLimit then takenJob s job secured else none

/-- RMA_PUT (R336). -/
def execRmaPut (job : Nat) (secured : Bool) (va : Nat) (bytes : List Byte) (s : State) : Host.Outcome State Fault Refusal :=
  match rmaJob s job secured bytes.length with
  | none => .refused .notDue
  | some p => match hostParts s p .store va bytes.length with
    | none => .next (failRma s job)
    | some parts =>
      let (s, pieces) := putPieces s p (shareBytes parts bytes)
      .next (startWork s { kind := .put job, part := p, pieces := pieces })

/-- RMA_GET (R336): poisoned data gives an error completion. -/
def execRmaGet (job : Nat) (secured : Bool) (va length : Nat) (s : State) : Host.Outcome State Fault Refusal :=
  match rmaJob s job secured length with
  | none => .refused .notDue
  | some p => match hostParts s p .load va length with
    | none => .next (failRma s job)
    | some parts =>
      let piece (x : Nat × Nat) : Piece :=
        { addr := x.1, op := .read x.2, message := none, failed := false
          answer := if isLocal s x.1 then
              some (ownReply (s.readMem (s.partAt p).key (physKey x.1) x.2) (anyPoison s.poison (physKey x.1) x.2))
            else none }
      .next (startWork s { kind := .get job, part := p, pieces := parts.map piece })

/-! ### SEAL and UNSEAL (R182) -/

/-- The leaf of a page: the address of its entry, the entry, and its level; none where the walk finds no leaf. -/
def leafEntry (s : State) (key va : Nat) : (levels : List Nat) → (table : Nat) → Option (Nat × Nat × Nat)
  | [], _ => none
  | level :: below, table =>
    let a := entryAt table va level
    let e := leNat (s.readMem key a 8)
    if anyPoison s.poison a 8 || !bit e 0 || malformed s.fabric.module e level then none
    else if bit e 6 then some (a, e, level)
    else leafEntry s key va below (physKey (entryAddr e))

/-- The leaves of a segment, each once, in order; none where a page of it has no leaf. -/
def segmentLeaves (s : State) (part : Nat) : (fuel : Nat) → (va stop : Nat) → Option (List (Nat × Nat × Nat))
  | 0, va, stop => if stop ≤ va then some [] else none
  | f + 1, va, stop =>
    if stop ≤ va then some []
    else match leafEntry s (s.partAt part).key va [3, 2, 1, 0] (rootOf (s.partAt part)) with
      | none => none
      | some (a, e, level) =>
        let size := 2 ^ (16 + 10 * level)
        (segmentLeaves s part f ((va / size + 1) * size) stop).map fun rest => (a, e, level) :: rest

/-- Change the counts of consecutive frames of this module, from a memory key on (R182). -/
def changeSeals (s : State) (up : Bool) (key frames : Nat) : State :=
  { s with
    seals := (List.range frames).foldl (fun m i =>
      let n := findD m (key / 65536 + i) 0
      put 0 m (key / 65536 + i) (if up then n + 1 else n - 1)) s.seals }

/-- An entry with SEAL set or clear (R173). -/
def sealedEntry (e : Nat) (up : Bool) : Nat := if up then e ||| 8 else e - (if bit e 3 then 8 else 0)

/-- Seal or unseal one leaf: its entry, and its frames' counts, here or at their home. -/
def sealLeaf (s : State) (part : Nat) (up : Bool) (x : Nat × Nat × Nat) : State × Piece :=
  let (a, e, level) := x
  let phys := entryAddr e + (if bit e 5 then tierWeight else 0)
  let frames := 2 ^ (10 * level)
  let s := s.writeBytes (s.partAt part).key a (leBytes 8 (sealedEntry e up))
  let piece (r : Option RemoteReply) : Piece :=
    { addr := phys, op := .seals up frames, message := none, answer := r, failed := false }
  if isLocal s phys then (changeSeals s up (physKey phys) frames, piece (some (ownReply [] false))) else (s, piece none)

/-- Seal or unseal leaves in order. -/
def sealLeaves (s : State) (part : Nat) (up : Bool) : List (Nat × Nat × Nat) → State × List Piece
  | [] => (s, [])
  | x :: rest =>
    let (s, p) := sealLeaf s part up x
    let (s, ps) := sealLeaves s part up rest
    (s, p :: ps)

/-- A launch of the partition dispatches or runs (R340). -/
def partitionRuns (s : State) (p : Nat) : Bool :=
  s.launches.any fun (_, x) => x.partition = p && (x.state = .dispatching || x.state = .running)

/-- Forget a partition's cached leaves. -/
def forgetLeaves (s : State) (p : Nat) : State :=
  let keep (l : List TlbEntry) : List TlbEntry := l.filter fun e => e.partition ≠ p
  { s with
    cores := s.cores.map fun (c, k) => (c, { k with tlb := keep k.tlb })
    l2tlb := s.l2tlb.map fun (d, l) => (d, keep l) }

/-- Seal or unseal a segment of a partition; unsealing kills every entry with an LDGK leaf (R182, R280). -/
def sealSegmentAct (up : Bool) (r : HostRecord) (stream : Nat) (s : State) : Acted :=
  let p := r.part
  let va := r.field 32 8
  let n := r.field 40 8
  if va % 65536 ≠ 0 || n % 65536 ≠ 0 || 2 ^ 56 < va + n then .outOfRange
  else if partitionRuns s p then .no busyCode 0
  else match segmentLeaves s p (n / 65536) va (va + n) with
    | none => .absent
    | some leaves =>
      let (s, pieces) := sealLeaves s p up leaves
      let s := forgetLeaves s p
      let s := if up then s else s.killAll fun _ k _ x => k.partition = some p && x.ldgk
      .later (startWork s
        { kind := .record r.type r.queue r.eventPart stream r.hseq, part := p, pieces := pieces })

/-- SEAL (R182). -/
def execSealSegment (r : HostRecord) (s : State) : Host.Outcome State Fault Refusal :=
  hostRecord 0x05 r (sealSegmentAct true r) s

/-- UNSEAL (R182). -/
def execUnsealSegment (r : HostRecord) (s : State) : Host.Outcome State Fault Refusal :=
  hostRecord 0x06 r (sealSegmentAct false r) s

end Sys2Proof.Machine
end

