-- ==== Sys2Proof/Machine/Fabric.lean ====
section
/-! DEFINITION. The Yarrow side (R344 to R352): acks, naks and links that go down or come up, and the requests, responses and
timeouts of remote accesses. -/

namespace Sys2Proof.Machine
open Sys2Proof

/-- Yarrow ports (R344). -/
def portCount : Nat := 36

/-! ### Flits, acks and naks (R345, R346) -/

/-- KIND of a flit header (R345). -/
def flitKind (h : Word) : Nat := bits h.toNat 31 29
/-- SEQ of a flit header. -/
def flitSeq (h : Word) : Nat := bits h.toNat 25 16

/-- VL of a flit header. -/
def flitVl (h : Word) : Nat := bits h.toNat 28 26

/-- Take the credits that a header returns: CVL's lane, CCNT flits, 0 counting 64 (R345, R348). -/
def takeCredits (x : Port) (h : Word) : Port :=
  let n := if bits h.toNat 11 6 = 0 then 64 else bits h.toNat 11 6
  if bit h.toNat 15 then
    { x with credits := put 0 x.credits (bits h.toNat 14 12) (findD x.credits (bits h.toNat 14 12) 0 - n) }
  else x

/-- The flits that an ack of a SEQ leaves: those after the one it names. -/
def ackFlits (fs : List Flit) (seq : Nat) : List Flit :=
  if fs.any fun f => f.seq = seq then (fs.dropWhile fun f => f.seq ≠ seq).drop 1 else fs

/-- The flits of the replay buffer that no ack can free yet: the one that an injected error has spoilt, and those after it, which its
receiver discards until the replay (R346, R364). -/
def Port.spoilt (x : Port) : List Flit := x.unacked.dropWhile fun f => some f.seq ≠ x.injected

/-- What an ack leaves of the replay buffer. -/
def Port.ackedFlits (x : Port) (h : Word) : List Flit :=
  let rest := ackFlits x.unacked (flitSeq h)
  if rest.length < x.spoilt.length then x.spoilt else rest

/-- A port that has received an ack: the replay buffer frees what is acknowledged, which is progress, and what waited goes. -/
def Port.acked (x : Port) (h : Word) : Port :=
  let rest := x.ackedFlits h
  let y := takeCredits x h
  (if rest.length < x.unacked.length then { y with unacked := rest, replays := 0 } else y).drain

/-- The flits that a nak has a port send again: those from the SEQ it names. -/
def Port.resent (x : Port) (h : Word) : List Flit := x.unacked.dropWhile fun f => f.seq ≠ flitSeq h

/-- A port that has received a nak: it sends its buffer again from the SEQ that the nak names, counting replays of one SEQ. A nak that
names no flit of the buffer has nothing sent again. -/
def Port.naked (x : Port) (h : Word) : Port :=
  let y := takeCredits x h
  let again := x.resent h
  (if again.isEmpty then y
   else
    { y with
      replaySeq := flitSeq h
      replays := if x.replaySeq = flitSeq h then x.replays + 1 else 1
      injected := if again.any fun f => some f.seq = x.injected then none else x.injected
      wire := y.wire ++ again.map Flit.header } : Port).drain

/-- A port whose receiver has lost flits: it discards until the replay, and naks the next expected SEQ (R346). -/
def Port.lost (x : Port) : Port := { x with discarding := true, wire := x.wire ++ [flitHeader 6 0 x.expected] }

/-- A port that has taken a flit of a message: its receive buffer is free again at once, so an ack returns its credit (R346,
R348, log 18). -/
def Port.took (x : Port) (h : Word) : Port :=
  let vl := flitVl h
  ({ takeCredits x h with
     expected := (x.expected + 1) % 1024
     discarding := false
     partials := put 0 x.partials vl (findD x.partials vl 0 + 1)
     wire := x.wire ++ [withCredits (flitHeader 5 0 x.expected) vl 1] } : Port).drain

/-- A flit of a message by its KIND (R345). -/
def flitCarries (h : Word) : Bool := 1 ≤ flitKind h && flitKind h ≤ 4

/-- A port that has received a flit, and whether it took it as a flit of a message: it takes them in SEQ order, and discards the
others (R345, R346). A reserved KIND is a lost flit. After a lost flit every one is discarded until the replay, which begins with the
flit of the expected SEQ (log 18). -/
def Port.receive (x : Port) (h : Word) : Port × Bool :=
  if x.discarding && !(flitCarries h && flitSeq h = x.expected) then (x, false)
  else match flitKind h with
  | 0 => ((takeCredits x h).drain, false)
  | 5 => (x.acked h, false)
  | 6 => (x.naked h, false)
  | 7 => (x.lost, false)
  | _ => if flitSeq h = x.expected then (x.took h, true) else (x, false)

/-- A port after what it has received. After 8 replays of one SEQ without progress its link goes down (R346). -/
def setPort (s : State) (port : Nat) (x : Port) : State :=
  let s := sentOn s port x
  if 8 ≤ x.replays then { s with agenda := s.agenda ++ [.linkDown port] } else s

/-- A flit that is not the last of a message reaches a port. -/
def receiveFlit (s : State) (port : Nat) (h : Word) : State := setPort s port ((s.portAt port).receive h).1

/-- FLIT_ACK (R346): the replay buffer frees what is acknowledged. The flits without a message that are no naks come here too: an
idle flit, whose header may return credits, and one of the reserved KIND (R345). -/
def execFlitAck (port : Nat) (header : Word) (s : State) : Host.Outcome State Fault Refusal :=
  if portCount ≤ port then .fault .outsideModule
  else event ((s.portAt port).up && (flitKind header = 5 || flitKind header = 0 || flitKind header = 7))
    (receiveFlit s port header)

/-- FLIT_NAK (R346): the sender replays from the SEQ it names. -/
def execFlitNak (port : Nat) (header : Word) (s : State) : Host.Outcome State Fault Refusal :=
  if portCount ≤ port then .fault .outsideModule
  else event ((s.portAt port).up && flitKind header = 6) (receiveFlit s port header)

/-! ### Links (R340, R346) -/

/-- Messages try again in order, as every step lets them: those of a link that went down and those that found no room (R346). -/
def settleResend (s : State) : State :=
  s.fabric.resend.foldl dispatchMessage { s with fabric := { s.fabric with resend := [] } }

/-- The messages of which a port holds flits that are not acknowledged, or not sent. -/
def Port.open_ (x : Port) : List Sending :=
  (x.unacked.map (·.msg) ++ x.outbox.map (·.2)).foldl (fun ms m => if ms.contains m then ms else ms ++ [m]) []

/-- LINK_DOWN (R346): after 8 replays without progress, or 1 ms without an ack, the link retrains and its unacknowledged messages are
resent whole over other ports. -/
def execLinkDown (port : Nat) (s : State) : Host.Outcome State Fault Refusal :=
  if portCount ≤ port then .fault .outsideModule
  else
    let x := s.portAt port
    event (x.up && !x.unacked.isEmpty)
      (let s := s.modPort port fun x => { freshPort with errors := x.errors }
       settleResend { s with fabric := { s.fabric with resend := s.fabric.resend ++ x.open_ } })

/-- LINK_TRAINING_COMPLETE (R340, R369): links train only after MODID. -/
def execLinkTrainingComplete (port : Nat) (s : State) : Host.Outcome State Fault Refusal :=
  if portCount ≤ port then .fault .outsideModule
  else
    let t := s.modPort port fun x => { freshPort with up := true, errors := x.errors }
    event (s.boot.stage = 7 && s.fabric.named && !(s.portAt port).up) { t with fabric := { t.fabric with trained := true } }

/-- UNCORRECTABLE_CODEWORD (R346): its flits and every later one are discarded until the replay, and a nak names the next expected
SEQ. -/
def execUncorrectableCodeword (port : Nat) (s : State) : Host.Outcome State Fault Refusal :=
  if portCount ≤ port then .fault .outsideModule
  else event (s.portAt port).up (s.modPort port fun x => { x.lost with errors := x.errors + 1 })

/-! ### Messages that come (R344, R345, R352) -/

/-- What becomes of a message that a step brings: no such flits can come now, its last flit is discarded, or all of it is here. -/
inductive Landed where
  | wrong
  | dropped (s : State)
  | whole (s : State)

/-- Receive a landing's flits on its port, in order: the port, and whether the last was taken. -/
def Port.receiveAll (x : Port) (hs : List Word) : Port × Bool := hs.foldl (fun x h => x.1.receive h) (x, false)

/-- A message of `count` flits on one of some lanes comes. Its last flit is the last of the landing, and all of it has come once
that is taken, whatever flits of other messages came between (R344, R352). -/
def State.land (s : State) (via : Landing) (vls : List Nat) (count : Nat) : Landed :=
  let x := s.portAt via.port
  match via.flits.getLast? with
  | none => .wrong
  | some h =>
    let (y, taken) := x.receiveAll via.flits
    let vl := flitVl h
    let have_ := findD y.partials vl 0
    if !x.up then .wrong
    else if flitKind h = 7 then .dropped (setPort s via.port y)
    else if !vls.contains vl || flitKind h ≠ (if count ≤ 1 then 4 else 3) then .wrong
    else if !taken then .dropped (setPort s via.port y)
    else if have_ < count then .wrong
    else .whole (setPort s via.port { y with partials := put 0 y.partials vl (have_ - count) })

/-! ### The home side of a remote access (R347, R350) -/

/-- Bytes an operation reaches. -/
def opLength : RemoteOp → Nat
  | .read n => n
  | .write bs => bs.length
  | .atomic _ _ _ n _ => n
  | .cas _ _ => 4
  | .seals _ n => 65536 * n

/-- The operation reads; it writes. -/
def opReads : RemoteOp → Bool
  | .write _ | .seals .. => false
  | _ => true
/-- See `opReads`. -/
def opWrites : RemoteOp → Bool
  | .read _ | .seals .. => false
  | _ => true

/-- Some window of the message's tenancy lets it through (R350). Sealed-frame entries pass no window (R182). -/
def windowTakes (s : State) (m : RemoteMsg) : Bool :=
  let a := m.addr % moduleWeight
  let n := opLength m.op
  match m.op with
  | .seals .. => true
  | _ => s.fabric.windows.any fun (_, w) =>
      w.tenancy = m.tenancy && decide (w.base ≤ a) && decide (a + n ≤ w.base + 65536 * w.size) && (!opReads m.op || w.r) &&
        (!opWrites m.op || w.w)

/-- A write to a sealed frame of this module (R182). -/
def meetsSeal (s : State) (m : RemoteMsg) : Bool :=
  opWrites m.op &&
    (List.range ((m.addr + opLength m.op - 1) / 65536 - m.addr / 65536 + 1)).any fun i => findD s.seals (m.addr / 65536 + i) 0 ≠ 0

/-- The key number for a tenancy ID: its partition's, else the module's (R374). -/
def tenancyKey (s : State) (tenancy : Nat) : Nat :=
  match s.partitions.find? fun (_, p) => p.configured && p.tenancy = tenancy with
  | some (_, p) => p.key
  | none => s.boot.moduleKey

/-- An atomic on this module's memory for another module: the old value, unless it is poisoned (R184, R359). -/
def homeAtomic (s : State) (key a n : Nat) (new : Nat → Option Nat) : State × List Byte × Bool :=
  let old := s.readMem key a n
  if anyPoison s.poison a n then (s, old, true)
  else match new (leNat old) with
    | some x => (s.writeMem key a (leBytes n x) false, old, false)
    | none => (s, old, false)

/-- The operation performed at this home: the state, what it returns, and the poison that travels with it. -/
def performRemote (s : State) (m : RemoteMsg) : State × List Byte × Bool :=
  let key := tenancyKey s m.tenancy
  match m.op with
  | .read n => (s, s.readMem key m.addr n, anyPoison s.poison m.addr n)
  | .write bs => (s.writeMem key m.addr bs m.poison, [], false)
  | .atomic op float signed n x =>
    let t : Ty := if float then .f32 else if n = 8 then (if signed then .i64 else .n64) else (if signed then .i32 else .n32)
    homeAtomic s key m.addr n fun old => some (atomicValue op t (8 * n) old x)
  | .cas compare new => homeAtomic s key m.addr 4 fun old => if old = compare then some new else none
  | .seals up n => (changeSeals s up m.addr n, [], false)

/-- The end-to-end number n lies above the highest applied; the numbers are 32-bit and wrap (R347). -/
def aboveHighest (x : DupTable) (n : Nat) : Bool :=
  let ahead := (n + 2 ^ 32 - x.highest) % 2 ^ 32
  0 < ahead && ahead < 2 ^ 31

/-- How far a number lies below the highest applied. -/
def belowHighest (x : DupTable) (n : Nat) : Nat := (x.highest + 2 ^ 32 - n) % 2 ^ 32

/-- A message with this number has not been applied (R347). -/
def notApplied (x : DupTable) (n : Nat) : Bool :=
  aboveHighest x n || (decide (belowHighest x n ≤ 1024) && !x.applied.contains n)

/-- The table with a number applied, and an atomic's response kept: the last 256. -/
def DupTable.note (x : DupTable) (n : Nat) (atomic : Option RemoteReply) : DupTable :=
  let y : DupTable := { x with highest := if aboveHighest x n then n else x.highest, applied := setAdd x.applied n }
  let atomics := x.atomics ++ (atomic.map fun r => (n, r)).toList
  { y with
    applied := y.applied.filter fun k => belowHighest y k ≤ 1024
    atomics := atomics.drop (atomics.length - 256) }

/-- What the home answers: a message applied before gets its answer again and has no further effect (R347); a read is simply read
again, and a message that was turned away was not applied, so it is judged again (log 88). -/
def answerRequest (s : State) (m : RemoteMsg) : State × RemoteReply :=
  let x := findD s.fabric.dups m.source freshDup
  let reply (bytes : List Byte) (poison : Bool) : RemoteReply :=
    { home := m.home, number := m.number, refused := false, sealed := false, poison := poison, bytes := bytes }
  let refuse : RemoteReply := { reply [] false with refused := true }
  let table (s : State) (r : RemoteReply) : State :=
    let keep := if atomicOp m.op then some r else none
    { s with fabric := { s.fabric with dups := insert s.fabric.dups m.source (x.note m.number keep) } }
  if !notApplied x m.number then
    match m.op with
    | .read _ => if windowTakes s m then let (s, bs, p) := performRemote s m; (s, reply bs p) else (s, refuse)
    | .write _ | .seals .. => (s, reply [] false)
    | _ => (s, ((x.atomics.find? fun e => e.1 = m.number).map (·.2)).getD (reply [] false))
  else if !windowTakes s m || !keyExists m.addr || !keyExists (m.addr + opLength m.op - 1) then (s, refuse)
  else if meetsSeal s m then (s, { reply [] false with sealed := true })
  else
    let (s, bs, p) := performRemote s m
    (table s (reply bs p), reply bs p)

/-- The home answers a message that has come whole: its response leaves on VL 1. -/
def serveRequest (m : RemoteMsg) (s : State) : State :=
  let (s, r) := answerRequest s m
  let s := { s with fabric := { s.fabric with sent := s.fabric.sent ++ [r] } }
  dispatchMessage s { vl := 1, home := m.source, number := m.number, count := flitCount r.bytes.length }

/-- A step that brings a message: the model does nothing with one whose last flit is discarded, for it comes again (R346). -/
def bring (s : State) (via : Landing) (vls : List Nat) (count : Nat) (f : State → Host.Outcome State Fault Refusal) :
    Host.Outcome State Fault Refusal :=
  if portCount ≤ via.port then .fault .outsideModule
  else match s.land via vls count with
    | .wrong => .refused .notDue
    | .dropped t => .next t
    | .whole t => f t

/-- The virtual lanes that bring an operation (R348): sealed-frame entries are management, and a copy's data may come on VL 2. -/
def requestLanes : RemoteOp → List Nat
  | .seals .. => [5]
  | _ => [0, 2]

/-- REMOTE_REQUEST (R347, R350, R352): the message arrives whole on a port, on the virtual lane of its kind (R348). -/
def execRemoteRequest (via : Landing) (m : RemoteMsg) (s : State) : Host.Outcome State Fault Refusal :=
  bring s via (requestLanes m.op) (flitCount (opData m.op)) fun t =>
    event (m.home = s.fabric.module && m.source ≠ s.fabric.module) (serveRequest m t)

/-! ### The source side (R347, R351) -/

/-- A response fits its request: as many bytes as it asked for, unless it was turned away. -/
def replyFits (m : RemoteMsg) (r : RemoteReply) : Bool :=
  if r.refused || r.sealed || !opReads m.op then r.bytes.isEmpty else r.bytes.length = opLength m.op

/-- REMOTE_RESPONSE (R350): the first response to a message is kept for its access; a response to a message that has been answered,
or has failed, is dropped. -/
def execRemoteResponse (via : Landing) (r : RemoteReply) (s : State) : Host.Outcome State Fault Refusal :=
  bring s via [1] (flitCount r.bytes.length) fun t =>
    match (s.towardAt r.home).waiting.find? fun w => w.msg.number = r.number with
    | none => .next t
    | some w =>
      event (replyFits w.msg r)
        (t.modToward r.home fun x =>
          { x with waiting := x.waiting.filter (fun w => w.msg.number ≠ r.number), replies := x.replies ++ [r] })

/-- REMOTE_TIMEOUT (R351): no response within 2 ms; the access fails and a FABRIC event names the module. -/
def execRemoteTimeout (home number : Nat) (s : State) : Host.Outcome State Fault Refusal :=
  match (s.towardAt home).waiting.find? fun w => w.msg.number = number with
  | none => .refused .notDue
  | some w => .next (failMessage s w.part home number)

end Sys2Proof.Machine
end

