-- ==== Sys2Proof/Machine/Float.lean ====
section
/-! DEFINITION. The floating-point words (R100 to R105). -/

namespace Sys2Proof.Machine
open Sys2Proof

/-- FADD (R101): floating-point add, correctly rounded. -/
def execFadd (d a b : Reg) (s : State) : Host.Outcome State Fault Refusal :=
  laneWord (.fadd d a b) s

/-- FSUB (R101): floating-point subtract, correctly rounded. -/
def execFsub (d a b : Reg) (s : State) : Host.Outcome State Fault Refusal :=
  laneWord (.fsub d a b) s

/-- FMUL (R101): floating-point multiply, correctly rounded. -/
def execFmul (d a b : Reg) (s : State) : Host.Outcome State Fault Refusal :=
  laneWord (.fmul d a b) s

/-- FMA (R101): computes A·B + D exactly and rounds once. -/
def execFma (d a b : Reg) (s : State) : Host.Outcome State Fault Refusal :=
  laneWord (.fma d a b) s

/-- FMIN (R102): IEEE minimumNumber under the device NaN rule. -/
def execFmin (d a b : Reg) (s : State) : Host.Outcome State Fault Refusal :=
  laneWord (.fmin d a b) s

/-- FMAX (R102): IEEE maximumNumber under the device NaN rule. -/
def execFmax (d a b : Reg) (s : State) : Host.Outcome State Fault Refusal :=
  laneWord (.fmax d a b) s

/-- FABS (R103): clears the sign bit of A. -/
def execFabs (d a : Reg) (s : State) : Host.Outcome State Fault Refusal :=
  laneWord (.fabs d a) s

/-- FNEG (R103): flips the sign bit of A. -/
def execFneg (d a : Reg) (s : State) : Host.Outcome State Fault Refusal :=
  laneWord (.fneg d a) s

/-- RCP (R105): correctly rounded reciprocal of A. -/
def execRcp (d a : Reg) (s : State) : Host.Outcome State Fault Refusal :=
  laneWord (.rcp d a) s

/-- RSQ (R105): correctly rounded reciprocal square root of A. -/
def execRsq (d a : Reg) (s : State) : Host.Outcome State Fault Refusal :=
  laneWord (.rsq d a) s

/-- SQRT (R105): correctly rounded square root of A. -/
def execSqrt (d a : Reg) (s : State) : Host.Outcome State Fault Refusal :=
  laneWord (.sqrt d a) s

/-- EX2 (R105): correctly rounded 2 to the power A. -/
def execEx2 (d a : Reg) (s : State) : Host.Outcome State Fault Refusal :=
  laneWord (.ex2 d a) s

/-- LG2 (R105): correctly rounded base-2 logarithm of A. -/
def execLg2 (d a : Reg) (s : State) : Host.Outcome State Fault Refusal :=
  laneWord (.lg2 d a) s

/-- SIN (R105): correctly rounded sin(2π·a). -/
def execSin (d a : Reg) (s : State) : Host.Outcome State Fault Refusal :=
  laneWord (.sin d a) s

/-- COS (R105): correctly rounded cos(2π·a). -/
def execCos (d a : Reg) (s : State) : Host.Outcome State Fault Refusal :=
  laneWord (.cos d a) s

/-- FRND (R104): rounds A to an integral value in the direction of MODE.RND. -/
def execFrnd (d a : Reg) (s : State) : Host.Outcome State Fault Refusal :=
  laneWord (.frnd d a) s

end Sys2Proof.Machine
end

