-- ==== Sys2Proof/Machine/Integer.lean ====
section
/-! DEFINITION. The integer words (R79 to R84): each is `laneWord` over its computation of `Machine/Lanes.lean`. -/

namespace Sys2Proof.Machine
open Sys2Proof

/-- IADD (R81): integer add, wrapped or saturated to MODE.T. -/
def execIadd (d a b : Reg) (s : State) : Host.Outcome State Fault Refusal :=
  laneWord (.iadd d a b) s

/-- ISUB (R81): integer subtract, wrapped or saturated to MODE.T. -/
def execIsub (d a b : Reg) (s : State) : Host.Outcome State Fault Refusal :=
  laneWord (.isub d a b) s

/-- IMUL (R81): integer multiply, wrapped or saturated to MODE.T. -/
def execImul (d a b : Reg) (s : State) : Host.Outcome State Fault Refusal :=
  laneWord (.imul d a b) s

/-- IMULH (R82): writes the upper half of the exact integer product. -/
def execImulh (d a b : Reg) (s : State) : Host.Outcome State Fault Refusal :=
  laneWord (.imulh d a b) s

/-- IMAD (R81): computes A·B + D exactly and reduces the result once. -/
def execImad (d a b : Reg) (s : State) : Host.Outcome State Fault Refusal :=
  laneWord (.imad d a b) s

/-- IMIN (R81): integer minimum, compared by the signedness of T. -/
def execImin (d a b : Reg) (s : State) : Host.Outcome State Fault Refusal :=
  laneWord (.imin d a b) s

/-- IMAX (R81): integer maximum, compared by the signedness of T. -/
def execImax (d a b : Reg) (s : State) : Host.Outcome State Fault Refusal :=
  laneWord (.imax d a b) s

/-- IABS (R83): integer absolute value, then Reduce. -/
def execIabs (d a : Reg) (s : State) : Host.Outcome State Fault Refusal :=
  laneWord (.iabs d a) s

/-- INEG (R83): integer negation, then Reduce. -/
def execIneg (d a : Reg) (s : State) : Host.Outcome State Fault Refusal :=
  laneWord (.ineg d a) s

/-- IADDI (R84): adds the sign-extended IMM16 to D. -/
def execIaddi (d : Reg) (i : BitVec 16) (s : State) : Host.Outcome State Fault Refusal :=
  laneWord (.iaddi d i) s

/-- MOVI (R84): writes the sign-extended IMM16 to D, reduced to MODE.T. -/
def execMovi (d : Reg) (i : BitVec 16) (s : State) : Host.Outcome State Fault Refusal :=
  laneWord (.movi d i) s

/-- MOVHI (R84): writes IMM16 into D[31:16] and keeps D[15:0]. -/
def execMovhi (d : Reg) (i : BitVec 16) (s : State) : Host.Outcome State Fault Refusal :=
  laneWord (.movhi d i) s

end Sys2Proof.Machine
end

