-- ==== Sys2Proof/Machine/Logic.lean ====
section
/-! DEFINITION. The bit words (R85 to R89). -/

namespace Sys2Proof.Machine
open Sys2Proof

/-- AND (R85): bitwise AND over w bits. -/
def execAnd (d a b : Reg) (s : State) : Host.Outcome State Fault Refusal :=
  laneWord (.and d a b) s

/-- OR (R85): bitwise OR over w bits. -/
def execOr (d a b : Reg) (s : State) : Host.Outcome State Fault Refusal :=
  laneWord (.or d a b) s

/-- XOR (R85): bitwise XOR over w bits. -/
def execXor (d a b : Reg) (s : State) : Host.Outcome State Fault Refusal :=
  laneWord (.xor d a b) s

/-- NOT (R85): writes the bitwise complement of A. -/
def execNot (d a : Reg) (s : State) : Host.Outcome State Fault Refusal :=
  laneWord (.not d a) s

/-- SHL (R86): logical shift left by the count in B. -/
def execShl (d a b : Reg) (s : State) : Host.Outcome State Fault Refusal :=
  laneWord (.shl d a b) s

/-- SHR (R86): logical shift right by the count in B. -/
def execShr (d a b : Reg) (s : State) : Host.Outcome State Fault Refusal :=
  laneWord (.shr d a b) s

/-- SAR (R86): arithmetic shift right by the count in B. -/
def execSar (d a b : Reg) (s : State) : Host.Outcome State Fault Refusal :=
  laneWord (.sar d a b) s

/-- ROL (R86): rotates left by the count in B modulo w. -/
def execRol (d a b : Reg) (s : State) : Host.Outcome State Fault Refusal :=
  laneWord (.rol d a b) s

/-- POPC (R87): writes the number of set bits of A. -/
def execPopc (d a : Reg) (s : State) : Host.Outcome State Fault Refusal :=
  laneWord (.popc d a) s

/-- CLZ (R87): writes the number of leading zero bits of A. -/
def execClz (d a : Reg) (s : State) : Host.Outcome State Fault Refusal :=
  laneWord (.clz d a) s

/-- BREV (R85): reverses the bit order of A over w bits. -/
def execBrev (d a : Reg) (s : State) : Host.Outcome State Fault Refusal :=
  laneWord (.brev d a) s

/-- BFE (R88): extracts a bit field, sign- or zero-extended. -/
def execBfe (d a b : Reg) (s : State) : Host.Outcome State Fault Refusal :=
  laneWord (.bfe d a b) s

/-- BFI (R88): inserts a bit field of A into D. -/
def execBfi (d a b : Reg) (s : State) : Host.Outcome State Fault Refusal :=
  laneWord (.bfi d a b) s

/-- PRMT (R89): selects four bytes from A and the old D, with optional sign fill. -/
def execPrmt (d a b : Reg) (s : State) : Host.Outcome State Fault Refusal :=
  laneWord (.prmt d a b) s

end Sys2Proof.Machine
end

