-- ==== Sys2Proof/Machine/Digest.lean ====
section
/-! DEFINITION. SHA-384 and the verification of ECDSA signatures over NIST P-384, the functions that R370 and R372 name: they are those
of FIPS 180-4 and FIPS 186-5 (log 11). -/

namespace Sys2Proof.Machine
open Sys2Proof

/-! ### SHA-384 -/
/-- Constants of the rounds of SHA-384, 16 rounds at a time. -/
def shaRounds0 : List Nat := [
  0x428a2f98d728ae22, 0x7137449123ef65cd, 0xb5c0fbcfec4d3b2f, 0xe9b5dba58189dbbc,
  0x3956c25bf348b538, 0x59f111f1b605d019, 0x923f82a4af194f9b, 0xab1c5ed5da6d8118,
  0xd807aa98a3030242, 0x12835b0145706fbe, 0x243185be4ee4b28c, 0x550c7dc3d5ffb4e2,
  0x72be5d74f27b896f, 0x80deb1fe3b1696b1, 0x9bdc06a725c71235, 0xc19bf174cf692694]

/-- Constants of the rounds of SHA-384, 16 rounds at a time. -/
def shaRounds1 : List Nat := [
  0xe49b69c19ef14ad2, 0xefbe4786384f25e3, 0x0fc19dc68b8cd5b5, 0x240ca1cc77ac9c65,
  0x2de92c6f592b0275, 0x4a7484aa6ea6e483, 0x5cb0a9dcbd41fbd4, 0x76f988da831153b5,
  0x983e5152ee66dfab, 0xa831c66d2db43210, 0xb00327c898fb213f, 0xbf597fc7beef0ee4,
  0xc6e00bf33da88fc2, 0xd5a79147930aa725, 0x06ca6351e003826f, 0x142929670a0e6e70]

/-- Constants of the rounds of SHA-384, 16 rounds at a time. -/
def shaRounds2 : List Nat := [
  0x27b70a8546d22ffc, 0x2e1b21385c26c926, 0x4d2c6dfc5ac42aed, 0x53380d139d95b3df,
  0x650a73548baf63de, 0x766a0abb3c77b2a8, 0x81c2c92e47edaee6, 0x92722c851482353b,
  0xa2bfe8a14cf10364, 0xa81a664bbc423001, 0xc24b8b70d0f89791, 0xc76c51a30654be30,
  0xd192e819d6ef5218, 0xd69906245565a910, 0xf40e35855771202a, 0x106aa07032bbd1b8]

/-- Constants of the rounds of SHA-384, 16 rounds at a time. -/
def shaRounds3 : List Nat := [
  0x19a4c116b8d2d0c8, 0x1e376c085141ab53, 0x2748774cdf8eeb99, 0x34b0bcb5e19b48a8,
  0x391c0cb3c5c95a63, 0x4ed8aa4ae3418acb, 0x5b9cca4f7763e373, 0x682e6ff3d6b2b8a3,
  0x748f82ee5defb2fc, 0x78a5636f43172f60, 0x84c87814a1f0ab72, 0x8cc702081a6439ec,
  0x90befffa23631e28, 0xa4506cebde82bde9, 0xbef9a3f7b2c67915, 0xc67178f2e372532b]

/-- Constants of the rounds of SHA-384, 16 rounds at a time. -/
def shaRounds4 : List Nat := [
  0xca273eceea26619c, 0xd186b8c721c0c207, 0xeada7dd6cde0eb1e, 0xf57d4f7fee6ed178,
  0x06f067aa72176fba, 0x0a637dc5a2c898a6, 0x113f9804bef90dae, 0x1b710b35131c471b,
  0x28db77f523047d84, 0x32caab7b40c72493, 0x3c9ebe0a15c9bebc, 0x431d67c49c100d4c,
  0x4cc5d4becb3e42b6, 0x597f299cfc657e2a, 0x5fcb6fab3ad6faec, 0x6c44198c4a475817]

/-- Constants of the 80 rounds. -/
def shaRounds : List Nat := shaRounds0 ++ shaRounds1 ++ shaRounds2 ++ shaRounds3 ++ shaRounds4

/-- The working variables a to h of a block. -/
structure ShaState where
  a : Nat
  b : Nat
  c : Nat
  d : Nat
  e : Nat
  f : Nat
  g : Nat
  h : Nat
  deriving DecidableEq, Repr

/-- The value that SHA-384 starts from. -/
def shaStart : ShaState :=
  ⟨0xcbbb9d5dc1059ed8, 0x629a292a367cd507, 0x9159015a3070dd17, 0x152fecd8f70e5939,
    0x67332667ffc00b31, 0x8eb44a8768581511, 0xdb0c2e0d64f98fa7, 0x47b5481dbefa4fa4⟩

/-- A 64-bit word rotated right. -/
def rotr64 (x n : Nat) : Nat := x / 2 ^ n ||| x * 2 ^ (64 - n) % 2 ^ 64

/-- The message schedule: n words more, the newest first. -/
def shaSchedule : (n : Nat) → List Nat → List Nat
  | 0, ws => ws
  | n + 1, ws =>
    let x := ws.getD 14 0
    let y := ws.getD 1 0
    let s0 := rotr64 x 1 ^^^ rotr64 x 8 ^^^ x / 2 ^ 7
    let s1 := rotr64 y 19 ^^^ rotr64 y 61 ^^^ y / 2 ^ 6
    shaSchedule n ((ws.getD 15 0 + s0 + ws.getD 6 0 + s1) % 2 ^ 64 :: ws)

/-- One round, with the sum of its constant and its word. -/
def shaRound (s : ShaState) (kw : Nat) : ShaState :=
  let s1 := rotr64 s.e 14 ^^^ rotr64 s.e 18 ^^^ rotr64 s.e 41
  let ch := (s.e &&& s.f) ^^^ ((2 ^ 64 - 1 - s.e) &&& s.g)
  let t1 := s.h + s1 + ch + kw
  let s0 := rotr64 s.a 28 ^^^ rotr64 s.a 34 ^^^ rotr64 s.a 39
  let maj := (s.a &&& s.b) ^^^ (s.a &&& s.c) ^^^ (s.b &&& s.c)
  ⟨(t1 + s0 + maj) % 2 ^ 64, s.a, s.b, s.c, (s.d + t1) % 2 ^ 64, s.e, s.f, s.g⟩

/-- The value of bytes, most significant first. -/
def beNat (bs : List Byte) : Nat := bs.foldl (fun n b => n * 256 + b.toNat) 0

/-- The low n bytes of a number, most significant first. -/
def beBytes (n x : Nat) : List Byte := (leBytes n x).reverse

/-- The state after one block of 128 bytes. -/
def shaBlock (s : ShaState) (block : List Byte) : ShaState :=
  let first := (List.range 16).map fun i => beNat ((block.drop (8 * i)).take 8)
  let ws := (shaSchedule 64 first.reverse).reverse
  let t := (List.zipWith (· + ·) shaRounds ws).foldl shaRound s
  let add (x y : Nat) : Nat := (x + y) % 2 ^ 64
  ⟨add s.a t.a, add s.b t.b, add s.c t.c, add s.d t.d, add s.e t.e, add s.f t.f, add s.g t.g, add s.h t.h⟩

/-- The blocks of a padded message, one after the other. -/
def shaBlocks : (n : Nat) → ShaState → List Byte → ShaState
  | 0, s, _ => s
  | n + 1, s, bs => shaBlocks n (shaBlock s (bs.take 128)) (bs.drop 128)

/-- A message padded to whole blocks: a one bit, zeros, and its length in bits. -/
def shaPad (bs : List Byte) : List Byte :=
  bs ++ 0x80 :: zeros ((239 - bs.length % 128) % 128) ++ beBytes 16 (8 * bs.length)

/-- SHA-384 of a message: 48 bytes (R370, R372). -/
def sha384 (bs : List Byte) : List Byte :=
  let padded := shaPad bs
  let s := shaBlocks (padded.length / 128) shaStart padded
  flatten ([s.a, s.b, s.c, s.d, s.e, s.f].map (beBytes 8))

/-! ### P-384 -/

/-- The prime of the field. -/
def curveP : Nat := 2 ^ 384 - 2 ^ 128 - 2 ^ 96 + 2 ^ 32 - 1
/-- The order of the base point. -/
def curveN : Nat :=
  0xffffffffffffffffffffffffffffffffffffffffffffffffc7634d81f4372ddf581a0db248b0a77aecec196accc52973
/-- The constant b of y² = x³ - 3x + b. -/
def curveB : Nat :=
  0xb3312fa7e23ee7e4988e056be3f82d19181d9c6efe8141120314088f5013875ac656398d8a2ed19d2a85c8edd3ec2aef

/-- A point in Jacobian coordinates, (X / Z², Y / Z³); the point at infinity has Z = 0. -/
structure CurvePoint where
  x : Nat
  y : Nat
  z : Nat
  deriving DecidableEq, Repr

/-- The base point. -/
def curveBase : CurvePoint :=
  ⟨0xaa87ca22be8b05378eb1c71ef320ad746e1d3b628ba79b9859f741e082542a385502f25dbf55296c3a545e3872760ab7,
    0x3617de4a96262c6f5d9e98bf9292dc29f8f41dbd289a147ce9da3113b5f0b8c00a60b1ce1d7e819d7a431d7c90ea0e5f, 1⟩

/-- A product in the field. -/
def mulP (x y : Nat) : Nat := x * y % curveP
/-- A difference in the field. -/
def subP (x y : Nat) : Nat := (x + curveP - y % curveP) % curveP

/-- Twice a point. -/
def CurvePoint.double (p : CurvePoint) : CurvePoint :=
  let d := mulP p.z p.z
  let g := mulP p.y p.y
  let b := mulP p.x g
  let a := mulP (3 * subP p.x d) (p.x + d)
  let x := subP (mulP a a) (8 * b)
  ⟨x, subP (mulP a (subP (4 * b) x)) (8 * mulP g g), mulP (2 * p.y) p.z⟩

/-- The sum of two points. -/
def CurvePoint.add (p q : CurvePoint) : CurvePoint :=
  if p.z = 0 then q
  else if q.z = 0 then p
  else
    let pz := mulP p.z p.z
    let qz := mulP q.z q.z
    let u := mulP p.x qz
    let h := subP (mulP q.x pz) u
    let s := mulP p.y (mulP q.z qz)
    let r := subP (mulP q.y (mulP p.z pz)) s
    if h = 0 then (if r = 0 then p.double else ⟨1, 1, 0⟩)
    else
      let hh := mulP h h
      let v := mulP u hh
      let hhh := mulP h hh
      let x := subP (mulP r r) (hhh + 2 * v)
      ⟨x, subP (mulP r (subP v x)) (mulP s hhh), mulP (mulP p.z q.z) h⟩

/-- i · p + j · q, from bit n - 1 of i and j down; pq is p + q. -/
def combinePoints (p q pq : CurvePoint) (i j : Nat) : (n : Nat) → CurvePoint → CurvePoint
  | 0, acc => acc
  | n + 1, acc =>
    let acc := acc.double
    combinePoints p q pq i j n (match bit i n, bit j n with
      | false, false => acc
      | true, false => acc.add p
      | false, true => acc.add q
      | true, true => acc.add pq)

/-- b to the power e, modulo m, from bit n - 1 of e down. -/
def powMod (m b e : Nat) : (n : Nat) → Nat → Nat
  | 0, acc => acc
  | n + 1, acc =>
    let acc := acc * acc % m
    powMod m b e n (if bit e n then acc * b % m else acc)

/-- The inverse modulo the order. -/
def inverseN (x : Nat) : Nat := powMod curveN x (curveN - 2) 384 1

/-- A public key is a point of the curve. -/
def onCurve (x y : Nat) : Bool :=
  decide (x < curveP) && decide (y < curveP) && mulP y y == (mulP x (mulP x x) + 3 * (curveP - x) + curveB) % curveP

/-- A signature (r, s) of a hash verifies under the public key (x, y). -/
def ecdsaHolds (x y hash r s : Nat) : Bool :=
  if r = 0 || s = 0 || curveN ≤ r || curveN ≤ s || !onCurve x y then false
  else
    let w := inverseN s
    let q : CurvePoint := ⟨x, y, 1⟩
    let t := combinePoints curveBase q (curveBase.add q) (hash * w % curveN) (r * w % curveN) 384 ⟨1, 1, 0⟩
    let zz := mulP t.z t.z
    t.z != 0 && (t.x == mulP r zz || (decide (r + curveN < curveP) && t.x == mulP (r + curveN) zz))

/-- An ECDSA P-384 signature over SHA-384 of a message verifies under a key: the key is x then y and the signature r then s, each of 48
bytes, least significant first (R2, R370). -/
def ecdsaVerifies (key message signature : List Byte) : Bool :=
  ecdsaHolds (leAt key 0 48) (leAt key 48 48) (beNat (sha384 message)) (leAt signature 0 48) (leAt signature 48 48)

end Sys2Proof.Machine
end

