-- ==== Sys2Proof/Machine/Attest.lean ====
section
/-! DEFINITION. Measurements and their attestation (R369, R372, R373, R377): how a measurement register grows, and the SPDM responder,
whose messages have the layouts of DMTF SPDM 1.3 (log 11). -/

namespace Sys2Proof.Machine
open Sys2Proof

/-! ### Measurement registers (R372) -/

/-- A measurement register: 48 zero bytes until it is extended (R369). -/
def Boot.measure (b : Boot) (n : Nat) : List Byte := findD b.meas n (zeros 48)

/-- Extend a measurement register with a digest (R372). -/
def extendMeas (b : Boot) (n : Nat) (digest : List Byte) : Boot :=
  { b with meas := insert b.meas n (sha384 (b.measure n ++ digest)) }

/-- Firmware updates that the management core has taken up are measured into MEAS4, in order (R369). -/
def measureUpdates (s : State) : State :=
  match s.boot.updates with
  | [] => s
  | xs => { s with boot := xs.foldl (fun b image => extendMeas b 4 (sha384 image)) { s.boot with updates := [] } }

/-! ### Requests (R373) -/

/-- Requests of R373 by their codes: GET_DIGESTS, GET_CERTIFICATE, CHALLENGE, GET_VERSION, GET_MEASUREMENTS, GET_CAPABILITIES and
NEGOTIATE_ALGORITHMS. -/
inductive SpdmCode where
  | digests | certificate | challenge | version | measurements | capabilities | algorithms
  deriving DecidableEq, Repr

/-- The request that a code names (log 11). -/
def spdmCode (n : Nat) : Option SpdmCode :=
  match n with
  | 0x81 => some .digests | 0x82 => some .certificate | 0x83 => some .challenge | 0x84 => some .version
  | 0xE0 => some .measurements | 0xE1 => some .capabilities | 0xE3 => some .algorithms
  | _ => none

/-- The header of a message: version 0x13, code and two parameters. -/
def spdmHeader (code p q : Nat) : List Byte := leBytes 1 0x13 ++ leBytes 1 code ++ leBytes 1 p ++ leBytes 1 q

/-- An SPDM ERROR message of a code. -/
def spdmError (code data : Nat) : List Byte := spdmHeader 0x7F code data
/-- The codes of ERROR messages: a field out of range, Busy, Unspecified, UnsupportedRequest and a wrong version. -/
def spdmInvalid : Nat := 0x01
/-- See `spdmInvalid`. -/
def spdmBusy : Nat := 0x03
/-- See `spdmInvalid`. -/
def spdmUnspecified : Nat := 0x05
/-- See `spdmInvalid`. -/
def spdmUnsupported : Nat := 0x07
/-- See `spdmInvalid`. -/
def spdmVersion : Nat := 0x41

/-- The version a request must carry: 0x13, but for GET_VERSION, which comes before a version is agreed. -/
def SpdmCode.versionOf (x : SpdmCode) : Nat := if x = .version then 0x10 else 0x13

/-- A request asks for signed measurements. -/
def signsMeasurements (request : List Byte) : Bool := spdmCode (leAt request 1 1) = some .measurements && bit (leAt request 2 1) 0

/-! ### Parts of responses (R373) -/

/-- Measurement block n, 1 to 8: MEAS(n - 1) as a digest of 48 bytes in the DMTF measurement format. -/
def measurementBlock (meas : Nat → List Byte) (n : Nat) : List Byte :=
  leBytes 1 n ++ leBytes 1 1 ++ leBytes 2 51 ++ leBytes 1 (Config.measurementType n) ++ leBytes 2 48 ++ meas (n - 1)

/-- All eight blocks. -/
def measurementBlocks (meas : Nat → List Byte) : List Byte := flatten ((List.range 8).map fun i => measurementBlock meas (i + 1))

/-- 32 bytes of the random-bit generator for an exchange. -/
def spdmNonce (exchange : Nat) : List Byte := leBytes 32 (Config.nonce exchange)

/-- What a device key signs: key 0 is the identity key, key 1 the attestation key. -/
def spdmSign (key : Nat) (message : List Byte) (exchange : Nat) : List Byte := leBytes 96 (Config.signature key message exchange)

/-- The certificate chain of a slot, 0 or 1. -/
def certificateChain (slot : Nat) : List Byte := Config.certificate slot

/-- VERSION: version 1.3 alone. -/
def versionResponse : List Byte := leBytes 1 0x10 ++ leBytes 1 0x04 ++ zeros 3 ++ leBytes 1 1 ++ leBytes 2 0x1300

/-- CAPABILITIES: certificates, challenges and signed measurements (R373); the rest is the implementation's. -/
def capabilitiesResponse : List Byte :=
  spdmHeader 0x61 0 0 ++ zeros 1 ++ leBytes 1 (Config.spdmLimit 0) ++ zeros 2 ++ leBytes 4 0x16 ++ leBytes 4 (Config.spdmLimit 1) ++
    leBytes 4 (Config.spdmLimit 2)

/-- ALGORITHMS: ECDSA P-384 and SHA-384 where the request offers them, and the DMTF measurement format (R373). -/
def algorithmsResponse (request : List Byte) : List Byte :=
  spdmHeader 0x63 0 0 ++ leBytes 2 36 ++ leBytes 1 1 ++ zeros 1 ++ leBytes 4 4 ++
    leBytes 4 (leAt request 8 4 / 0x80 % 2 * 0x80) ++ leBytes 4 (leAt request 12 4 / 2 % 2 * 2) ++ zeros 16

/-- DIGESTS of both slots. -/
def digestsResponse : List Byte := spdmHeader 0x01 3 3 ++ sha384 (certificateChain 0) ++ sha384 (certificateChain 1)

/-- CERTIFICATE: a portion of a slot's chain. -/
def certificateResponse (request : List Byte) : List Byte :=
  let slot := leAt request 2 1 % 16
  let chain := certificateChain slot
  let o := leAt request 4 2
  let portion := (chain.drop o).take (leAt request 6 2)
  if 1 < slot || chain.length ≤ o then spdmError spdmInvalid 0
  else spdmHeader 0x02 slot 0 ++ leBytes 2 portion.length ++ leBytes 2 (chain.length - o - portion.length) ++ portion

/-- CHALLENGE_AUTH, signed with the key of the named slot (R373). -/
def challengeResponse (meas : Nat → List Byte) (request : List Byte) (exchange : Nat) : List Byte :=
  let slot := leAt request 2 1
  let kind := leAt request 3 1
  let context := (request.drop 36).take 8
  if 1 < slot || !(kind = 0 || kind = 1 || kind = 255) then spdmError spdmInvalid 0
  else
    let summary := if kind = 0 then [] else sha384 (measurementBlocks meas)
    let body := spdmHeader 0x03 slot (2 ^ slot) ++ sha384 (certificateChain slot) ++ spdmNonce exchange ++ summary ++ zeros 2 ++ context
    body ++ spdmSign slot (request ++ body) exchange

/-- MEASUREMENTS: the number of blocks, one block, or all; signed with the attestation key where the request asks for it (R373). -/
def measurementsResponse (b : Boot) (meas : Nat → List Byte) (request : List Byte) (exchange : Nat) : List Byte :=
  let signed := signsMeasurements request
  let op := leAt request 3 1
  let context := (request.drop (if signed then 37 else 4)).take 8
  if !(op ≤ 8 || op = 255) then spdmError spdmInvalid 0
  else if signed && !b.attest then spdmError spdmUnspecified 0
  else
    let record := if op = 0 then [] else if op = 255 then measurementBlocks meas else measurementBlock meas op
    let count := if op = 0 then 0 else if op = 255 then 8 else 1
    let body := spdmHeader 0x60 (if op = 0 then 8 else 0) (if signed then 1 else 0) ++ leBytes 1 count ++ leBytes 3 record.length ++
      record ++ spdmNonce exchange ++ zeros 2 ++ context
    if signed then body ++ spdmSign 1 (request ++ body) exchange else body

/-- The security block's response to a request, over the measurement registers as they stood when it began to form it (R373): after an
erasure the identity key that would answer is gone (R377). -/
def spdmAnswer (b : Boot) (meas : Nat → List Byte) (request : List Byte) (exchange : Nat) : List Byte :=
  match spdmCode (leAt request 1 1) with
  | none => spdmError spdmUnsupported (leAt request 1 1)
  | some x =>
    if leAt request 0 1 ≠ x.versionOf then spdmError spdmVersion 0
    else match x with
      | .version => versionResponse
      | .capabilities => capabilitiesResponse
      | .algorithms => algorithmsResponse request
      | .digests => digestsResponse
      | .certificate => if b.identity then certificateResponse request else spdmError spdmUnspecified 0
      | .challenge => if b.identity then challengeResponse meas request exchange else spdmError spdmUnspecified 0
      | .measurements => measurementsResponse b meas request exchange

/-! ### The responder (R373) -/

/-- A request is taken while none is in progress: its response is ready after a time of the implementation's (log 78). -/
def startExchange (s : State) (r : HostRecord) (stream : Nat) : State :=
  let b := s.boot
  let x : Exchange :=
    { queue := r.queue, part := r.eventPart, stream := stream, hseq := r.hseq, request := r.bytes.drop 32, meas := b.meas,
      number := b.exchanges, ready := s.tick + Config.spdmTime b.exchanges }
  { s with boot := { b with exchanges := b.exchanges + 1, forming := some x } }

/-- Extensions that came while signed measurements were being formed are made, and answered (R373). -/
def makeExtensions (s : State) : State :=
  s.boot.waiting.foldl (fun s (hseq, n, digest) =>
    sendResponse { s with boot := extendMeas s.boot n digest } 0x1C 128 noPart hyperStream hseq [])
    { s with boot := { s.boot with waiting := [] } }

/-- The response being formed is sent. -/
def finishExchange (s : State) (x : Exchange) : State :=
  sendResponse { s with boot := { s.boot with forming := none } } 9 x.queue x.part x.stream x.hseq
    (spdmAnswer s.boot (fun n => findD x.meas n (zeros 48)) x.request x.number)

/-- What the security block does in a step: updates are measured, a response that is ready is sent, and extensions that waited for one
are made after it (R369, R373). -/
def settleSecurity (s : State) : State :=
  let s := measureUpdates s
  match s.boot.forming with
  | none => if s.boot.waiting.isEmpty then s else makeExtensions s
  | some x => if x.ready ≤ s.tick then makeExtensions (finishExchange s x) else s

end Sys2Proof.Machine
end

