-- ==== Sys2Proof/Machine/Reduction.lean ====
section
/-! DEFINITION. The end of copies (R227, R229) and in-fabric reductions: how a contribution enters its window, how hops and the
root add exactly, and what every participant receives (R55, R56, R236, R353). -/

namespace Sys2Proof.Machine
open Sys2Proof

/-! ### Entering the window (R55) -/

/-- The element type of a REDX code. -/
def redxTy (code : Nat) : Ty :=
  match code with
  | 0 => .f64 | 1 => .f32 | 2 => .f16 | 3 => .bf16 | 4 => .i32
  | _ => .i64

/-- The bits of R228 that a reduction raises. -/
def redInexact : Nat := 0x40
/-- See `redInexact`. -/
def redOverflow : Nat := 0x20
/-- See `redInexact`. -/
def redInvalid : Nat := 0x10

/-- A value in the window of exponent w, with its status bits: none for a NaN (R55). -/
def enterWindow (w : Int) (v : FVal) : Option Int × Nat :=
  match v with
  | .nan _ => (none, redInvalid)
  | .inf neg => (some (if neg then -(2 ^ 127 : Nat) else (2 ^ 127 : Nat) - 1), redOverflow)
  | .fin neg m e =>
    if m ≠ 0 && !ltFloat (.fin false m e) (.fin false 1 (w + 31)) then
      (some (if neg then -(2 ^ 127 : Nat) else (2 ^ 127 : Nat) - 1), redOverflow)
    else
      let (k, inexact) := quantise 0 neg false m e (w - 96)
      (some (if neg then -(k : Int) else (k : Int)), if inexact then redInexact else 0)

/-- The value of an element of a contribution. -/
def redxValue (code x : Nat) : FVal :=
  let t := redxTy code
  if tyInt t then ofInt (signedOf (tyBits t) x) else decodeFloat t x

/-- The window exponent of a command (R236). -/
def Command.redxWindow (x : Command) : Int := signedOf 11 (bits (x.field 3) 26 16)

/-- A command's contribution from its source bytes: the entered values and the status bits (R55). -/
def Command.redxEnter (x : Command) (bs : List Byte) : List (Option Int) × Nat :=
  let n := redxBytes x.redxTypes.1
  let xs := (List.range (bs.length / n)).map fun i => enterWindow x.redxWindow (redxValue x.redxTypes.1 (leAt bs (n * i) n))
  (xs.map (·.1), xs.foldl (fun s y => s ||| y.2) 0)

/-! ### Adding (R56, R353) -/

/-- The name of a partition's group. -/
def groupKey (part group : Nat) : Nat := part * 65536 + group
/-- The name of a round of a group. -/
def roundKey (part group round : Nat) : Nat := groupKey part group * 2 ^ 32 + round

/-- The exact sum of two entered values; none where a NaN entered. -/
def addEntered (x y : Option Int) : Option Int := x.bind fun a => y.map fun b => a + b

/-- A hop adds two contributions of one round exactly and passes one sum on (R353). -/
def addContribution (a b : Contribution) : Contribution :=
  { a with
    modules := a.modules ++ b.modules.filter fun m => !a.modules.contains m
    count := a.count + b.count, sums := List.zipWith addEntered a.sums b.sums, status := a.status ||| b.status,
    poison := a.poison || b.poison }

/-- Two contributions of one round that a hop may add. -/
def sameRound (a b : Contribution) : Bool :=
  a.partition = b.partition && a.group = b.group && a.round = b.round && a.root = b.root && a.types = b.types &&
    a.contributors = b.contributors && a.sums.length = b.sums.length

/-- Bytes that an exact sum takes in a message: 143 bits hold the sum of 32,768 entered values (R55, R56, log 18). -/
def sumBytes : Nat := 18

/-- The flits of a contribution. -/
def sumFlits (c : Contribution) : Nat := flitCount (sumBytes * c.sums.length)

/-- A number toward a root for a sum that is passed on, which has no response until its round ends (R347, R353). -/
def passOn (s : State) (c : Contribution) : State :=
  let n := (s.towardAt c.root).next
  let s := s.modToward c.root fun x => { x with next := (n + 1) % 2 ^ 32, sums := x.sums ++ [n] }
  dispatchMessage { s with fabric := { s.fabric with contributions := s.fabric.contributions ++ [(n, c)] } }
    { vl := 3, home := c.root, number := n, count := sumFlits c }

/-- Rounds of a group that have ended: the sums passed on for them are no longer open (R347, R353). -/
def endSums (s : State) (part group : Nat) (past : Nat → Bool) : State :=
  let old := s.fabric.contributions.filter fun x => x.2.partition = part && x.2.group = group && past x.2.round
  old.foldl (fun s x => s.modToward x.2.root fun y => { y with sums := y.sums.filter (· ≠ x.1) }) s

/-- Two contributions belong to one round of one root's group. -/
def roundMates (a b : Contribution) : Bool :=
  a.partition = b.partition && a.group = b.group && a.round = b.round && a.root = b.root

/-- A contribution added to those that a hop gathers: to the sum of its kind, where there is one (R353). -/
def gather (c : Contribution) : List Contribution → List Contribution
  | [] => [c]
  | x :: rest => if sameRound c x then addContribution x c :: rest else x :: gather c rest

/-- The contributions of a round that reach a hop (R353): its routes fix how many they are, at most all (log 99). -/
def hopShare (c : Contribution) : Nat := min (Config.hopShare c.partition c.group c.root) c.contributors

/-- Contributions that the hop has gathered of a round. -/
def gatheredOf (xs : List Contribution) (c : Contribution) : Nat := ((xs.filter (roundMates c)).map (·.count)).sum

/-- A contribution goes toward another root on VL 3 (R348): the hop adds those of its round exactly, and passes one sum on with the last
that reaches it (R353). Contributions that cannot be added are passed on beside it, for the root to find their difference (R236). A round
of a group whose root keeps 4 open has ended once the fourth after it comes. -/
def forward (s : State) (c : Contribution) : State :=
  let s := endSums s c.partition c.group fun r => r + 4 ≤ c.round
  let xs := gather c s.fabric.gathered
  if hopShare c ≤ gatheredOf xs c || (livePorts s c.root).isEmpty then
    (xs.filter (roundMates c)).foldl passOn
      { s with fabric := { s.fabric with gathered := xs.filter fun x => !roundMates c x } }
  else { s with fabric := { s.fabric with gathered := xs } }

/-- A hop takes no further contribution toward a root: it may have 1,024 messages there without a response (R347). -/
def hopFull (s : State) (c : Contribution) : Bool :=
  c.root ≠ s.fabric.module &&
    ((s.towardAt c.root).full ||
      1024 ≤ (s.towardAt c.root).waiting.length + (s.towardAt c.root).sums.length + (s.fabric.gathered.filter (·.root = c.root)).length)

/-! ### The root (R56) -/

/-- A contribution's window exponent, from its types field: bits [26:8] of the descriptor word (R236). -/
def typesWindow (types : Nat) : Int := signedOf 11 (bits types 18 8)

/-- One element of a result, with the root's status bits. -/
def rootElement (types : Nat) (sums : List (Option Int)) (i : Nat) (x : Option Int) : Nat × Nat :=
  let t := redxTy (bits types 7 4)
  match x with
  | none => (if tyInt t then Config.nanElement types sums i % 2 ^ tyBits t else canonicalNan t, 0)
  | some x =>
    let lo : Int := -(2 ^ 127 : Nat)
    let hi : Int := (2 ^ 127 : Nat) - 1
    let y := max lo (min hi x)
    let ovf := if x = y then 0 else redOverflow
    let v := ofSigned y (typesWindow types - 96) false
    if tyInt t then
      let (k, inexact) := match v with
        | .fin neg m e => let (k, i) := quantise 0 neg false m e 0; (if neg then -(k : Int) else (k : Int), i)
        | _ => (0, false)
      let w := tyBits t
      let half : Int := (2 ^ (w - 1) : Nat)
      let z := max (-half) (min (half - 1) k)
      (wrapTo w z, ovf ||| (if z = k then 0 else redOverflow) ||| (if inexact then redInexact else 0))
    else
      let (bits, f) := writeFloat t nearestEven v
      (bits, ovf ||| (if f &&& flagOverflow ≠ 0 then redOverflow else 0) ||| (if f &&& flagInexact ≠ 0 then redInexact else 0))

/-- The result of a round: a mismatch writes nothing (R236). -/
def Round.result (r : Round) (part group round : Nat) : ReductionResult :=
  if r.mismatch then { partition := part, group := group, round := round, status := codeRmis, poison := false, bytes := [] }
  else
    let n := redxBytes (bits r.types 7 4)
    let xs := ((List.range r.sums.length).zip r.sums).map fun (i, x) => rootElement r.types r.sums i x
    { partition := part, group := group, round := round, status := xs.foldl (fun s x => s ||| x.2) r.status,
      poison := r.poison, bytes := flatten (xs.map fun x => leBytes n x.1) }

/-- Send a result down to modules on VL 4, this module's own participants aside (R348, R353). -/
def sendResult (s : State) (modules : List Nat) (r : ReductionResult) : State :=
  modules.foldl (fun s m =>
    if m = s.fabric.module then { s with agenda := s.agenda ++ [.reductionResult { via := none, result := r }] }
    else
      dispatchMessage { s with fabric := { s.fabric with results := s.fabric.results ++ [(m, r)] } }
        { vl := 4, home := m, number := roundKey r.partition r.group r.round, count := flitCount r.bytes.length }) s

/-- A round with one contribution more. -/
def Round.add (r : Round) (c : Contribution) : Round :=
  { r with
    modules := r.modules ++ c.modules.filter fun m => !r.modules.contains m
    count := r.count + c.count
    sums := List.zipWith addEntered r.sums c.sums
    status := r.status ||| c.status
    poison := r.poison || c.poison
    mismatch := r.mismatch || r.types ≠ c.types || r.sums.length ≠ c.sums.length }

/-- A round as its first contribution opens it. -/
def roundOf (c : Contribution) : Round where
  modules := c.modules
  count := c.count
  sums := c.sums
  status := c.status
  poison := c.poison
  types := c.types
  mismatch := false

/-- The root turns away the modules of a contribution: their group differs from its own (R353). -/
def turnAway (s : State) (c : Contribution) : State :=
  sendResult s c.modules
    { partition := c.partition, group := c.group, round := c.round, status := codeRmis, poison := false, bytes := [] }

/-- A contribution reaches its root: with the last of its round the result is sent to the modules that contributed. A module
whose group differs from the root's ends its contributions with RMIS, and the round goes on without them (R353). -/
def reachRoot (s : State) (c : Contribution) : State :=
  let key := roundKey c.partition c.group c.round
  match find (s.partAt c.partition).groups c.group with
  | none => turnAway s c
  | some g =>
    if g.contributors ≠ c.contributors || g.root ≠ c.root then turnAway s c
    else
      let r := match find s.fabric.rounds key with
        | none => roundOf c
        | some r => r.add c
      if r.count < g.contributors then { s with fabric := { s.fabric with rounds := insert s.fabric.rounds key r } }
      else
        sendResult { s with fabric := { s.fabric with rounds := remove s.fabric.rounds key } } r.modules
          (r.result c.partition c.group c.round)

/-- A contribution reaches this module: its root, or a hop. -/
def contribute (s : State) (c : Contribution) : State := if c.root = s.fabric.module then reachRoot s c else forward s c

/-- The duplicate table that a contribution is held against: of its source at its root, and of its source and root at a hop (R347). -/
def sumDups (s : State) (c : ContributionIn) : DupTable :=
  if c.sum.root = s.fabric.module then findD s.fabric.dups c.source freshDup
  else findD s.fabric.hopDups (c.source * 2048 + c.sum.root) freshDup

/-- The number of a contribution is noted. -/
def noteSum (s : State) (c : ContributionIn) : State :=
  let x := (sumDups s c).note c.number none
  if c.sum.root = s.fabric.module then { s with fabric := { s.fabric with dups := insert s.fabric.dups c.source x } }
  else { s with fabric := { s.fabric with hopDups := insert s.fabric.hopDups (c.source * 2048 + c.sum.root) x } }

/-- REDUCTION_CONTRIBUTION (R353): on VL 3, and at most once for each number of its sender (R347, R348). -/
def execReductionContribution (c : ContributionIn) (s : State) : Host.Outcome State Fault Refusal :=
  bring s c.via [3] (sumFlits c.sum) fun t =>
    event (t.boot.stage = 7 && !hopFull t c.sum)
      (if notApplied (sumDups t c) c.number then contribute (noteSum t c) c.sum else t)

/-! ### REDX (R236) -/

/-- REDX commands of the module that wait for a result: thread and command. -/
def openReductions (s : State) (part group : Nat) : List (ThreadRef × Command) :=
  flatten (s.threads.map fun (t, th) =>
    (th.cmds.filter fun x => x.opcode = 0xB6 && x.status.isNone && x.round.isSome && x.field 5 % 65536 = group &&
      partOf s t = part).map fun x => (t, x))

/-- The oldest open round that this module knows of a group. -/
def oldestRound (s : State) (part group : Nat) : Option Nat :=
  let mine := (openReductions s part group).filterMap fun x => x.2.round
  let root := (s.fabric.rounds.filter fun r => r.1 / 2 ^ 32 = groupKey part group).map (·.1 % 2 ^ 32)
  (mine ++ root).min?

/-- Read a command's source, beat by beat; where it stops, the code and address. -/
def readSource (s : State) (x : CopyAt) : List Beat → List (Byte × Bool) → Except (Nat × Nat) (State × List (Byte × Bool))
  | [], acc => .ok (s, acc)
  | b :: rest, acc => match takeSide s x b.source b.taken with
    | .error e => .error e
    | .ok (s, bs) => readSource s x rest (acc ++ bs)

/-- How a contribution leaves its core. -/
inductive Left where
  | waits
  | ended (s : State)
  | gone (s : State)

/-- A REDX contributes (R236, R353): its group's round counter is read and raised, and the contribution leaves; a group that
is not defined ends it with RMIS, and a source that cannot be read stops it. -/
def contributeCommand (s : State) (x : CopyAt) : Left :=
  let group := x.cmd.field 5 % 65536
  let key := groupKey x.part group
  let round := findD (s.coreAt x.thread.core).rounds key 0
  match find (s.partAt x.part).groups group with
  | none => .ended (stopCommand s x.thread x.cmd codeRmis 0)
  | some g =>
    if (oldestRound s x.part group).any fun r => r + 3 < round then .waits
    else match readSource s x (cutBeats (x.cmd.field 0) 0 (x.cmd.field 2)) [] with
      | .error (code, va) => .ended (stopCommand s x.thread x.cmd code va)
      | .ok (s, bs) =>
        let (sums, status) := x.cmd.redxEnter (bs.map (·.1))
        let c : Contribution :=
          { modules := [s.fabric.module], partition := x.part, group := group, round := round, contributors := g.contributors,
            root := g.root, count := 1, types := x.cmd.field 3 / 256, sums := sums, status := status,
            poison := bs.any (·.2) }
        if hopFull s c then .waits
        else
        let s := setCommand s x.thread { x.cmd with round := some round }
        let s := s.modCore x.thread.core fun k => { k with rounds := insert k.rounds key (round + 1) }
        .gone (contribute s c)

/-- Write a result's beats to a participant's destination; where it stops, the command with its code and address. -/
def writeBeats (s : State) (x : CopyAt) (status : Nat) : (beats : List Beat) → (first : Nat) → List (Byte × Bool) → State
  | [], _, _ => endCommand (fillClaims s x.thread x.cmd false) x.thread x.cmd (status % 128 / 16 * 16) (status % 16)
  | b :: rest, first, bs =>
    let (s, ys) := corrupt s x first (bs.take b.size)
    match writeBeat s x b ys true with
    | .done s c => writeBeats s { x with cmd := c } status rest (first + b.size) (bs.drop b.size)
    | .stop s c code va => stopCommand s x.thread c code va
    | _ => s

/-- A result reaches a participant (R236). One that ends it with a code names no address: FAULTVA:FAULTVAH is 0, the model's choice
(log 119). -/
def receiveResult (s : State) (r : ReductionResult) (t : ThreadRef) (c : Command) : State :=
  if r.status % 16 ≠ codeOk then stopCommand s t c (r.status % 16) 0
  else
    writeBeats s ⟨t, r.partition, c⟩ r.status (cutBeats 0 c.destOffset r.bytes.length) 0 (r.bytes.map fun b => (b, r.poison))

/-- The participants of a round of this module that still wait for its result. -/
def participants (s : State) (r : ReductionResult) : List (ThreadRef × Command) :=
  (openReductions s r.partition r.group).filter fun x => x.2.round = some r.round

/-- A result that waits in a core's FIFO for the end of a shift (R323): it reaches the core's participants when the FIFO drains. -/
def queuedResult (r : ReductionResult) : Instr := .reductionResult { via := none, result := r }

/-- A result enters the FIFO of a core in a shift, once; none where the FIFO is full (R323). -/
def queueResult (s : State) (core : Nat) (r : ReductionResult) : Option State :=
  let k := s.coreAt core
  let n := fifoEntries r.bytes.length
  if k.fifo.any fun x => x.1 == queuedResult r then some s
  else if k.fifoUsed + n ≤ 128 then some (s.modCore core fun k => { k with fifo := k.fifo ++ [(queuedResult r, n)] })
  else none

/-- The result of a round reaches this module's participants: its writes wait where a shift holds the core's copy engine (R201,
R323). None while a FIFO has no room. -/
def deliverResult (r : ReductionResult) (s : State) : Option State :=
  let s := endSums s r.partition r.group (· = r.round)
  (participants s r).foldl (fun s (t, c) => s.bind fun s =>
    if (s.coreAt t.core).gear.shift.isSome then queueResult s t.core r else some (receiveResult s r t c)) (some s)

/-- The end of a delivery, which waits at the mesh while a FIFO is full (R323). -/
def delivered (s : Option State) : Host.Outcome State Fault Refusal :=
  match s with
  | some s => .next s
  | none => .refused .notDue

/-- REDUCTION_RESULT (R236): from the module itself where it is the root, else on VL 4 (R348). -/
def execReductionResult (r : ResultIn) (s : State) : Host.Outcome State Fault Refusal :=
  match r.via with
  | none => if (participants s r.result).isEmpty then .refused .notDue else delivered (deliverResult r.result s)
  | some v => bring s v [4] (flitCount r.result.bytes.length) fun t => delivered (deliverResult r.result t)

/-! ### The end of a copy (R227, R229) -/

/-- A command that is not a REDX, or not stopped, runs as far as it can. -/
inductive Finished where
  | notDue
  | goes (s : State)
  | stops (s : State) (fabric : Bool)

/-- More beats than any command has (R224, R235). -/
def allBeats : Nat := 2 ^ 24

/-- What the copy engine does with a command now: the core runs, its older work is done where the command asks, and its
beats move (R227). -/
def finishCopy (s : State) (t : ThreadRef) (n : Nat) : Finished :=
  match findCommand s t n, s.threadAt t with
  | some x, some th =>
    if x.cmd.status.isSome || !coreRuns s t.core then .notDue
    else if x.cmd.moved then (if x.cmd.acks.isEmpty then .goes (completeCommand s t x.cmd) else .notDue)
    else if x.cmd.opcode = 0xB6 then
      if x.cmd.round.isSome || th.wordsUnknown n || ((x.cmd.flags.acq || x.cmd.flags.rel) && olderPending th n) then .notDue
      else match contributeCommand s x with
        | .waits => .notDue
        | .ended s => .stops s false
        | .gone s => .goes s
    else match runCopy s x allBeats with
      | .finished s c => .goes (completeCommand s t c)
      | .sent s c => .goes (setCommand s t c)
      | .limit s c => if c.cancelling then .stops (stopCommand s t c codeCancelled 0) false else .goes (setCommand s t c)
      | .blocked => .notDue
      | .stopped s c code va => .stops (stopCommand s t c code va) (code = codeFabric)
  | _, _ => .notDue

/-- The answered read of a beat, which reaches a core whose copy engine a shift holds (R323). -/
def copyArrived (s : State) (t : ThreadRef) (n : Nat) : Bool :=
  ((findCommand s t n).map fun x => x.cmd.status.isNone && !x.cmd.asked.isEmpty && !x.cmd.writing &&
    decide (remoteEnd s (askedRead x []) ≠ .waiting)).getD false

/-- COPY_COMPLETE (R227): the copy of a block's command. In a shift its read enters the core's FIFO (R323). -/
def execCopyComplete (core block cmd : Nat) (s : State) : Host.Outcome State Fault Refusal :=
  let t : ThreadRef := ⟨core, block, ccpThread⟩
  let i : Instr := .copyComplete core block cmd
  if (s.coreAt core).gear.shift.isSome then
    respond core i 64 (copyArrived s t cmd && !(s.coreAt core).fifo.any fun x => x.1 == i) s s
  else match finishCopy s t cmd with
    | .goes s => .next s
    | _ => .refused .notDue

/-- COPY_STOP (R229): `fabric` says that the fabric failed it (R351). -/
def execCopyStop (core block cmd : Nat) (fabric : Bool) (s : State) : Host.Outcome State Fault Refusal :=
  match finishCopy s ⟨core, block, ccpThread⟩ cmd with
  | .stops t f => event (f == fabric) t
  | _ => .refused .notDue

end Sys2Proof.Machine
end

