-- ==== Sys2Proof/Machine/Mbasin.lean ====
section
/-! DEFINITION. The Mbasin records of R340 and R341: launches, counters, configuration, security and debug. -/

namespace Sys2Proof.Machine
open Sys2Proof

/-! ### LAUNCH (R289, R290) -/

/-- A field of the descriptor outside its range, or a nonzero MBZ bit (R289). -/
def badLaunch (l : Launch) : Bool :=
  let badEntry (x : Nat) : Bool := x % 4 != 0 || decide (2 ^ 56 ≤ x)
  badEntry l.entry || badEntry l.ccpEntry || l.kbank % 64 != 0 || l.priv % 65536 != 0 ||
  l.gridX = 0 || l.gridY = 0 || l.gridZ = 0 ||
  bits l.shape 31 28 != 0 || decide (4 < l.ladders) || decide (16 < l.rings) || bits l.shape 15 13 != 0 ||
  decide (bits l.shape 12 8 < 2) || decide (24 < bits l.shape 12 8) || bits l.shape 7 6 != 0 ||
  l.waves = 0 || decide (32 < l.waves) ||
  decide (262144 < l.regionSize 3) || decide (262144 < l.regionSize 0) || decide (524288 < l.regionSize 1) ||
  decide (1048576 < l.regionSize 2) ||
  l.lflags / 64 != 0 || bits l.lflags 4 3 = 3 ||
  l.deps.any (fun d => decide (4096 ≤ d.1)) || (List.range 4).any (fun i => decide (4096 ≤ l.done i)) ||
  l.field 116 12 != 0

/-- The first failing reason of R290; none for a launch that is accepted. Reasons 5 and 6 cannot fail here: a cluster is at most
4 × 4 cores of 12 × 12, and an index of 12 bits names a counter. -/
def launchReason (l : Launch) : Option Nat :=
  if badLaunch l then some 1
  else if 2 ^ 32 ≤ l.gridBlocks || l.gridX % l.clusterW ≠ 0 || l.gridY % l.clusterH ≠ 0 then some 2
  else if 524288 < l.waves * l.regs * 128 then some 3
  else if 24 < l.energy || 3000 < l.ipeak then some 4
  else none

/-- A launch as its record is accepted. -/
def launchFrom (r : HostRecord) : Launch :=
  let l : Launch :=
    { noLaunch with partition := r.queue / 8, queue := r.queue % 8, hseq := r.hseq, desc := (r.bytes.drop 32).take 128 }
  { l with nblk := l.gridBlocks }

/-- LAUNCH is checked, numbered and queued. -/
def launchAct (r : HostRecord) (s : State) : Acted :=
  let l := launchFrom r
  match launchReason l with
  | some reason => .no refusedCode reason
  | none =>
    .later (settlePart { s with
      launches := insert s.launches s.nextLaunch l
      nextLaunch := (s.nextLaunch + 1) % 2 ^ 32 } l.partition)

/-- LAUNCH (R290, R292). -/
def execLaunch (r : HostRecord) (s : State) : Host.Outcome State Fault Refusal :=
  hostRecord 0x01 r (fun _ s => launchAct r s) s

/-! ### Counters and cancels (R297, R299) -/

/-- An index names a counter. -/
def counterIndex (i : Nat) : Bool := 1 ≤ i && i < 4096

/-- CANCEL (R299). -/
def execMbasinCancel (r : HostRecord) (s : State) : Host.Outcome State Fault Refusal :=
  hostRecord 0x02 r (fun _ s =>
    if 3 < r.field 32 4 || !counterIndex (r.field 36 4) then .outOfRange
    else .ok (cancelLevel s r.part (r.field 32 4) (r.field 36 4)) []) s

/-- CTRREAD (R297). -/
def execCtrread (r : HostRecord) (s : State) : Host.Outcome State Fault Refusal :=
  hostRecord 0x03 r (fun _ s =>
    if !counterIndex (r.field 32 4) || r.field 36 4 ≠ 0 then .outOfRange
    else
      let c := (s.partAt r.part).counter (r.field 32 4)
      .ok s (leBytes 8 (c.count + boolNat c.canc * 2 ^ 63))) s

/-- CTRWRITE (R297): the heads that name the counter are looked at again. -/
def execCtrwrite (r : HostRecord) (s : State) : Host.Outcome State Fault Refusal :=
  hostRecord 0x04 r (fun _ s =>
    let v := r.field 40 8
    if !counterIndex (r.field 32 4) || r.field 36 4 ≠ 0 || bits v 62 48 ≠ 0 then .outOfRange
    else
      let c : Counter := { canc := bit v 63, count := bits v 47 0 }
      .ok (settlePart (modCounter s r.part (r.field 32 4) fun _ => c) r.part) []) s

/-! ### Statistics and reduction groups (R285, R353) -/

/-- The statistics record (R285). -/
def statsBytes (x : StoreStats) : List Byte :=
  flatten ([x.hitv, x.hitp, x.missa, x.missn, x.recl, x.kill, x.aband].map (leBytes 8)) ++
    leBytes 4 (min x.eccc (2 ^ 32 - 1)) ++ leBytes 4 (min x.eccu (2 ^ 32 - 1))

/-- STATSREAD (R285): the statistics are cleared, and what they counted stays in the lifetime record (R366). -/
def execStatsread (r : HostRecord) (s : State) : Host.Outcome State Fault Refusal :=
  hostRecord 0x07 r (fun _ s =>
    let core := r.field 32 4
    if coreCount ≤ core || r.field 36 4 ≠ 0 then .outOfRange
    else if (s.coreAt core).partition ≠ some r.part then .absent
    else .ok (s.modCore core fun k => { k with life := k.lifeNow, stats := freshStats })
      (statsBytes (s.coreAt core).stats)) s

/-- Every core's round counter of a group, the root's open rounds of it, and the sums gathered for it here are cleared (R353). -/
def clearGroup (s : State) (part group : Nat) : State :=
  let key := groupKey part group
  { s with
    cores := s.cores.map fun (c, k) => (c, { k with rounds := remove k.rounds key })
    fabric :=
      { s.fabric with
        rounds := s.fabric.rounds.filter fun x => x.1 / 2 ^ 32 ≠ key
        gathered := s.fabric.gathered.filter fun c => groupKey c.partition c.group ≠ key } }

/-- Reduction groups that the module holds. -/
def groupCount (s : State) : Nat := (s.partitions.map fun (_, p) => p.groups.length).sum

/-- REDGRP (R353): at most 1,024 groups are defined. -/
def execRedgrp (r : HostRecord) (s : State) : Host.Outcome State Fault Refusal :=
  hostRecord 0x08 r (fun _ s =>
    let g := r.field 32 2
    let n := r.field 36 4
    if r.field 34 2 ≠ 0 || 32768 < n || 2047 < r.field 40 2 || r.field 42 6 ≠ 0 then .outOfRange
    else
      let known := (find (s.partAt r.part).groups g).isSome
      if n = 0 then
        if known then .ok (clearGroup (s.modPart r.part fun p => { p with groups := remove p.groups g }) r.part g) []
        else .absent
      else if !known && 1024 ≤ groupCount s then .no refusedCode 3
      else
        let x : Group := { contributors := n, root := r.field 40 2 }
        .ok (clearGroup (s.modPart r.part fun p => { p with groups := insert p.groups g x }) r.part g) []) s

/-! ### Partitions (R308, R328, R341) -/

/-- The valid job IDs of a PARTCFG. -/
def configuredJobs (r : HostRecord) : List Nat :=
  ((List.range 4).map fun i => r.field (32 + 4 * i) 4).filterMap fun x => if bit x 31 then some (x % 2 ^ 24) else none

/-- A field of a PARTCFG outside its range. -/
def badPartition (r : HostRecord) : Bool :=
  (List.range 4).any (fun i => bits (r.field (32 + 4 * i) 4) 30 24 != 0) || decide (1 < r.field 50 1) ||
  r.field 51 5 != 0 || r.field 56 8 % 2 ^ 13 != 0 || decide (2 ^ 52 ≤ r.field 56 8) || r.field 64 8 % 2 ^ 12 != 0 ||
  decide (2 ^ 44 ≤ r.field 64 8) || r.field 72 4 % 4 != 0 || r.field 76 4 != 0

/-- A block of the partition is resident. -/
def partitionResident (s : State) (p : Nat) : Bool := s.blocks.any fun (_, _, b) => (s.launchOf b).partition = p

/-- A partition as a PARTCFG configures it: a new tenancy ID draws a new key, and the first configuration fills the balance
(R293, R341, R374). -/
def configure (s : State) (r : HostRecord) : State :=
  let old := s.partAt r.part
  let draws := !old.configured || old.tenancy ≠ r.field 48 2
  let s := s.modPart r.part fun p =>
    { p with
      configured := true
      jobs := configuredJobs r
      tenancy := r.field 48 2
      tss := r.field 50 1 = 1
      key := if draws then s.nextKey else p.key
      ptroot := BitVec.ofNat 32 (r.field 56 8)
      ptrooth := BitVec.ofNat 32 (r.field 56 8 / 2 ^ 32)
      pool := BitVec.ofNat 32 (r.field 64 8 / 4096)
      trapbase := BitVec.ofNat 32 (r.field 72 4)
      balance := if p.configured then p.balance else p.refill }
  if draws then { s with nextKey := s.nextKey + 1 } else s

/-- PARTCFG (R341). Cached leaves of the old tables are dropped. -/
def execPartcfg (r : HostRecord) (s : State) : Host.Outcome State Fault Refusal :=
  hostRecord 0x10 r (fun _ s =>
    if badPartition r then .outOfRange
    else if partitionResident s r.part then .no busyCode 0
    else .ok (forgetLeaves (configure s r) r.part) []) s

/-- RAILMAP (R318, R341). -/
def execRailmap (r : HostRecord) (s : State) : Host.Outcome State Fault Refusal :=
  hostRecord 0x11 r (fun _ s =>
    let rails := (r.bytes.drop 32).take coreCount
    if rails.any fun b => decide (4 ≤ b.toNat) then .outOfRange
    else .ok (((List.range coreCount).zip rails).foldl (fun s (c, b) =>
      settleRails (s.modCore c fun k => { k with gear := { k.gear with railNext := some (b.getLsbD 0, b.getLsbD 1) } }) c) s) []) s

/-- BUDGET (R293, R328, R341). -/
def execBudget (r : HostRecord) (s : State) : Host.Outcome State Fault Refusal :=
  hostRecord 0x12 r (fun _ s =>
    if r.field 52 4 ≠ 0 then .outOfRange
    else .ok (s.modPart r.part fun p =>
      { p with
        refill := r.field 32 8
        cap := r.field 40 8
        slew := r.field 48 4
        allowance := 10 * r.field 48 4
        balance := min p.balance (r.field 40 8) }) []) s

/-- CTXAREA (R308, R341): a range of local HBM. -/
def execCtxarea (r : HostRecord) (s : State) : Host.Outcome State Fault Refusal :=
  hostRecord 0x13 r (fun _ s =>
    let base := r.field 32 8
    let size := r.field 40 8
    if base % 65536 ≠ 0 || size % 65536 ≠ 0 || tierSize false < base + size then .outOfRange
    else .ok (s.modPart r.part fun p => { p with areaBase := base, areaSize := size }) []) s

/-! ### The module: caps, number, routes, windows, cores (R330, R349, R350, R365, R367) -/

/-- RACKCAP (R330): a sequence that is not greater than the last accepted one is ignored. -/
def execRackcap (r : HostRecord) (s : State) : Host.Outcome State Fault Refusal :=
  hostRecord 0x14 r (fun _ s =>
    if r.field 32 8 ≤ s.rack.seq then .ok s []
    else .ok { s with rack := { seq := r.field 32 8, watts := r.field 40 4, lease := some (r.field 44 4) } } []) s

/-- MODID (R340, R349). -/
def execModid (r : HostRecord) (s : State) : Host.Outcome State Fault Refusal :=
  hostRecord 0x15 r (fun _ s =>
    if 2047 < r.field 32 2 || r.field 34 6 ≠ 0 then .outOfRange
    else if s.fabric.trained then .no busyCode 0
    else .ok { s with fabric := { s.fabric with module := r.field 32 2, named := true } } []) s

/-- ROUTE (R349). -/
def execRoute (r : HostRecord) (s : State) : Host.Outcome State Fault Refusal :=
  hostRecord 0x16 r (fun _ s =>
    if 2047 < r.field 32 2 || r.field 34 6 ≠ 0 || 2 ^ 36 ≤ r.field 40 8 then .outOfRange
    else .ok { s with fabric := { s.fabric with routes := put 0 s.fabric.routes (r.field 32 2) (r.field 40 8) } } []) s

/-- WINDOW (R350). -/
def execWindow (r : HostRecord) (s : State) : Host.Outcome State Fault Refusal :=
  hostRecord 0x17 r (fun _ s =>
    let i := r.field 32 1
    if 63 < i || 3 < r.field 33 1 || r.field 40 8 % 65536 ≠ 0 || moduleWeight ≤ r.field 40 8 then .outOfRange
    else
      let w : Window :=
        { r := bit (r.field 33 1) 0, w := bit (r.field 33 1) 1, tenancy := r.field 34 2, base := r.field 40 8,
          size := r.field 36 4 }
      let windows := if w.size = 0 then remove s.fabric.windows i else insert s.fabric.windows i w
      .ok { s with fabric := { s.fabric with windows := windows } } []) s

/-- LIFEREAD (R367): it clears nothing. -/
def execLiferead (r : HostRecord) (s : State) : Host.Outcome State Fault Refusal :=
  hostRecord 0x18 r (fun _ s =>
    if coreCount ≤ r.field 32 4 || r.field 36 4 ≠ 0 then .outOfRange
    else .ok s (lifeBytes (s.coreAt (r.field 32 4)))) s

/-- MAINT (R365): the core's window opens once it holds no block; its RESPONSE follows when the window closes. -/
def execMaint (r : HostRecord) (s : State) : Host.Outcome State Fault Refusal :=
  hostRecord 0x19 r (fun _ s =>
    if coreCount ≤ r.field 32 4 || r.field 36 4 ≠ 0 then .outOfRange
    else .later (s.modCore (r.field 32 4) fun k => { k with maint := k.maint ++ [r.hseq] })) s

/-- MAINT_WINDOW_CLOSE (R365): offset and floor are re-planned from the slowdown u, and the RESPONSE carries u, the code and the
floor, as the lifetime record lays them out. -/
def execMaintWindowClose (core ppm : Nat) (s : State) : Host.Outcome State Fault Refusal :=
  if coreCount ≤ core then .fault .outsideModule
  else
    let k := s.coreAt core
    match k.maint with
    | [] => .refused .notDue
    | hseq :: rest =>
      if !k.windowOpen || 2 ^ 32 ≤ ppm then .refused .notDue
      else
        let code := agedOffset ppm
        let floor := agedFloor k.gear.floor ppm
        let s := s.modCore core fun k =>
          { k with maint := rest, gear := { k.gear with offset := code, floor := floor }, life := { k.life with slow := ppm } }
        .next (sendResponse s 0x19 128 noPart hyperStream hseq (leBytes 4 ppm ++ leBytes 1 code ++ leBytes 2 floor ++ zeros 1))

/-! ### Security (R372, R373, R375) -/

/-- The default alarm level of a sensor: erase for the tamper mesh, halt for the rest (R375). -/
def defaultLevel (sensor : Nat) : Nat := if sensor = 0 then 2 else 1

/-- The alarm level of a sensor: 0 log, 1 halt, 2 erase. -/
def alarmLevel (s : State) (sensor : Nat) : Nat := findD s.boot.levels sensor (defaultLevel sensor)

/-- SECCFG (R375): levels only rise. -/
def execSeccfg (r : HostRecord) (s : State) : Host.Outcome State Fault Refusal :=
  hostRecord 0x1B r (fun _ s =>
    let asked (i : Nat) : Nat := r.field (32 + i) 1
    if r.field 36 4 ≠ 0 || (List.range 4).any (fun i => decide (2 < asked i) || decide (asked i < alarmLevel s i)) then .outOfRange
    else .ok { s with boot := { s.boot with levels := (List.range 4).foldl (fun m i => insert m i (asked i)) s.boot.levels } } []) s

/-- EXTEND (R372): while a response of signed measurements is being formed it waits (R373). -/
def execExtend (r : HostRecord) (s : State) : Host.Outcome State Fault Refusal :=
  hostRecord 0x1C r (fun _ s =>
    let i := r.field 32 4
    let digest := (r.bytes.drop 40).take 48
    if i < 5 || 7 < i || r.field 36 4 ≠ 0 then .outOfRange
    else if s.boot.forming.any fun x => signsMeasurements x.request then
      .later { s with boot := { s.boot with waiting := s.boot.waiting ++ [(r.hseq, i, digest)] } }
    else .ok { s with boot := extendMeas s.boot i digest } []) s

/-- SPDM (R373): one request at a time; one that arrives while another is in progress is answered Busy. -/
def execSpdm (r : HostRecord) (s : State) : Host.Outcome State Fault Refusal :=
  hostRecord 0x09 r (fun stream s =>
    if s.boot.forming.isSome then .ok s (spdmError spdmBusy 0) else .later (startExchange s r stream)) s

/-! ### Debug (R315 to R317) -/

/-- The place of a resident block of a launch. -/
def placeOf (s : State) (launch blklin : Nat) : Option (Nat × Nat) :=
  (s.blocks.find? fun (_, _, b) => b.launch = launch && b.blklin = blklin).map fun (c, n, _) => (c, n)

/-- The launch that a debug record names is its partition's. -/
def debugLaunch (s : State) (r : HostRecord) : Bool := (s.launchAt (r.field 32 4)).any fun l => l.partition = r.part

/-- The block indices of a DHALT or DRESUME. -/
def namedBlocks (r : HostRecord) : List Nat := (List.range (r.field 40 4)).map fun i => r.field (48 + 4 * i) 4

/-- A field of a DHALT or DRESUME outside its range; `top` is the greatest choice. -/
def badNames (r : HostRecord) (top : Nat) : Bool :=
  decide (top < r.field 36 1) || r.field 37 3 != 0 || r.field 40 4 = 0 || decide (32 < r.field 40 4) || r.field 44 4 != 0 ||
  ((r.bytes.drop (48 + 4 * r.field 40 4)).any (· ≠ 0))

/-- Halt a block, as HALTB does, and report it (R315); of a block that HALTB has halted, the wave that issued it stops as well. -/
def debugHalt (s : State) (core slot : Nat) : State :=
  match s.blockAt core slot with
  | none => s
  | some b =>
    if b.halted && b.exempt.isNone then s
    else
      let s := s.modBlock core slot fun b => { b with halted := true, exempt := none }
      sendHalted s b 0xFF 0 0 0

/-- DHALT (R315): every block it names must be resident. -/
def execDhalt (r : HostRecord) (s : State) : Host.Outcome State Fault Refusal :=
  hostRecord 0x20 r (fun _ s =>
    if badNames r 0 then .outOfRange
    else
      let places := (namedBlocks r).map (placeOf s (r.field 32 4))
      if !debugLaunch s r || places.any (·.isNone) then .absent
      else .ok ((places.filterMap id).foldl (fun s p => debugHalt s p.1 p.2) s) []) s

/-- DRESUME (R317): a block that is not resident, or not halted, is left as it is. -/
def execDresume (r : HostRecord) (s : State) : Host.Outcome State Fault Refusal :=
  hostRecord 0x23 r (fun _ s =>
    if badNames r 1 then .outOfRange
    else if !debugLaunch s r then .absent
    else .ok (((namedBlocks r).filterMap (placeOf s (r.field 32 4))).foldl
      (fun s p => resumeBlock s p.1 p.2 (r.field 36 1 = 1)) s) []) s

/-- A field of a DREAD or DWRITE outside its range. -/
def badImage (r : HostRecord) : Bool :=
  decide (2 < r.field 40 1) || (r.field 40 1 = 1 && r.field 41 1 ≠ 0) || decide (31 < r.field 41 1) || r.field 42 2 != 0 ||
  r.field 48 4 = 0 || decide (65480 < r.field 48 4) || r.field 52 4 != 0

/-- The halted block that a DREAD or DWRITE names: core, slot and block; the wave it names is there. -/
def haltedBlock (s : State) (r : HostRecord) : Option (Nat × Nat × Block) :=
  (placeOf s (r.field 32 4) (r.field 36 4)).bind fun (c, n) => (s.blockAt c n).bind fun b =>
    if b.halted && debugLaunch s r && (r.field 40 1 = 1 || (find b.threads (r.field 41 1)).isSome) then some (c, n, b) else none

/-- The image that a debug record names (R309, R310, R316), formed in place. -/
def imageOf (s : State) (r : HostRecord) (core slot : Nat) (b : Block) : List Byte :=
  let k := s.coreAt core
  match r.field 40 1, find b.threads (r.field 41 1) with
  | 1, _ => blockImage (s.launchOf b) b b.barMasks
  | 0, some th => waveImage k th
  | _, some th => trailerBytes k ⟨core, slot, r.field 41 1⟩ th
  | _, none => []

/-- DREAD (R316). -/
def execDread (r : HostRecord) (s : State) : Host.Outcome State Fault Refusal :=
  hostRecord 0x21 r (fun _ s =>
    if badImage r then .outOfRange
    else match haltedBlock s r with
      | none => .absent
      | some (c, n, b) =>
        let image := imageOf s r c n b
        if image.length < r.field 44 4 + r.field 48 4 then .outOfRange
        else .ok s ((image.drop (r.field 44 4)).take (r.field 48 4))) s

/-- DWRITE (R316): the bytes must all lie in fields that R316 lists; they take effect at resume. -/
def execDwrite (r : HostRecord) (s : State) : Host.Outcome State Fault Refusal :=
  hostRecord 0x22 r (fun _ s =>
    if badImage r || (r.bytes.drop (56 + r.field 48 4)).any (· ≠ 0) then .outOfRange
    else match haltedBlock s r with
      | none => .absent
      | some (c, n, b) =>
        let o := r.field 44 4
        let len := r.field 48 4
        if (List.range len).any fun i => !writable (s.launchOf b) (r.field 40 1) (o + i) then .outOfRange
        else .ok (s.modBlock c n fun b =>
          { b with edits := b.edits ++ [(r.field 40 1, r.field 41 1, o, (r.bytes.drop 56).take len)] }) []) s

/-- DARM (R162, R341). -/
def execDarm (r : HostRecord) (s : State) : Host.Outcome State Fault Refusal :=
  hostRecord 0x24 r (fun _ s =>
    if 1 < r.field 32 1 || r.field 33 7 ≠ 0 then .outOfRange
    else .ok (s.modPart r.part fun p => { p with armed := r.field 32 1 = 1 }) []) s

end Sys2Proof.Machine
end

