-- ==== Sys2Proof/Machine/Startup.lean ====
section
/-! DEFINITION. Power, module reset, the stages of measured boot, recovery and the security alarm (R367, R369 to R371, R375 to
R377). -/

namespace Sys2Proof.Machine
open Sys2Proof

/-! ### Reset and power (R343, R366, R367, R369) -/

/-- A core after module reset: its lifetime record, offset and floor are kept, and it is at the slowest allowed proof level. -/
def restartCore (life : Life) (offset floor : Nat) : Core :=
  let g : Gear := { freshGear with offset := offset, floor := floor }
  { freshCore with life := life, gear := { g with point := slowestProof g } }

/-- The management core, held in reset until stage 1 has ended (R369). -/
def Management.stopped (x : Management) : Management := { x with running := false }

/-- The module as a reset leaves it, before a stage: what it forgets is as `State.reset` has it. It keeps the fuses, the image
slots, the device keys, EPOCH, the lifetime records, and the bytes of memory with the keys they are under; every key it uses from
here on is new (R369, R374, R377). -/
def restarted (s : State) (stage : Nat) : State :=
  { State.reset with
    tick := s.tick
    born := s.tick
    seq := s.seq
    cores := s.cores.map fun (c, k) => (c, restartCore k.lifeNow k.gear.offset k.gear.floor)
    intervals := s.intervals
    mem := s.mem
    poison := s.poison
    memKey := s.memKey
    nextKey := s.nextKey + 1
    boot :=
      { State.reset.boot with
        stage := stage
        keyDigest := s.boot.keyDigest
        rollback := s.boot.rollback
        slotA := s.boot.slotA
        slotB := s.boot.slotB
        identity := s.boot.identity
        attest := s.boot.attest
        moduleKey := s.nextKey
        epoch := s.boot.epoch
        saved := s.boot.saved
        savedIntervals := s.boot.savedIntervals }
    management := s.management.stopped }

/-- MODULE_RESET (R343, R369): boot starts again at stage 1. -/
def execModuleReset (s : State) : Host.Outcome State Fault Refusal := event (s.boot.stage ≠ 0) (restarted s 1)

/-- POWER_LOSS (R367): memory is lost, and every count since the last hourly save. -/
def execPowerLoss (s : State) : Host.Outcome State Fault Refusal :=
  let t := restarted s 0
  event (s.boot.stage ≠ 0)
    { t with
      cores := s.boot.saved.map fun (c, life, offset, floor) => (c, restartCore life offset floor)
      intervals := s.boot.savedIntervals
      management := State.reset.management.stopped
      mem := []
      poison := []
      memKey := [] }

/-- POWER_ON (R369): 48 V input is there, and stage 1 ends with the management core released from reset. Where the rails do not come up,
the module stays unpowered, and this step does not come. -/
def execPowerOn (s : State) : Host.Outcome State Fault Refusal :=
  event (s.boot.stage ≤ 1)
    { s with boot := { s.boot with stage := 2 }, management := { State.reset.management with memory := s.management.memory } }

/-! ### Alarms (R375 to R377) -/

/-- An ALARM event: the sensor by its row in R375, 0xFF for the boot sequence itself; its level; and the time (log 7). -/
def sendAlarm (s : State) (sensor level time : Nat) : State :=
  sendEvent s hyperStream 0x8007 noPart noPart 0 (leBytes 1 sensor ++ leBytes 1 level ++ zeros 6 ++ leBytes 8 time)

/-- The device keys and every memory key are overwritten with zeros, and an SPDM response being formed is discarded (R376). -/
def eraseKeys (s : State) : State :=
  { s with
    partitions := s.partitions.map fun (n, p) => (n, { p with key := 0 })
    boot := { s.boot with identity := false, attest := false, moduleKey := 0, forming := none } }

/-- Act at a level; an alarm never lowers the state that another has made (R376). -/
def actAlarm (s : State) (level : Nat) : State :=
  if level = 0 then s
  else if level = 1 then
    if s.boot.alarm = .erased then s else { s with boot := { s.boot with alarm := .halted } }
  else
    let s := eraseKeys s
    { s with boot := { s.boot with alarm := .erased } }

/-- The row of a sensor in R375. -/
def sensorRow : Sensor → Nat
  | .tamper => 0 | .voltage => 1 | .clock => 2 | .temperature => 3

/-- SECURITY_ALARM (R376): once stage 1 has ended, each sensor's event in the order of R375; the highest level applies. -/
def execSecurityAlarm (sensors : List Sensor) (time : Nat) (s : State) : Host.Outcome State Fault Refusal :=
  let rows := (List.range 4).filter fun i => sensors.any fun x => sensorRow x = i
  event (1 < s.boot.stage && !rows.isEmpty)
    (actAlarm (rows.foldl (fun t i => sendAlarm t i (alarmLevel s i) time) s) ((rows.map (alarmLevel s)).foldl max 0))

/-! ### Images (R370) -/

/-- What verifying an image finds: the codes of R371 are 1 to 3. -/
inductive Verified where
  | good
  | bad (status : Nat)
  deriving DecidableEq, Repr

/-- Bytes of an image: its header and body. -/
def imageLength (bs : List Byte) : Nat := 256 + leAt bs 8 4

/-- The header of an image is as R370 says. -/
def headerOk (bs : List Byte) : Bool :=
  leAt bs 0 4 = 0x4E494B42 && leAt bs 8 4 % 64 = 0 && decide (leAt bs 8 4 ≤ 2 ^ 23) && decide (leAt bs 12 4 < leAt bs 8 4) &&
    ((bs.drop 208).take 48).all (· = 0) && decide (imageLength bs ≤ bs.length)

/-- Verify an image against the fuses (R370). -/
def verifyImage (b : Boot) (bs : List Byte) : Verified :=
  let key := (bs.drop 16).take 96
  let body := (bs.drop 256).take (leAt bs 8 4)
  if !headerOk bs then .bad 1
  else if sha384 key ≠ b.keyDigest || !ecdsaVerifies key (bs.take 112 ++ body) ((bs.drop 112).take 96) then .bad 2
  else if leAt bs 4 4 < b.rollback then .bad 3
  else .good

/-- An image runs: MEAS1 is extended with its digest, and the rollback count rises to its version (R370). -/
def runImage (b : Boot) (bs : List Byte) : Boot :=
  { extendMeas b 1 (sha384 (bs.take (imageLength bs))) with stage := 4, rollback := max b.rollback (leAt bs 4 4) }

/-! ### The stages (R369, R371) -/

/-- A boot stage is in progress and no alarm has halted the module. -/
def inStage (s : State) (stage : Nat) : Bool := s.boot.stage = stage && s.boot.alarm = .clear

/-- BOOT_ROM (R369): stage 2; a failed self-test is an alarm at level erase. -/
def execBootRom (selfTest : Bool) (s : State) : Host.Outcome State Fault Refusal :=
  event (inStage s 2)
    (if selfTest then { s with boot := { extendMeas { s.boot with meas := [] } 0 (sha384 Config.romImage) with stage := 3 } }
    else actAlarm (sendAlarm s 0xFF 2 s.tick) 2)

/-- BOOT_IMAGE_LOAD (R369 to R371): slot A, else slot B, else recovery. -/
def execBootImageLoad (s : State) : Host.Outcome State Fault Refusal :=
  let b := s.boot
  event (inStage s 3 && !b.recovery)
    (if verifyImage b b.slotA = .good then { s with boot := runImage b b.slotA }
    else if verifyImage b b.slotB = .good then { s with boot := runImage b b.slotB }
    else { s with boot := { b with recovery := true, recoveryStatus := 0 } })

/-- RECOVERY_IMAGE (R371): an image that verifies takes slot A, and boot restarts at stage 3. -/
def execRecoveryImage (image : List Byte) (s : State) : Host.Outcome State Fault Refusal :=
  let b := s.boot
  event (inStage s 3 && b.recovery)
    (match verifyImage b image with
    | .good => { s with boot := { b with recovery := false, recoveryStatus := 0, slotA := image } }
    | .bad status => { s with boot := { b with recoveryStatus := status } })

/-- RECOVERY_STATUS_READ (R371). -/
def execRecoveryStatusRead (s : State) : Host.Outcome State Fault Refusal :=
  event (inStage s 3 && s.boot.recovery) { s with boot := { s.boot with i3c := s.boot.i3c ++ [s.boot.recoveryStatus] } }

/-- The digest of the memory configuration that training finds (R369). -/
def memoryMeasured : List Byte := sha384 Config.memoryConfiguration

/-- The digest of the fuse and ageing state: each core's floor and offset code (R365, R369). -/
def fusesMeasured (s : State) : List Byte :=
  sha384 (Config.fuseState s.boot.keyDigest s.boot.rollback
    ((List.range coreCount).map fun c => ((s.coreAt c).gear.floor, (s.coreAt c).gear.offset)))

/-- BOOT_MEMORY_TRAIN (R369): stage 4, which measures the memory configuration and the fuse and ageing state, as they are; where training
fails, an ALARM event, and the module stays. -/
def execBootMemoryTrain (trained : Bool) (memoryDigest fuseDigest : List Byte) (s : State) :
    Host.Outcome State Fault Refusal :=
  if trained then
    event (inStage s 4 && decide (memoryDigest = memoryMeasured) && decide (fuseDigest = fusesMeasured s))
      { s with boot := { extendMeas (extendMeas s.boot 2 memoryDigest) 3 fuseDigest with stage := 5 } }
  else event (inStage s 4) (sendAlarm s 0xFF 0 s.tick)

/-- The cold-plate inlet temperature below which stage 5 ends, in °C (R369). -/
def coolantLimit : Nat := 45

/-- BOOT_COMPUTE_RAILS (R369, R321): each core starts empty at the slowest allowed proof level. -/
def execBootComputeRails (celsius : Nat) (s : State) : Host.Outcome State Fault Refusal :=
  event (inStage s 5 && celsius < coolantLimit)
    { s with
      cores := s.cores.map fun (c, k) => (c, { k with gear := { k.gear with point := slowestProof k.gear } })
      boot := { s.boot with stage := 6 } }

/-- BOOT_TEMP_ALARM (R369): stage 5 waits, and says so every second. -/
def execBootTempAlarm (celsius : Nat) (s : State) : Host.Outcome State Fault Refusal :=
  event (inStage s 5 && coolantLimit ≤ celsius) (sendAlarm s 0xFF 0 s.tick)

/-- BOOT_PORTS_UP (R369): EPOCH rises, and records are accepted from here on. -/
def execBootPortsUp (s : State) : Host.Outcome State Fault Refusal :=
  event (inStage s 6) { s with boot := { s.boot with stage := 7, epoch := (s.boot.epoch + 1) % 2 ^ 32 } }

end Sys2Proof.Machine
end

