-- ==== Sys2Proof/Machine/Waves.lean ====
section
/-! DEFINITION. YIELD and SLEEP, and the steps of the wave scheduler: exchange, promotion, wake-up, block deadlock and the end
of a wave (R149, R150, R156, R160, R161). -/

namespace Sys2Proof.Machine
open Sys2Proof

/-- Exchange a wave with the ready pending wave that has waited longest, if there is one. -/
def yieldWave (s : State) (core quad key : Nat) : State :=
  match pendingReady s core (findD (s.coreAt core).quads quad freshQuadrant) with
  | some into => s.modCore core fun k => k.modQuad quad fun q => if q.active.contains key then q.exchange key into else q
  | none => s

/-- YIELD (R161). -/
def execYield (s : State) : Host.Outcome State Fault Refusal :=
  perform .yield
    (fun c s => yieldWave (c.stepOn s) c.ref.core c.thread.quad (waveKey c.ref)) s

/-- SLEEP (R161): the slot stands at the next word and sleeps; SLEEP #0 is NOP. -/
def execSleep (i : BitVec 16) (s : State) : Host.Outcome State Fault Refusal :=
  perform (.sleep i) (fun c s =>
    let s := c.stepOn s
    if i = 0 then s
    else s.modSlot c.ref c.slot fun x =>
      if x.park.isSome || x.mask = 0 then x else { x with hold := .sleep i.toNat }) s

/-- SLEEP_EXPIRY (R161): a sleeping slot becomes ready. -/
def execSleepExpiry (t : ThreadRef) (slot : Bool) (s : State) : Host.Outcome State Fault Refusal :=
  event (((s.threadAt t).map fun th => asleep (th.paths.slot slot)).getD false)
    (s.modSlot t slot fun x => { x with hold := .free })

/-- The active wave that R149 exchanges: every live slot of it is held long-latency. -/
def exchangeOut (s : State) (core : Nat) (q : Quadrant) : Option Nat :=
  q.active.find? fun key =>
    let t := keyThread core key
    match s.blockAt core t.block, s.threadAt t with
    | some b, some th => allLongHeld s t b th
    | _, _ => false

/-- ACTIVE_SET_EXCHANGE (R149). -/
def execActiveSetExchange (core quad : Nat) (s : State) : Host.Outcome State Fault Refusal :=
  let k := s.coreAt core
  let q := findD k.quads quad freshQuadrant
  match exchangeOut s core q, pendingReady s core q with
  | some out, some into => .next (s.modCore core fun k => k.modQuad quad fun q => q.exchange out into)
  | _, _ => .refused .notDue

/-- The active wave that issued least recently, the lowest position first among those that never issued (R150). -/
def staleWave (q : Quadrant) : Option Nat :=
  match q.active.find? fun x => !q.recent.contains x with
  | some x => some x
  | none => (q.recent.filter q.active.contains).getLast?

/-- PENDING_PROMOTION (R150): the wave that has been ready longest. -/
def execPendingPromotion (core quad : Nat) (s : State) : Host.Outcome State Fault Refusal :=
  let k := s.coreAt core
  let q := findD k.quads quad freshQuadrant
  match staleWave q, readyLongest s core q with
  | some out, some into => .next (s.modCore core fun k => k.modQuad quad fun q => q.exchange out into)
  | _, _ => .refused .notDue

/-! ### Block deadlock (R156) -/

/-- Work in progress can still fill a ring of a block: a slot that a command has claimed, or a queued post. -/
def ringFed (s : State) (core block r : Nat) (b : Block) : Bool :=
  (b.threads.any fun (_, th) => th.posts.any fun x => x.ring = r) || ringClaimed s core block r

/-- RAWAIT on a ring that is empty. -/
def atEmptyRing (b : Block) (h : Hold) : Bool :=
  match h with
  | .rawait _ => heldFast b h
  | _ => false

/-- The block's CCP has exited, its commands completed (R221), or is itself at RAWAIT on an empty ring that nothing in progress fills. -/
def ccpIdle (s : State) (core block : Nat) (b : Block) : Bool :=
  match find b.threads ccpThread with
  | none => true
  | some th => (th.ended && th.outstanding.isEmpty) || match th.paths.slot0.hold with
    | .rawait r => atEmptyRing b (.rawait r) && !ringFed s core block r b
    | _ => false

/-- A live slot is held in a way that nothing pending releases. -/
def slotStuck (s : State) (core block : Nat) (b : Block) (th : Thread) (n : Bool) : Bool :=
  let x := th.paths.slot n
  x.park.isNone && match x.hold with
    | .bar _ | .latch => true
    | .rawait r => atEmptyRing b x.hold && !ringFed s core block r b && ccpIdle s core block b
    | _ => false

/-- A slot counts as stuck: held so, or at the join of one that is. -/
def slotDead (s : State) (core block : Nat) (b : Block) (th : Thread) (n : Bool) : Bool :=
  (th.paths.slot n).mask = 0 || slotStuck s core block b th n || (atJoin th.paths n && slotStuck s core block b th !n)

/-- Every wave of the block that has not exited is stuck, with no access or trap of its own under way, and none is evicted. -/
def deadlocked (s : State) (core block : Nat) (b : Block) : Bool :=
  !b.halted && b.out.isEmpty && !b.members.isEmpty &&
  b.members.all fun (_, th) =>
    th.evict = .here && th.faulted.isEmpty && (dueLog th).isEmpty && accessesDone th th.depth && th.late.isEmpty &&
      slotDead s core block b th false && slotDead s core block b th true

/-- The stuck slots of a wave take cause 0x09 at the words they are held at. -/
def parkStuck (s : State) (t : ThreadRef) : State :=
  [false, true].foldl (fun s n =>
    match s.threadAt t with
    | none => s
    | some th =>
      let x := th.paths.slot n
      if x.mask = 0 then s
      else
        let s := if x.hold = .latch then
            s.modCore t.core fun k => { k with arrivals := k.arrivals.filter fun a => a.member.thread ≠ t }
          else s
        { parkLanes s t n { cause := .deadlock, lanes := x.mask, pc := x.pc, seq := s.seq } x.mask x.pc with
          seq := s.seq + 1 }) s

/-- BLOCK_DEADLOCK (R156). -/
def execBlockDeadlock (core block : Nat) (s : State) : Host.Outcome State Fault Refusal :=
  match s.blockAt core block with
  | none => .refused .notDue
  | some b => event (deadlocked s core block b) (b.members.foldl (fun s (t, _) => parkStuck s ⟨core, block, t⟩) s)

/-- A wave ends with traps that it never took: its block is aborted for the first of them (R129, R351). -/
def abortLate (s : State) (t : ThreadRef) : State :=
  match (s.threadAt t).bind fun th => th.late.head? with
  | none => s
  | some x => abortBlock s t x.info.cause x.info.pc

/-- WAVE_END (R160): an ended wave with nothing in flight gives back its registers and place. -/
def execWaveEnd (t : ThreadRef) (s : State) : Host.Outcome State Fault Refusal :=
  event (((s.threadAt t).map (endDue s t)).getD false) (dropThread (abortLate s t) t)

end Sys2Proof.Machine
end

