-- ==== Sys2Proof/Machine/Traps.lean ====
section
/-! DEFINITION. The steps between a fault and its handler (R252 to R256), region restarts (R362), the ends of page walks (R170,
R172) and of the value store's computations (R71 to R73). -/

namespace Sys2Proof.Machine
open Sys2Proof

/-! ### Page faults (R254, R256) -/

/-- Put faulted accesses into the operand log, each under the lowest free number (R254). -/
def Thread.enterLog (th : Thread) : Thread :=
  { th with
    log := th.faulted.foldl (fun log e => log ++ [{ e with number := freeNumber log }]) th.log
    faulted := [] }

/-- PAGE_FAULT_LOG (R254). -/
def execPageFaultLog (t : ThreadRef) (s : State) : Host.Outcome State Fault Refusal :=
  event (((s.threadAt t).map fun th => !th.faulted.isEmpty).getD false) (s.modThread t Thread.enterLog)

/-- The oldest log entry that has a record still to enter the fault queue, with that record (R256). -/
def nextRecord (th : Thread) : Option (LogEntry × (Nat × Nat)) := th.log.findSome? fun e => e.unqueued.head?.map fun p => (e, p)

/-- FAULT_RECORD_ENQUEUE (R256). -/
def execFaultRecordEnqueue (t : ThreadRef) (s : State) : Host.Outcome State Fault Refusal :=
  match (s.threadAt t).bind nextRecord with
  | none => .refused .notDue
  | some (e, p) =>
    let (va, m) := e.record p
    let r : FaultRecord :=
      { block := t.block, thread := t.thread, va := va, kind := e.kind, number := e.number, lanes := m, depth := e.depth }
    event ((s.coreAt t.core).faultQ.length < 64)
      ((s.modCore t.core fun k => { k with faultQ := k.faultQ ++ [r] }).modThread t fun th =>
        { th with log := th.log.map fun x => if x.number = e.number then { x with queued := x.queued ++ [p] } else x })

/-! ### Traps (R253, R255) -/

/-- The trap of a thread that is due. -/
def dueOf (s : State) (t : ThreadRef) : Option Due :=
  match s.threadAt t, s.blockAt t.core t.block with
  | some th, some b => trapDue (s.coreAt t.core) b t th
  | _, _ => none

/-- TRAP_ENTRY (R253, R255): the trap that is due is entered; one reported late first parks its lanes. -/
def execTrapEntry (t : ThreadRef) (s : State) : Host.Outcome State Fault Refusal :=
  match dueOf s t with
  | none => .refused .notDue
  | some d => .next (takeDue s t d)

/-- The slot that has issued its 4,096 words beside a parked one (R253). -/
def overLimit (th : Thread) : Option Bool :=
  [false, true].find? fun n =>
    let x := th.paths.slot n
    x.mask ≠ 0 && x.park.isNone && !x.stopped && overCount th n

/-- TRAP_WAIT_LIMIT (R253). -/
def execTrapWaitLimit (t : ThreadRef) (s : State) : Host.Outcome State Fault Refusal :=
  match (s.threadAt t).bind overLimit with
  | none => .refused .notDue
  | some n => .next (s.modSlot t n fun x => { x with stopped := true })

/-! ### Regions (R362) -/

/-- The wave restarts after its RGN: STATE rises, and consumptions that the rerun will meet again are forgotten. -/
def Thread.restart (th : Thread) : Thread :=
  { th.modSlot false (fun x => { x with pc := (th.rgnpc &&& 0xFFFFFFFC) + 4, hold := .free }) with
    rgnpc := th.rgnpc + 1
    restarting := false
    late := th.late.filter fun x => !(x.depth = 0 && x.info.cause = .uncorrectable) }

/-- REGION_RESTART (R362): paths 0, 2, 3 and 5 are 0. -/
def execRegionRestart (t : ThreadRef) (s : State) : Host.Outcome State Fault Refusal :=
  event (((s.threadAt t).map (·.restarting)).getD false && [0, 2, 3, 5].all fun p => s.path t p = 0)
    ((cancelWalks s t).modThread t Thread.restart)

/-! ### Page walks (R170, R172, R175) -/

/-- A walk ends with a result: a valid leaf enters the TLBs; XLAT's register is written, with the copies of it that trap entries
saved meanwhile, unless a return or a newer XLAT has given it another base; or the word that waits will find it. -/
def endWalk (s : State) (core : Nat) (w : Walk) (r : WalkResult) : State :=
  let s := match r with
    | .leaf e => tlbFill s core e
    | _ => s
  match w.xlat with
  | none => s.modCore core fun k =>
      { k with walks := k.walks.map fun x => if x.id = w.id then { x with result := some r } else x }
  | some n =>
    let ends (x : TReg) : TReg := if x.busy && x.base = w.va then x.walked w.limit r else x
    (s.modCore core fun k => { k with walks := k.walks.filter fun x => x.id ≠ w.id }).modThread w.thread fun th =>
      { th with
        tregs := put freshTReg th.tregs n (ends (th.treg n))
        saved := th.saved.map fun v =>
          if n = 6 then { v with t6 := ends v.t6 } else if n = 7 then { v with t7 := ends v.t7 } else v }

/-- The walk of a core with a number, while it has not ended. -/
def walkOpen (s : State) (core walk : Nat) : Option Walk :=
  (s.coreAt core).walks.find? fun w => w.id = walk && w.result.isNone

/-- PAGE_WALK_COMPLETE (R172). -/
def execPageWalkComplete (core walk : Nat) (s : State) : Host.Outcome State Fault Refusal :=
  match walkOpen s core walk with
  | none => .refused .notDue
  | some w => .next (endWalk s core w (walkPages s (partOf s w.thread) w.va))

/-! ### The value store's computations (R71 to R73) -/

/-- The constants that an LDK leaf reads: those of the launch in its key (R67, R93). -/
def entryConstant (s : State) (x : Entry) (k : Nat) : Nat :=
  ((s.launchAt (x.key.getD 2 0)).map fun l => (findD l.consts k 0).toNat).getD 0

/-- The lanes of an entry's computation with their flags. -/
def entryResults (s : State) (core : Nat) (x : Entry) (p : Pending) : Results :=
  ((resultsOf p.word (argsOfTags (s.coreAt core) p.word p.mode x.sources (entryConstant s x))).getD []).map fun r =>
    (r.1, (if p.odd then r.2.1 / 2 ^ 32 else r.2.1) % 2 ^ 32, r.2.2)

/-- The computed value reaches a register that was bound to an abandoned entry, which becomes private (R71, R72). Lane 0 where the
check fails, and the lanes lost, keep their old contents. -/
def formPrivately (s : State) (e : Nat) (w : Waiter) (rs : Results) (fails : Bool) (lost : Word) : State :=
  let rs : Results := rs.filter fun r => !(fails && r.1 = 0) && !hasLane lost r.1
  let k := s.coreAt w.thread.core
  s.modThread w.thread fun th =>
    if find th.bound w.reg = some e then
      let th := ({ th with bound := remove th.bound w.reg }).writeVector k w.reg (List.map (fun (r : Nat × Nat × Flags) => (r.1, r.2.1)) rs) 0
      if w.owes then th.orFlags (rs.foldl (fun f r => f ||| r.2.2) 0) else th
    else if w.owes then th.orFlags (rs.foldl (fun f r => f ||| r.2.2) 0) else th

/-- The trap of a failed check of an entry's computation, in a wave that bound to it (R71, R358). -/
def publishTrap (s : State) (p : Pending) (w : Waiter) : LateTrap :=
  let unit := unitOf p.word (tyOf p.mode)
  { info :=
      { cause := .pipeline, lanes := laneBit 0,
        synd := BitVec.ofNat 32 (quadOf s w.thread * 64 + (if unit = 3 || unit = 7 then 32 else 0)),
        unit := BitVec.ofNat 32 unit, pc := w.pc, seq := w.seq }
    depth := w.depth
    atNext := false }

/-- An instruction bound to a computation consumes the poison that reached it (R283, R359): lanes that it already reports are left
out, and MOV carries poison. -/
def consumeLate (s : State) (w : Waiter) (eaten : Word) : State :=
  match s.threadAt w.thread with
  | none => s
  | some th =>
    let m := th.late.foldl (fun m x => m &&& ~~~x.info.lanes) eaten
    if m = 0 || !w.owes then s
    else raiseLate s w.thread
      { info := { cause := .uncorrectable, lanes := m, pc := w.pc, seq := w.seq }, depth := w.depth, atNext := false }

/-- A wave that bound to an abandoned entry forms the value itself; its own armed check may fail in turn (R71). -/
def reform (s : State) (e : Nat) (p : Pending) (rs : Results) (lost eaten : Word) (w : Waiter) : State :=
  let unit := unitOf p.word (tyOf p.mode)
  match s.threadAt w.thread with
  | none => s
  | some th =>
    let fails := unit != 0 && th.armed unit
    let s := consumeLate (formPrivately s e w rs fails lost) w eaten
    if fails then
      raiseLate (countCheck (s.modThread w.thread fun th => th.disarm (.residue unit)) w.thread.core .pipeline) w.thread
        (publishTrap s p w)
    else s

/-- The other half of a 64-bit result is still to fail: the trap comes with it. -/
def twinFails (k : Core) (e : Nat) (p : Pending) : Bool :=
  k.entries.any fun (n, x) => n ≠ e && x.state == .pending &&
    (x.comp.map fun q => q.fails && q.producer = p.producer && q.seq = p.seq).getD false

/-- A computation that is not published: its entry is abandoned. Where its check fails its producer traps (R71); where poison
reached it through an abandoned LDGK, each instruction bound to it consumes that (R283). -/
def abandonEntry (s : State) (core e : Nat) (x : Entry) (p : Pending) : State :=
  let rs := entryResults s core x p
  let k := s.coreAt core
  let lost := x.lostFrom k p (fun _ => true) (entryConstant s x)
  let eaten := x.lostFrom k p keyedByLoad (entryConstant s x)
  let s := s.setCore core (k.abandon e (lanes.map fun l => BitVec.ofNat 32 (((rs.find? fun r => r.1 = l).map (·.2.1)).getD 0))
    lost (x.spoilt k))
  let isMine (w : Waiter) : Bool := p.fails && w.thread = p.producer && w.seq = p.seq
  let s := (p.waiters.filter isMine).foldl (fun s w =>
    let s := consumeLate (formPrivately s e w rs true lost) w (eaten &&& ~~~(laneBit 0))
    if twinFails k e p then s else raiseLate (countCheck s core .pipeline) w.thread (publishTrap s p w)) s
  (p.waiters.filter fun w => !isMine w).foldl (fun s w => reform s e p rs lost eaten w) s

/-- A computation meets a source that an error or VSFLUSH has killed: every instruction bound to its entry reads that source too, and takes
cause 0x0E; no register gets a value (R76, log 106). -/
def deadSource (s : State) (core e : Nat) (p : Pending) : State :=
  let s := s.modCore core fun k => k.abandon e [] (BitVec.allOnes 32) true
  p.waiters.foldl (fun s w =>
    raiseLate (formPrivately s e { w with owes := false } [] false (BitVec.allOnes 32)) w.thread
      { info := { cause := .storePoison, lanes := BitVec.allOnes 32, pc := w.pc, seq := w.seq }, depth := w.depth
        atNext := false }) s

/-- An entry whose computation can end now: pending, no LDGK leaf, and its sources published. -/
def publishDue (s : State) (core e : Nat) : Option (Entry × Pending) :=
  let k := s.coreAt core
  match find k.entries e with
  | none => none
  | some x => match x.comp with
    | none => none
    | some p =>
      let loads := match p.word with
        | .ldgk .. => true
        | _ => false
      if x.state == .pending && !loads && sourcesReady k x then some (x, p) else none

/-- An entry whose bytes an error can be found in: published, or DEAD with registers bound to it (R280, R282). -/
def errorDue (s : State) (core e : Nat) : Bool :=
  ((find (s.coreAt core).entries e).map fun x => x.state != .pending).getD false

/-- VALUE_PUBLISH (R71, R73): every instruction bound to the entry gets its flags. With an error other than clean, it is then
found in the entry's bytes; of an entry published before, the error alone (R280, R283, log 45). -/
def execValuePublish (core : Nat) (entry : EntryRead) (s : State) : Host.Outcome State Fault Refusal :=
  let e := entry.entry
  match publishDue s core e with
  | none =>
    if entry.ecc != .clean && errorDue s core e then
      .next (s.modCore core fun k => k.entryError k e entry.ecc)
    else .refused .notDue
  | some (x, p) =>
    let k := s.coreAt core
    if p.dead then .next (deadSource s core e p)
    else if p.fails || x.spoilt k then .next (abandonEntry s core e x p)
    else
      let (bytes, f) := computeEntry k x p (entryConstant s x)
      let s := s.setCore core ((publish k e bytes f s.tick).entryError k e entry.ecc)
      .next (p.waiters.foldl (fun s w => if w.owes then s.orFlags w.thread f else s) s)

end Sys2Proof.Machine
end

