-- ==== Sys2Proof/Machine/Dispatch.lean ====
section
/-! DEFINITION. The one dispatch: every instruction of the opcode table to its meaning. -/

namespace Sys2Proof.Machine
open Sys2Proof

/-- The meaning of each instruction. -/
def exec (i : Instr) (s : State) : Host.Outcome State Fault Refusal :=
  match i with
  | .nop => Sys2Proof.Machine.execNop s
  | .bra o => Sys2Proof.Machine.execBra o s
  | .brp p n o => Sys2Proof.Machine.execBrp p n o s
  | .joinat o => Sys2Proof.Machine.execJoinat o s
  | .call o => Sys2Proof.Machine.execCall o s
  | .callx a => Sys2Proof.Machine.execCallx a s
  | .ret => Sys2Proof.Machine.execRet s
  | .exit => Sys2Proof.Machine.execExit s
  | .loop d xi => Sys2Proof.Machine.execLoop d xi s
  | .brx a => Sys2Proof.Machine.execBrx a s
  | .yield => Sys2Proof.Machine.execYield s
  | .sleep xi => Sys2Proof.Machine.execSleep xi s
  | .bkpt xi => Sys2Proof.Machine.execBkpt xi s
  | .trap xi => Sys2Proof.Machine.execTrap xi s
  | .illegalInstruction w => Sys2Proof.Machine.execIllegalInstruction w s
  | .iadd d a b => Sys2Proof.Machine.execIadd d a b s
  | .isub d a b => Sys2Proof.Machine.execIsub d a b s
  | .imul d a b => Sys2Proof.Machine.execImul d a b s
  | .imulh d a b => Sys2Proof.Machine.execImulh d a b s
  | .imad d a b => Sys2Proof.Machine.execImad d a b s
  | .imin d a b => Sys2Proof.Machine.execImin d a b s
  | .imax d a b => Sys2Proof.Machine.execImax d a b s
  | .iabs d a => Sys2Proof.Machine.execIabs d a s
  | .ineg d a => Sys2Proof.Machine.execIneg d a s
  | .iaddi d xi => Sys2Proof.Machine.execIaddi d xi s
  | .movi d xi => Sys2Proof.Machine.execMovi d xi s
  | .movhi d xi => Sys2Proof.Machine.execMovhi d xi s
  | .and d a b => Sys2Proof.Machine.execAnd d a b s
  | .or d a b => Sys2Proof.Machine.execOr d a b s
  | .xor d a b => Sys2Proof.Machine.execXor d a b s
  | .not d a => Sys2Proof.Machine.execNot d a s
  | .shl d a b => Sys2Proof.Machine.execShl d a b s
  | .shr d a b => Sys2Proof.Machine.execShr d a b s
  | .sar d a b => Sys2Proof.Machine.execSar d a b s
  | .rol d a b => Sys2Proof.Machine.execRol d a b s
  | .popc d a => Sys2Proof.Machine.execPopc d a s
  | .clz d a => Sys2Proof.Machine.execClz d a s
  | .brev d a => Sys2Proof.Machine.execBrev d a s
  | .bfe d a b => Sys2Proof.Machine.execBfe d a b s
  | .bfi d a b => Sys2Proof.Machine.execBfi d a b s
  | .prmt d a b => Sys2Proof.Machine.execPrmt d a b s
  | .fadd d a b => Sys2Proof.Machine.execFadd d a b s
  | .fsub d a b => Sys2Proof.Machine.execFsub d a b s
  | .fmul d a b => Sys2Proof.Machine.execFmul d a b s
  | .fma d a b => Sys2Proof.Machine.execFma d a b s
  | .fmin d a b => Sys2Proof.Machine.execFmin d a b s
  | .fmax d a b => Sys2Proof.Machine.execFmax d a b s
  | .fabs d a => Sys2Proof.Machine.execFabs d a s
  | .fneg d a => Sys2Proof.Machine.execFneg d a s
  | .rcp d a => Sys2Proof.Machine.execRcp d a s
  | .rsq d a => Sys2Proof.Machine.execRsq d a s
  | .sqrt d a => Sys2Proof.Machine.execSqrt d a s
  | .ex2 d a => Sys2Proof.Machine.execEx2 d a s
  | .lg2 d a => Sys2Proof.Machine.execLg2 d a s
  | .sin d a => Sys2Proof.Machine.execSin d a s
  | .cos d a => Sys2Proof.Machine.execCos d a s
  | .frnd d a => Sys2Proof.Machine.execFrnd d a s
  | .cvt d a t => Sys2Proof.Machine.execCvt d a t s
  | .cmp c p a b => Sys2Proof.Machine.execCmp c p a b s
  | .sel d a b => Sys2Proof.Machine.execSel d a b s
  | .pk2 d a b => Sys2Proof.Machine.execPk2 d a b s
  | .pk4 d a b => Sys2Proof.Machine.execPk4 d a b s
  | .upk d a p => Sys2Proof.Machine.execUpk d a p s
  | .bscl d a b => Sys2Proof.Machine.execBscl d a b s
  | .shfl d a b => Sys2Proof.Machine.execShfl d a b s
  | .shflu d a b => Sys2Proof.Machine.execShflu d a b s
  | .shfld d a b => Sys2Proof.Machine.execShfld d a b s
  | .shflx d a b => Sys2Proof.Machine.execShflx d a b s
  | .rdlane d a b => Sys2Proof.Machine.execRdlane d a b s
  | .wrlane d a b => Sys2Proof.Machine.execWrlane d a b s
  | .vote d p k => Sys2Proof.Machine.execVote d p k s
  | .redadd d a => Sys2Proof.Machine.execRedadd d a s
  | .redmin d a => Sys2Proof.Machine.execRedmin d a s
  | .redmax d a => Sys2Proof.Machine.execRedmax d a s
  | .scan d a x o => Sys2Proof.Machine.execScan d a x o s
  | .pmovToScalar d p => Sys2Proof.Machine.execPmovToScalar d p s
  | .pmovToPredicate p a => Sys2Proof.Machine.execPmovToPredicate p a s
  | .mov d a => Sys2Proof.Machine.execMov d a s
  | .liw d literal => Sys2Proof.Machine.execLiw d literal s
  | .ldk d xi => Sys2Proof.Machine.execLdk d xi s
  | .mode xi => Sys2Proof.Machine.execMode xi s
  | .setf a => Sys2Proof.Machine.execSetf a s
  | .mfs d xi => Sys2Proof.Machine.execMfs d xi s
  | .mts d xi => Sys2Proof.Machine.execMts d xi s
  | .tagof d a => Sys2Proof.Machine.execTagof d a s
  | .vsdrop d => Sys2Proof.Machine.execVsdrop d s
  | .xlat t a b => Sys2Proof.Machine.execXlat t a b s
  | .graise d a => Sys2Proof.Machine.execGraise d a s
  | .phase xi => Sys2Proof.Machine.execPhase xi s
  | .gear d a => Sys2Proof.Machine.execGear d a s
  | .rgn => Sys2Proof.Machine.execRgn s
  | .rgnend => Sys2Proof.Machine.execRgnend s
  | .ldg d o x w h => Sys2Proof.Machine.execLdg d o x w h s
  | .stg d o x w h => Sys2Proof.Machine.execStg d o x w h s
  | .ldgk d o x w h => Sys2Proof.Machine.execLdgk d o x w h s
  | .lds d o w => Sys2Proof.Machine.execLds d o w s
  | .sts d o w => Sys2Proof.Machine.execSts d o w s
  | .ldb d o x w => Sys2Proof.Machine.execLdb d o x w s
  | .stb d o x w => Sys2Proof.Machine.execStb d o x w s
  | .prf o x h => Sys2Proof.Machine.execPrf o x h s
  | .atomg d o x w h => Sys2Proof.Machine.execAtomg d o x w h s
  | .atomg64 d o x w h => Sys2Proof.Machine.execAtomg64 d o x w h s
  | .casg d o x h => Sys2Proof.Machine.execCasg d o x h s
  | .atoms d o w => Sys2Proof.Machine.execAtoms d o w s
  | .cass d o => Sys2Proof.Machine.execCass d o s
  | .fence p xs c => Sys2Proof.Machine.execFence p xs c s
  | .bar n => Sys2Proof.Machine.execBar n s
  | .arrive d n => Sys2Proof.Machine.execArrive d n s
  | .waitb n a => Sys2Proof.Machine.execWaitb n a s
  | .testb d a n => Sys2Proof.Machine.execTestb d a n s
  | .waitc p a => Sys2Proof.Machine.execWaitc p a s
  | .gang a => Sys2Proof.Machine.execGang a s
  | .rawait d n => Sys2Proof.Machine.execRawait d n s
  | .rrel n => Sys2Proof.Machine.execRrel n s
  | .rpost a n => Sys2Proof.Machine.execRpost a n s
  | .rinit n a => Sys2Proof.Machine.execRinit n a s
  | .mma a => Sys2Proof.Machine.execMma a s
  | .mmaz a => Sys2Proof.Machine.execMmaz a s
  | .mmas a => Sys2Proof.Machine.execMmas a s
  | .epi a => Sys2Proof.Machine.execEpi a s
  | .rowsum a => Sys2Proof.Machine.execRowsum a s
  | .cmpr a => Sys2Proof.Machine.execCmpr a s
  | .cbld a => Sys2Proof.Machine.execCbld a s
  | .qacc a => Sys2Proof.Machine.execQacc a s
  | .clrt a => Sys2Proof.Machine.execClrt a s
  | .mtrn a => Sys2Proof.Machine.execMtrn a s
  | .ldef a l => Sys2Proof.Machine.execLdef a l s
  | .lpush a l => Sys2Proof.Machine.execLpush a l s
  | .lread a l => Sys2Proof.Machine.execLread a l s
  | .lrung d a l => Sys2Proof.Machine.execLrung d a l s
  | .lsetr a l => Sys2Proof.Machine.execLsetr a l s
  | .lstep d l => Sys2Proof.Machine.execLstep d l s
  | .lstepw a l => Sys2Proof.Machine.execLstepw a l s
  | .lclr l => Sys2Proof.Machine.execLclr l s
  | .cpy d a f => Sys2Proof.Machine.execCpy d a f s
  | .cpy2 d a f => Sys2Proof.Machine.execCpy2 d a f s
  | .cpyx d a f => Sys2Proof.Machine.execCpyx d a f s
  | .cpym d a f => Sys2Proof.Machine.execCpym d a f s
  | .cpye d a f => Sys2Proof.Machine.execCpye d a f s
  | .cpyg d a f => Sys2Proof.Machine.execCpyg d a f s
  | .redx d a f => Sys2Proof.Machine.execRedx d a f s
  | .cwait d a => Sys2Proof.Machine.execCwait d a s
  | .cstat d a => Sys2Proof.Machine.execCstat d a s
  | .ccan a => Sys2Proof.Machine.execCcan a s
  | .rfill a => Sys2Proof.Machine.execRfill a s
  | .rft => Sys2Proof.Machine.execRft s
  | .fltq d => Sys2Proof.Machine.execFltq d s
  | .mapft d a => Sys2Proof.Machine.execMapft d a s
  | .replay => Sys2Proof.Machine.execReplay s
  | .cancel a => Sys2Proof.Machine.execCancel a s
  | .haltb a => Sys2Proof.Machine.execHaltb a s
  | .drain => Sys2Proof.Machine.execDrain s
  | .tlbinv a b => Sys2Proof.Machine.execTlbinv a b s
  | .mfsv d xi => Sys2Proof.Machine.execMfsv d xi s
  | .mtsv d xi => Sys2Proof.Machine.execMtsv d xi s
  | .errinj a => Sys2Proof.Machine.execErrinj a s
  | .vsflush => Sys2Proof.Machine.execVsflush s
  | .resumeb a => Sys2Proof.Machine.execResumeb a s
  | .valuePublish core entry => Sys2Proof.Machine.execValuePublish core entry s
  | .activeSetExchange core quad => Sys2Proof.Machine.execActiveSetExchange core quad s
  | .pendingPromotion core quad => Sys2Proof.Machine.execPendingPromotion core quad s
  | .joinMerge t => Sys2Proof.Machine.execJoinMerge t s
  | .sleepExpiry t slot => Sys2Proof.Machine.execSleepExpiry t slot s
  | .blockDeadlock core block => Sys2Proof.Machine.execBlockDeadlock core block s
  | .loadComplete t ecc => Sys2Proof.Machine.execLoadComplete t ecc s
  | .storePerformed t => Sys2Proof.Machine.execStorePerformed t s
  | .atomicComplete t ecc => Sys2Proof.Machine.execAtomicComplete t ecc s
  | .postWrite t => Sys2Proof.Machine.execPostWrite t s
  | .matrixComplete core => Sys2Proof.Machine.execMatrixComplete core s
  | .ladderComplete core => Sys2Proof.Machine.execLadderComplete core s
  | .operandsConsumed core block ring => Sys2Proof.Machine.execOperandsConsumed core block ring s
  | .copyComplete core block cmd => Sys2Proof.Machine.execCopyComplete core block cmd s
  | .copyStop core block cmd fabric => Sys2Proof.Machine.execCopyStop core block cmd fabric s
  | .pageFaultLog t => Sys2Proof.Machine.execPageFaultLog t s
  | .faultRecordEnqueue t => Sys2Proof.Machine.execFaultRecordEnqueue t s
  | .trapEntry t => Sys2Proof.Machine.execTrapEntry t s
  | .trapWaitLimit t => Sys2Proof.Machine.execTrapWaitLimit t s
  | .regionRestart t => Sys2Proof.Machine.execRegionRestart t s
  | .waveEnd t => Sys2Proof.Machine.execWaveEnd t s
  | .constantSnapshot launch => Sys2Proof.Machine.execConstantSnapshot launch s
  | .blockPlacement launch core => Sys2Proof.Machine.execBlockPlacement launch core s
  | .launchRetire launch => Sys2Proof.Machine.execLaunchRetire launch s
  | .tokenCharge => Sys2Proof.Machine.execTokenCharge s
  | .tokenRefill => Sys2Proof.Machine.execTokenRefill s
  | .timeSliceExpiry core block => Sys2Proof.Machine.execTimeSliceExpiry core block s
  | .waveEviction launch core => Sys2Proof.Machine.execWaveEviction launch core s
  | .evictionAbandon t => Sys2Proof.Machine.execEvictionAbandon t s
  | .blockEviction core block => Sys2Proof.Machine.execBlockEviction core block s
  | .restore partition core => Sys2Proof.Machine.execRestore partition core s
  | .migration core block target => Sys2Proof.Machine.execMigration core block target s
  | .powerInterval samples points => Sys2Proof.Machine.execPowerInterval samples points s
  | .gearShiftStart core => Sys2Proof.Machine.execGearShiftStart core s
  | .gearShiftEnd core => Sys2Proof.Machine.execGearShiftEnd core s
  | .autoProof core => Sys2Proof.Machine.execAutoProof core s
  | .thermalLimit core celsius => Sys2Proof.Machine.execThermalLimit core celsius s
  | .rackcapLeaseExpiry => Sys2Proof.Machine.execRackcapLeaseExpiry s
  | .launch r => Sys2Proof.Machine.execLaunch r s
  | .mbasinCancel r => Sys2Proof.Machine.execMbasinCancel r s
  | .ctrread r => Sys2Proof.Machine.execCtrread r s
  | .ctrwrite r => Sys2Proof.Machine.execCtrwrite r s
  | .sealSegment r => Sys2Proof.Machine.execSealSegment r s
  | .unsealSegment r => Sys2Proof.Machine.execUnsealSegment r s
  | .statsread r => Sys2Proof.Machine.execStatsread r s
  | .redgrp r => Sys2Proof.Machine.execRedgrp r s
  | .spdm r => Sys2Proof.Machine.execSpdm r s
  | .partcfg r => Sys2Proof.Machine.execPartcfg r s
  | .railmap r => Sys2Proof.Machine.execRailmap r s
  | .budget r => Sys2Proof.Machine.execBudget r s
  | .ctxarea r => Sys2Proof.Machine.execCtxarea r s
  | .rackcap r => Sys2Proof.Machine.execRackcap r s
  | .modid r => Sys2Proof.Machine.execModid r s
  | .route r => Sys2Proof.Machine.execRoute r s
  | .window r => Sys2Proof.Machine.execWindow r s
  | .liferead r => Sys2Proof.Machine.execLiferead r s
  | .maint r => Sys2Proof.Machine.execMaint r s
  | .maintWindowClose core ppm => Sys2Proof.Machine.execMaintWindowClose core ppm s
  | .seccfg r => Sys2Proof.Machine.execSeccfg r s
  | .extend r => Sys2Proof.Machine.execExtend r s
  | .dhalt r => Sys2Proof.Machine.execDhalt r s
  | .dread r => Sys2Proof.Machine.execDread r s
  | .dwrite r => Sys2Proof.Machine.execDwrite r s
  | .dresume r => Sys2Proof.Machine.execDresume r s
  | .darm r => Sys2Proof.Machine.execDarm r s
  | .sync r => Sys2Proof.Machine.execSync r s
  | .unknownRecord r => Sys2Proof.Machine.execUnknownRecord r s
  | .rmaPut job secured va bytes => Sys2Proof.Machine.execRmaPut job secured va bytes s
  | .rmaGet job secured va length => Sys2Proof.Machine.execRmaGet job secured va length s
  | .flitNak port header => Sys2Proof.Machine.execFlitNak port header s
  | .flitAck port header => Sys2Proof.Machine.execFlitAck port header s
  | .linkDown port => Sys2Proof.Machine.execLinkDown port s
  | .remoteRequest via m => Sys2Proof.Machine.execRemoteRequest via m s
  | .remoteResponse via r => Sys2Proof.Machine.execRemoteResponse via r s
  | .remoteTimeout home number => Sys2Proof.Machine.execRemoteTimeout home number s
  | .reductionContribution c => Sys2Proof.Machine.execReductionContribution c s
  | .reductionResult r => Sys2Proof.Machine.execReductionResult r s
  | .lifetimeSave => Sys2Proof.Machine.execLifetimeSave s
  | .powerOn => Sys2Proof.Machine.execPowerOn s
  | .moduleReset => Sys2Proof.Machine.execModuleReset s
  | .bootRom selfTest => Sys2Proof.Machine.execBootRom selfTest s
  | .bootImageLoad => Sys2Proof.Machine.execBootImageLoad s
  | .bootMemoryTrain trained memoryDigest fuseDigest => Sys2Proof.Machine.execBootMemoryTrain trained memoryDigest fuseDigest s
  | .bootComputeRails celsius => Sys2Proof.Machine.execBootComputeRails celsius s
  | .bootTempAlarm celsius => Sys2Proof.Machine.execBootTempAlarm celsius s
  | .bootPortsUp => Sys2Proof.Machine.execBootPortsUp s
  | .recoveryImage image => Sys2Proof.Machine.execRecoveryImage image s
  | .recoveryStatusRead => Sys2Proof.Machine.execRecoveryStatusRead s
  | .securityAlarm sensors time => Sys2Proof.Machine.execSecurityAlarm sensors time s
  | .pageWalkComplete core walk => Sys2Proof.Machine.execPageWalkComplete core walk s
  | .uncorrectableCodeword port => Sys2Proof.Machine.execUncorrectableCodeword port s
  | .linkTrainingComplete port => Sys2Proof.Machine.execLinkTrainingComplete port s
  | .powerLoss => Sys2Proof.Machine.execPowerLoss s
  | .ldoDroop core => Sys2Proof.Machine.execLdoDroop core s
  | .droppedPacket port p => Sys2Proof.Machine.execDroppedPacket port p s

end Sys2Proof.Machine
end

