-- ==== Sys2Proof/Machine/Schedule.lean ====
section
/-! DEFINITION. What happens next: the steps the module takes by itself, in an order the spec allows (log 1, 6, 7), and the issue of
the next word (R148, R219). -/

namespace Sys2Proof.Machine
open Sys2Proof

/-! ### What a step completes -/

/-- What becomes due with any step, in the same cycle: barrier phases and latch traps (R131, R205, R206), the end of auto-proof
(R325), rails (R341), messages that can be sent now (R182, R336, R346), and the security block's work (R373). -/
def settleAll (s : State) : State :=
  let s := settle s
  let s := s.cores.foldl (fun s (c, _) => settleRails (settleAuto s c) c) s
  settleSecurity (settleReady (settleWork (settleResend s)))

/-- The end of a step. -/
def close (s : State) : State := { settleAll s with tick := s.tick + 1 }

/-- Run a step that is not the issue of a word. -/
def takeStep (i : Instr) (s : State) : Host.Outcome State Fault Refusal :=
  match exec i s with
  | .next t => .next (close t)
  | .fault f => .fault f
  | .refused r => .refused r

/-- Nothing happens: time passes, and with it the security block's work. -/
def idle (s : State) : State :=
  let s := settleSecurity s
  { s with tick := s.tick + 1, phase := true }

/-- The step can be taken now. -/
def goes (s : State) (i : Instr) : Bool :=
  match exec i s with
  | .next _ => true
  | _ => false

/-! ### Steps that come before any other -/

/-- Steps that follow at once from the one before: a page fault's log entries and records, trap entries, joins, ends of waves
(R152, R160, R253 to R256), and the return from auto-proof (R325). -/
def promptSteps (s : State) : List Instr :=
  flatten (s.threads.map fun (t, _) =>
    [.pageFaultLog t, .faultRecordEnqueue t, .trapEntry t, .joinMerge t, .waveEnd t]) ++
  s.cores.filterMap fun (c, k) => if k.gear.returning then some (.gearShiftStart c) else none

/-- The first of them that is due. -/
def promptStep (s : State) : Option Instr := (promptSteps s).find? (goes s)

/-! ### Steps of the units, beside the words -/

/-- What a thread may have under way. -/
def threadSteps (t : ThreadRef) (th : Thread) : List Instr :=
  (if th.loads.isEmpty then [] else [.loadComplete t .clean]) ++
  (if th.stores.isEmpty then [] else [.storePerformed t, .atomicComplete t .clean]) ++
  (if th.posts.isEmpty then [] else [.postWrite t]) ++
  (if th.restarting then [.regionRestart t] else []) ++
  [.trapWaitLimit t, .sleepExpiry t false, .sleepExpiry t true] ++
  flatten (th.cmds.map fun x =>
    if x.status.isSome then []
    else [.copyComplete t.core t.block x.seq, .copyStop t.core t.block x.seq false, .copyStop t.core t.block x.seq true])

/-- What a block may have under way. -/
def blockSteps (core block : Nat) (b : Block) : List Instr :=
  (b.rings.map fun (r, _) => .operandsConsumed core block r) ++
  [.blockDeadlock core block, .blockEviction core block] ++
  (match b.leaving with
    | some (some target) => [.migration core block target]
    | _ => [])

/-- What a core may have under way. -/
def coreSteps (core : Nat) (k : Core) : List Instr :=
  [.matrixComplete core, .ladderComplete core] ++
  (k.walks.map fun w => .pageWalkComplete core w.id) ++
  (k.entries.filterMap fun (e, x) => if x.state == .pending then some (.valuePublish core ⟨e, .clean⟩) else none) ++
  [.gearShiftStart core, .gearShiftEnd core, .autoProof core, .waveEviction 0 core] ++
  flatten ((List.range 4).map fun q => [.activeSetExchange core q, .pendingPromotion core q])

/-- The first core on which a step of a launch goes. -/
def firstCore (s : State) (i : Nat → Instr) : List Instr := (((List.range coreCount).map i).find? (goes s)).toList

/-- What launches and partitions wait for. -/
def launchSteps (s : State) : List Instr :=
  flatten (s.launches.map fun (l, x) => match x.state with
    | .waiting => [.constantSnapshot l]
    | .dispatching => firstCore s (.blockPlacement l) ++ (evictionCore s l).toList.map (.waveEviction l)
    | .running => [.launchRetire l]
    | _ => []) ++
  flatten (s.partitions.map fun (p, x) => if x.evicted.isEmpty then [] else firstCore s (.restore p))

/-- Every step of the units that is due. -/
def unitSteps (s : State) : List Instr :=
  (flatten (s.threads.map fun (t, th) => threadSteps t th) ++ flatten (s.blocks.map fun (c, b, x) => blockSteps c b x) ++
    flatten (s.cores.map fun (c, k) => coreSteps c k) ++ launchSteps s).filter (goes s)

/-- The one that is taken: each in its turn. -/
def unitStep (s : State) : Option Instr := let xs := unitSteps s; xs[s.turn % xs.length]?

/-! ### Words (R148, R219) -/

/-- A thread may issue: a CCP, or a wave of its quadrant's active set. -/
def inSet (k : Core) (t : ThreadRef) (th : Thread) : Bool :=
  th.ccp || (findD k.quads th.quad freshQuadrant).active.contains (waveKey t)

/-- The slot named by the state is tried: its word is fetched, decoded and executed. -/
def tryWord (s : State) : Host.Outcome State Fault Refusal :=
  match s.issuer with
  | none => .next s
  | some c => match fetchWord s c.launch c.thread.ccp c.cur.pc with
    | .word i => exec i s
    | .fault cause synd va => .next (fetchFault c cause synd va s)

/-- A held slot stays as it is: another try would find the same hold, and start no walk. -/
def stillHeld (s : State) (t : ThreadRef) (n : Bool) : Bool :=
  (slotAt s t n).hold != .free && match tryWord { s with who := t, whoSlot := n } with
    | .next s' => waited s t n s' && (slotAt s' t n).hold == (slotAt s t n).hold &&
        (s'.coreAt t.core).walks == (s.coreAt t.core).walks
    | _ => false

/-- A slot may be tried: it issues its next word, or comes to a new hold at it. One whose word would only go on waiting is not
ready (R148). -/
def slotReady (s : State) (t : ThreadRef) (n : Bool) : Bool :=
  match s.blockAt t.core t.block, s.threadAt t with
  | some b, some th =>
    coreRuns s t.core && inSet (s.coreAt t.core) t th && threadFree b th && slotFree b th n && !stillHeld s t n
  | _, _ => false

/-- The slot of a thread that goes first: the one that did not issue last (R148). -/
def readySlot (s : State) (t : ThreadRef) : Option Bool :=
  match s.threadAt t with
  | none => none
  | some th => [!th.turn, th.turn].find? (slotReady s t)

/-- A list turned so that it starts after the first element that a test picks. -/
def turnAfter (p : α → Bool) (xs : List α) : List α :=
  match xs.span (fun x => !p x) with
  | (before, x :: rest) => rest ++ before ++ [x]
  | (before, []) => before

/-- The threads of a unit of a core in the order they are tried: quadrants 0 to 3, and 4 the CCPs. Where the wave that issued last has
left the active set, the search still begins behind the position it issued from (R148): the model's choice (log 107). -/
def unitThreads (core : Nat) (k : Core) (u : Nat) : List ThreadRef :=
  if u = 4 then
    (turnAfter (fun b => b = k.ccpLast) (k.blocks.map (·.1))).map fun b => ⟨core, b, ccpThread⟩
  else
    let q := findD k.quads u freshQuadrant
    (q.active.drop q.start ++ q.active.take q.start).map (keyThread core)

/-- The unit that a thread issues from. -/
def unitOfThread (s : State) (t : ThreadRef) : Nat × Nat :=
  (t.core, if t.thread = ccpThread then 4 else ((s.threadAt t).map (·.quad)).getD 0)

/-- The next slot to be tried: units in turn, then threads in turn. -/
def nextIssuer (s : State) : Option (ThreadRef × Bool) :=
  let us := flatten (s.cores.map fun (c, k) => if k.blocks.isEmpty then [] else (List.range 5).map fun u => (c, u))
  (turnAfter (fun u => u = unitOfThread s s.who) us).findSome? fun (c, u) =>
    (unitThreads c (s.coreAt c) u).findSome? fun t => (readySlot s t).map fun n => (t, n)

/-- The active position of a wave, or where its quadrant's search stands. -/
def positionOf (s : State) (t : ThreadRef) : Nat :=
  let q := findD (s.coreAt t.core).quads ((s.threadAt t).map (·.quad) |>.getD 0) freshQuadrant
  if q.active.contains (waveKey t) then q.active.idxOf (waveKey t) else q.start - 1

/-- A slot has been tried: where its word issued it is the last of its unit, and the next slot is chosen. `position` is the active
position it issued from. -/
def handOn (t : ThreadRef) (quad position : Nat) (issued : Bool) (s : State) : State :=
  let s := { close s with phase := true }
  let s := if issued && (s.blockAt t.core t.block).isSome then s.modCore t.core fun k => k.noteIssue t quad position else s
  match nextIssuer s with
  | some (u, n) => { s with who := u, whoSlot := n }
  | none => s

/-- Issue the word of the slot the state names. -/
def issueWord (s : State) : Host.Outcome State Fault Refusal :=
  match tryWord s with
  | .next t => .next (handOn s.who (unitOfThread s s.who).2 (positionOf s s.who) (!waited s s.who s.whoSlot t) t)
  | .fault f => .fault f
  | .refused r => .refused r

/-- Issue a word: of the slot the state names, or of the next that is ready; else time passes. -/
def issueStep (s : State) : Host.Outcome State Fault Refusal :=
  if slotReady s s.who s.whoSlot then issueWord s
  else match nextIssuer s with
    | some (t, n) => issueWord { s with who := t, whoSlot := n }
    | none => .next (idle s)

/-! ### The next step -/

/-- Steps that an alarm at level halt or erase leaves (R376): SYNC and SPDM, another alarm, the hourly copy of the lifetime records, and
the reset or loss of power that ends it. Every core, CCP, engine and link has stopped. -/
def passesAlarm (i : Instr) : Bool :=
  match i with
  | .sync _ | .spdm _ | .securityAlarm _ _ | .lifetimeSave | .moduleReset | .powerLoss | .powerOn => true
  | _ => false

/-- A step of the agenda is taken first; one whose condition no longer holds, or that an alarm stops, is dropped (log 7). -/
def agendaStep (i : Instr) (rest : List Instr) (s : State) : Host.Outcome State Fault Refusal :=
  let s := { s with agenda := rest }
  if s.boot.alarm ≠ .clear && !passesAlarm i then .next (idle s)
  else match takeStep i s with
  | .refused .notDue => .next (idle s)
  | r => r

/-- The step a booted module takes by itself: what follows at once, else a unit's step and a word in turn. -/
def ownStep (s : State) : Host.Outcome State Fault Refusal :=
  match promptStep s with
  | some i => takeStep i s
  | none =>
    if s.phase then match unitStep s with
      | some i => takeStep i { s with phase := false, turn := s.turn + 1 }
      | none => issueStep s
    else issueStep s

/-- A module runs once it has booted, until an alarm halts it (R369, R376). -/
def runs (s : State) : Bool := s.boot.stage = 7 && s.boot.alarm = .clear

/-- The next step of a module. -/
def nextStep (s : State) : Host.Outcome State Fault Refusal :=
  match s.agenda with
  | i :: rest => agendaStep i rest s
  | [] => if runs s then ownStep s else .next (idle s)

end Sys2Proof.Machine
end

