-- ==== Sys2Proof/Machine/Step.lean ====
section
/-! DEFINITION. One step of the module, and the placing of one instruction where the next step fetches. -/

namespace Sys2Proof.Machine
open Sys2Proof

/-- One step (log 1): what `nextStep` chooses. -/
def step (s : State) : Host.Outcome State Fault Refusal := nextStep s

/-- The state with an instruction of the opcode table's bits placed where the next step fetches (log 4): a wave's, or for a
copy word a CCP thread's. -/
def State.withFetchWord (s : State) (nbits w : Nat) : State :=
  let op := w / 2 ^ 24 % 256
  oneWord s (if 0xB0 ≤ op && op ≤ 0xBA then ccpThread else 0) (tableBytes nbits w)

end Sys2Proof.Machine
end

