-- ==== Sys2Proof/Safety.lean ====
section
/-! DEFINITION. The terms that statements about the machine use: when a word issues and completes, what a thread holds once
it has, which state a step may have touched, and what a well-kept state is. -/

namespace Sys2Proof

/-- The instruction is a word of the opcode map (R30). -/
def Instr.isWord (i : Instr) : Bool := (Machine.opcodeOf i).isSome

end Sys2Proof

namespace Sys2Proof.Machine
open Sys2Proof

/-! ### When a word completes -/

/-- Nothing that the word reads is poisoned (R359), and no check of its unit is armed (R357, R364). -/
def Ctx.sound (c : Ctx) (i : Instr) : Prop :=
  (unitOf i c.ty ≠ 0 → c.thread.armed (unitOf i c.ty) = false) ∧ c.sourcePoison i = 0

/-- The word issues from the agent `c`: it passes the checks of R34, some lane is left to it (R35), and every register it
names is ready (R36, R76); and nothing it reads or its unit computes is unsound. -/
def Runs (i : Instr) (s : State) (c : Ctx) : Prop := gate i s = .go c ∧ c.sound i

/-- The word after it lies below the end of the window (R146). -/
def Ctx.below (c : Ctx) (i : Instr) : Prop := c.cur.pc.toNat + (wordLength i).toNat < 2 ^ 32

/-! ### What the issuing thread holds then -/

/-- A slot that has issued its word: it waits for nothing, and has one word more behind it (R148, R253). -/
def Slot.issued (x : Slot) : Slot := { x with hold := .free, last := x.pc, since := x.since + 1 }

/-- The thread of an agent whose word has issued, with nothing else done. -/
def Ctx.issued (c : Ctx) : Thread := { c.thread.modSlot c.slot Slot.issued with turn := c.slot }

/-- The thread once the word has also changed its own slot. -/
def Ctx.after (c : Ctx) (f : Slot → Slot) : Thread := c.issued.modSlot c.slot f

/-- The thread once the word has gone on to the next word and done nothing else. -/
def Ctx.passed (c : Ctx) (i : Instr) : Thread := c.after fun x => { x with pc := c.cur.pc + wordLength i }

/-- The thread once the word has to wait: its slot is held at the word, and nothing else has changed (R148). -/
def Ctx.heldAt (c : Ctx) (h : Hold) : Thread := c.thread.modSlot c.slot fun x => { x with hold := h }

/-- The thread once the word has parked its whole slot (R252): the slot stays at the trap's word; where no slot was parked yet,
the counts of R253 start anew. -/
def Ctx.parkedWhole (c : Ctx) (info : TrapInfo) : Thread :=
  { c.issued with paths := restartCounts c.issued.paths }.modSlot c.slot fun x =>
    { x with pc := info.pc, park := some info, hold := .free }

/-! ### Which state a step has touched -/

/-- A byte of a region of a resident block, where there is such a block (R165). -/
def State.regionByte (s : State) (core block code offset : Nat) : Option Byte :=
  (s.blockAt core block).map fun b => findD b.regions (regionKey code offset) 0

/-- Every byte of memory and of every region reads as before, under every key, and so does its poison. -/
def SameMemory (s t : State) : Prop :=
  (∀ key a, t.readByte key a = s.readByte key a) ∧ t.poison = s.poison ∧
  ∀ core block code offset, t.regionByte core block code offset = s.regionByte core block code offset

/-- Beyond the cores nothing has changed but issue numbers. -/
def SameOutside (s t : State) : Prop := { t with cores := s.cores, seq := s.seq } = s

/-- Nothing has changed but one core, and issue numbers. -/
def OnlyCore (core : Nat) (s t : State) : Prop :=
  SameOutside s t ∧ ∀ c, c ≠ core → t.coreAt c = s.coreAt c

/-- Nothing has changed but one block of one core, and issue numbers. -/
def OnlyBlock (core block : Nat) (s t : State) : Prop :=
  OnlyCore core s t ∧ { t.coreAt core with blocks := (s.coreAt core).blocks } = s.coreAt core ∧
  ∀ b, b ≠ block → t.blockAt core b = s.blockAt core b

/-- Nothing has changed but one thread, and issue numbers: no byte of memory, no other thread, and nothing of its block,
its core or the module around it. -/
def OnlyThread (r : ThreadRef) (s t : State) : Prop :=
  OnlyBlock r.core r.block s t ∧ SameMemory s t ∧ (∀ u, u ≠ r → t.threadAt u = s.threadAt u) ∧
  ∀ b, s.blockAt r.core r.block = some b →
    ∃ b', t.blockAt r.core r.block = some b' ∧ { b' with threads := b.threads } = b

/-- The word completes, leaves its thread so, and changes nothing else. -/
def Leaves (i : Instr) (s : State) (c : Ctx) (x : Thread) : Prop :=
  ∃ t, exec i s = .next t ∧ OnlyThread c.ref s t ∧ t.threadAt c.ref = some x

/-- The word parks its whole slot for a trap (R252) and changes nothing else: the walks that words of the thread waited for are given
up, and a word that issues again walks again (R175). -/
def Parks (i : Instr) (s : State) (c : Ctx) (info : TrapInfo) : Prop :=
  ∃ t, exec i s = .next t ∧ OnlyThread c.ref (cancelWalks s c.ref) t ∧ t.threadAt c.ref = some (c.parkedWhole info)

/-- The step completes, leaves that thread so, and changes nothing else. -/
def Makes (i : Instr) (s : State) (r : ThreadRef) (x : Thread) : Prop :=
  ∃ t, exec i s = .next t ∧ OnlyThread r s t ∧ t.threadAt r = some x

/-! ### What a register holds -/

/-- A register of a thread in a lane (R24), seen from one of its slots: a vector register through its binding (R61), a
scalar of that slot; specials are another matter. -/
def State.register (s : State) (t : ThreadRef) (slot : Bool) (r : Reg) (lane : Nat) : Option Nat :=
  (s.threadAt t).map fun th =>
    match r with
    | .v n => vectorWord (s.coreAt t.core) th n.val lane
    | .s n => (findD (th.paths.slot slot).sregs n.val 0).toNat
    | .sp _ => 0

/-- A word with a register result that runs privately: no condition of R63 gives its result a lineage. -/
def RunsPrivately (i : Instr) (s : State) (c : Ctx) : Prop := Runs i s c ∧ hasLineage i c = false ∧ c.below i

/-- The words whose result is computed from their operands by `resultsOf`: the integer, logic, float, conversion, shuffle,
reduction and scan words, LIW and LDK. -/
def computes : Instr → Bool
  | .mov .. => false
  | i => lineageOpcode i

/-- What a word writes: in every lane it produces, and for a scalar once, its destination registers hold the value given, 32
bits each with the first lowest; FLAGS gains what is given; every other register, every other lane, the predicates and all
else but the slot's PC are as before. -/
def Writes (i : Instr) (s : State) (c : Ctx) (value : Nat → Nat) (flags : Flags) : Prop :=
  ∃ t th, exec i s = .next t ∧ OnlyThread c.ref s t ∧ t.threadAt c.ref = some th ∧
    (∀ l, l ∈ c.outs i → ∀ k d, (c.destRegs i)[k]? = some d →
      t.register c.ref c.slot d l = some (value l / 2 ^ (32 * k) % 2 ^ 32)) ∧
    (∀ d l, l < 32 → (d ∉ c.destRegs i ∨ isVec d = true ∧ l ∉ c.outs i) →
      t.register c.ref c.slot d l = s.register c.ref c.slot d l) ∧
    (∀ n, .v n ∈ c.destRegs i → find th.bound n.val = none) ∧
    (∀ n, (∀ h : n < 192, .v ⟨n, h⟩ ∉ c.destRegs i) → find th.bound n = find c.thread.bound n) ∧
    th.flags = (if c.thread.ccp then c.thread.flags else c.thread.flags ||| flags) ∧
    (th.paths.slot c.slot).pc = c.cur.pc + wordLength i ∧
    { th.paths.slot c.slot with sregs := c.cur.sregs, spois := c.cur.spois, pc := c.cur.pc, hold := c.cur.hold,
                                last := c.cur.last, since := c.cur.since } = c.cur ∧
    th.paths.slot (!c.slot) = c.thread.paths.slot (!c.slot) ∧
    { th with paths := c.thread.paths, turn := c.thread.turn, vregs := c.thread.vregs, vpois := c.thread.vpois,
              bound := c.thread.bound, behind := c.thread.behind, flags := c.thread.flags } = c.thread ∧
    th.paths.frame = c.thread.paths.frame ∧ th.paths.stack = c.thread.paths.stack

/-! ### A well-kept state -/

/-- Memory is in its one canonical form: addresses rise strictly, and no listed byte is what an unlisted one reads as. -/
def Memory.wf (m : List Host.Cell) : Bool := canonical 0 m

/-- The invariant of memory. -/
abbrev State.MemoryKept (s : State) : Prop := Memory.wf s.mem = true

end Sys2Proof.Machine
end

