-- ==== Sys2Proof/Certificates/Slice0/Obligations.lean ====
section
/-! DEFINITION. The statements for the provers. A word's statement names the agent `c` that issues it: `Runs i s c` says that the
word passes the checks of R34, R35, R36 and R76 and meets no armed check and no poison; what the word then leaves is said by
`OnlyThread`, `OnlyBlock` and `OnlyCore` (every byte of memory and every other register unchanged), and by what the thread holds. -/

open Sys2Proof
open Sys2Proof.Machine

/-- R21, R22, R24, R30: the decoder reads every word that the encoder forms, whatever its operands are, and leaves the bytes
after it alone. -/
def Obligations.DecodeEncode : Prop :=
  ∀ (i : Instr) (rest : List Byte), i.isWord = true → decode (encode i ++ rest) = .ok (i, rest)

/-- R22, R30: every bit of a word that decodes is a field of it or an MBZ bit that is 0, so the bytes can be read back from the
instruction. -/
def Obligations.EncodeDecode : Prop :=
  ∀ (bytes rest : List Byte) (i : Instr), decode bytes = .ok (i, rest) → i.isWord = true ∧ encode i ++ rest = bytes

/-- R22, R24, R30: words written out by hand, the byte of bits [7:0] first. -/
def Obligations.DecodedWords : Prop :=
  -- IADD v5, s1, %lane: opcode 0x10, D 0x05, A 0xC1, B 0xE1
  decode [0xE1, 0xC1, 0x05, 0x10] = .ok (.iadd (.v 5) (.s 1) (.sp .lane), []) ∧
  -- MOVI s31, -2: opcode 0x1A, D 0xDF, IMM16 0xFFFE
  decode [0xFE, 0xFF, 0xDF, 0x1A] = .ok (.movi (.s 31) 0xFFFE, []) ∧
  -- BRP p3 inverted, OFF20 0x8_0001: opcode 0x03, D 0b0111_1000
  decode [0x01, 0x00, 0x78, 0x03] = .ok (.brp 3 true 0x80001, []) ∧
  -- LIW s0, 0x12345678
  decode [0x00, 0x00, 0xC0, 0x61, 0x78, 0x56, 0x34, 0x12] = .ok (.liw (.s 0) 0x12345678, []) ∧
  -- CMP condition 5 into p2 of v0 and v1: opcode 0x41, D 0b0010_1010
  decode [0x01, 0x00, 0x2A, 0x41] = .ok (.cmp 5 2 (.v 0) (.v 1), []) ∧
  -- LDG v4 from the offset in v8 over t3, W 4, H 2: opcode 0x70, B 0b0111_0010
  decode [0x72, 0x08, 0x04, 0x70] = .ok (.ldg (.v 4) (.v 8) 3 4 2, []) ∧
  -- FENCE with PRED 0b0011, SUCC 0b1100, scope 2: opcode 0x80, D 0x3C, A 0b0100_0000
  decode [0x00, 0x40, 0x3C, 0x80] = .ok (.fence 3 12 2, []) ∧
  -- CPY with D s9, A s2 and the flags CHK and REL: opcode 0xB0, FLAGS 0b0010_0010
  decode [0x22, 0xC2, 0xC9, 0xB0] = .ok (.cpy (.s 9) (.s 2) ⟨false, false, true, 0, true, false⟩, []) ∧
  -- RFT: opcode 0xC0
  decode [0x00, 0x00, 0x00, 0xC0] = .ok (.rft, [])

/-- R21, R146, R148: a step runs the decoded instruction. What the step adds around `exec` is `handOn` (barriers and other
settlements of the same cycle, the step count, and the choice of the next slot: log 1), which is told whether the word issued or
only came to a hold. -/
def Obligations.StepRunsWord : Prop :=
  ∀ (s : State) (c : Ctx) (i : Instr) (bytes more : List Byte) (rest : List Byte),
    s.agenda = [] → runs s = true → promptStep s = none → (s.phase = false ∨ unitStep s = none) →
    slotReady s s.who s.whoSlot = true → s.issuer = some c → c.cur.pc.toNat % 4 = 0 →
    fetchFour s c.part (fetchAddress c.launch c.thread.ccp c.cur.pc.toNat) = .ok bytes →
    (decode bytes = .ok (i, rest) ∨
      decode bytes = .error .truncated ∧ c.cur.pc.toNat + 4 < 2 ^ 32 ∧
        fetchFour s c.part (fetchAddress c.launch c.thread.ccp c.cur.pc.toNat + 4) = .ok more ∧
        decode (bytes ++ more) = .ok (i, rest) ∨
      (∃ e, decode bytes = .error e ∧ e ≠ .truncated ∧ i = .illegalInstruction (BitVec.ofNat 32 (leNat bytes)))) →
    (∀ t, exec i s = .next t → step s = .next (handOn s.who (unitOfThread s s.who).2 (positionOf s s.who) (!waited s s.who s.whoSlot t) t)) ∧
    (∀ f, exec i s = .fault f → step s = .fault f) ∧
    (∀ r, exec i s = .refused r → step s = .refused r)

/-- R21, R146: the state of log entry 4 fetches exactly the word that was placed. The placing is the model's own. -/
def Obligations.PlacedWordIsFetched : Prop :=
  ∀ (nbits w : Nat) (i : Instr), nbits = 32 ∨ nbits = 64 → decodeTableWord nbits w = some i →
    ∃ c, (State.reset.withFetchWord nbits w).issuer = some c ∧ c.cur.pc.toNat % 4 = 0 ∧
      slotReady (State.reset.withFetchWord nbits w) c.ref c.slot = true ∧
      fetchWord (State.reset.withFetchWord nbits w) c.launch c.thread.ccp c.cur.pc = .word i

/-- The invariant of memory: equal memories are equal lists, whatever a step does. That an unlisted byte reads 0 is the model's
choice (log 3). -/
def Obligations.MemoryStaysCanonical : Prop :=
  ∀ (s t : State), s.MemoryKept → step s = .next t → t.MemoryKept

/-- The invariant of memory holds at reset. What an unwritten byte reads as is the model's choice (log 3). -/
def Obligations.ResetMemoryCanonical : Prop :=
  State.reset.MemoryKept ∧ ∀ key a, State.reset.readByte key a = 0

/-- R31, R147, R169, R219, R271, R285: the resets that the spec gives. CYCLEH, for which it gives none, is the model's choice (log 2)
and is left out. -/
def Obligations.StartRegisters : Prop :=
  (∀ (ccp : Bool) (wave quad regs : Nat) (entry : Word) (spill : Nat),
    let th := freshThread ccp wave quad regs entry spill
    let x := th.paths.slot false
    x.pc = entry ∧ x.mask = (if ccp then 1 else 0xFFFFFFFF) ∧ x.mode = 0x0040 ∧ x.fmt = 0 ∧ x.jpc = 0 ∧ x.park = none ∧
    (∀ n, findD x.sregs n 0 = 0) ∧ x.spois = 0 ∧ (th.paths.slot true).mask = 0 ∧ th.paths.frame = none ∧
    th.paths.stack = [] ∧ th.paths.spillPtr = spill ∧ th.depth = 0 ∧ th.supervisor = false ∧
    (∀ k n lane, vectorWord k th n lane = 0) ∧ (∀ n, findD th.vpois n 0 = 0) ∧ th.bound = [] ∧
    (∀ n, n ≠ 0 → th.pred n = 0) ∧ th.pred 0 = (if ccp then 1 else 0xFFFFFFFF) ∧ th.flags = 0 ∧ th.gang = 0 ∧ th.exc = freshExc ∧
    th.exc.exc = 0 ∧ th.exc.excmask = 0 ∧ th.exc.synd = 0 ∧ th.exc.unit = 0 ∧ th.exc.tilexy = 0 ∧
    th.exc.faultva = 0 ∧ th.exc.faultvah = 0 ∧ th.rgnpc = 0 ∧ th.trappc = 0 ∧ th.strappc = 0 ∧
    th.utrapbase = 0 ∧
    (∀ n, (th.treg n).base = 0 ∧ (th.treg n).frame = 0 ∧ (th.treg n).limit = 0) ∧ th.cmds = [] ∧ th.log = []) ∧
  (∀ c, (State.reset.coreAt c).blocks = [] ∧ (State.reset.coreAt c).entries = [] ∧ (State.reset.coreAt c).stats = freshStats ∧
    (State.reset.coreAt c).fltcnt = 0) ∧
  (∀ p, (State.reset.partAt p).trapbase = 0 ∧ (State.reset.partAt p).ptroot = 0 ∧ (State.reset.partAt p).ptrooth = 0 ∧
    (State.reset.partAt p).pool = 0 ∧ (State.reset.partAt p).testen = 0)

/-- R34, R252: a rejected word parks its slot, with EXCMASK the whole active mask; every register, predicate, flag, counter and
binding is as before (`Ctx.parkedWhole` changes the slot alone, and the word counts of R253; see `Parks`). -/
def Obligations.IllegalWordsTrap : Prop :=
  ∀ (i : Instr) (s : State) (c : Ctx) (cause : Cause) (op : Nat),
    s.issuer = some c → wordOpcode i = some op → c.thread.ccp = false →
    decodeTrap c (s.partAt c.part).testen i op = some cause →
    Parks i s c { cause := cause, lanes := c.cur.mask, synd := 0, unit := 0, tile := 0, va := 0, pc := c.cur.pc, seq := c.seq }

/-- R37, R221, R267: a CCP has no handler; its cause is recorded and its block aborted. -/
def Obligations.CcpTrapAborts : Prop :=
  ∀ (i : Instr) (s : State) (c : Ctx) (cause : Cause) (op : Nat),
    s.issuer = some c → wordOpcode i = some op → c.thread.ccp = true → c.ref.thread = ccpThread →
    c.block.aborted = false → decodeTrap c (s.partAt c.part).testen i op = some cause →
    ∃ t b th, exec i s = .next t ∧ t.blockAt c.ref.core c.ref.block = some b ∧ b.aborted = true ∧
      (∀ n x, find b.threads n = some x → x.ended = true) ∧
      t.threadAt c.ref = some th ∧ th.stopped = true ∧ th.exc.exc = BitVec.ofNat 32 (causeCode cause) ∧
      th.trappc = c.cur.pc ∧ t.mem = s.mem

/-- R34: the three checks in their order, with the exceptions of the second spelled out. -/
def Obligations.PrivilegedWords : Prop :=
  ∀ (c : Ctx) (testen : Word) (i : Instr) (op : Nat),
    (isListedOpcode op = false → decodeTrap c testen i op = some .illegal) ∧
    (isListedOpcode op = true → c.thread.ccp = false → 0xB0 ≤ op → op ≤ 0xBA → decodeTrap c testen i op = some .privileged) ∧
    (c.thread.ccp = false → c.thread.supervisor = false → 0xC0 ≤ op → op ≤ 0xCC →
      (decodeTrap c testen i op = some .privileged ↔ ¬(op = 0xC0 ∧ c.thread.depth = 1))) ∧
    (c.thread.ccp = true → 0xC0 ≤ op → op ≤ 0xCC →
      (decodeTrap c testen i op = some .privileged ↔ ¬(op = 0xCA ∧ testen.getLsbD 4 = true))) ∧
    (c.thread.ccp = false → c.thread.supervisor = true → 0xC0 ≤ op → op ≤ 0xCC → decodeTrap c testen i op ≠ some .privileged) ∧
    (op < 0xB0 → decodeTrap c testen i op ≠ some .privileged) ∧
    (decodeTrap c testen i op = none ↔
      isListedOpcode op = true ∧ privilegeFails c testen op = false ∧ fieldsFail c i = false)

/-- R35: nothing is written, raised or bound, and the PC advances. -/
def Obligations.EmptyMaskPasses : Prop :=
  ∀ (i : Instr) (s : State) (c : Ctx), gate i s = .empty c → c.below i →
    ∃ t, exec i s = .next t ∧ OnlyThread c.ref s t ∧ t.threadAt c.ref = some (c.passed i)

/-- R146: the end of the window. A branch target wraps within it. -/
def Obligations.EndOfWindowFaults : Prop :=
  ∀ (s : State) (c : Ctx), c.cur.pc = 0xFFFFFFFC → c.thread.ccp = false →
    (Runs .nop s c →
      Parks .nop s c
        { cause := .address, lanes := c.cur.mask, synd := 0, unit := 0, tile := 0,
          va := 2 ^ 32 * c.launch.window false + 0xFFFFFFFC, pc := 0xFFFFFFFC, seq := c.seq }) ∧
    (Runs (.bra 0) s c →
      ∃ t, exec (.bra 0) s = .next t ∧ OnlyThread c.ref s t ∧ t.threadAt c.ref = some (c.after fun x => { x with pc := 0 }))

/-- R162, R252, R34: the words whose whole effect is to raise a cause. A slot with a frame of its own is left out of the last
clause: there the frame's sibling is pushed first (R153). -/
def Obligations.TrapWords : Prop :=
  (∀ (code : BitVec 16) (s : State) (c : Ctx), Runs (.trap code) s c → c.thread.ccp = false → c.eff = c.cur.mask →
    Parks (.trap code) s c
      { cause := .trap, lanes := c.cur.mask, synd := code.setWidth 32, unit := 0, tile := 0, va := 0, pc := c.cur.pc,
        seq := c.seq }) ∧
  (∀ (code : BitVec 16) (s : State) (c : Ctx), Runs (.bkpt code) s c → c.thread.ccp = false → c.eff = c.cur.mask →
    (s.partAt c.part).armed = false →
    Parks (.bkpt code) s c
      { cause := .breakpoint, lanes := c.cur.mask, synd := code.setWidth 32, unit := 0, tile := 0, va := 0,
        pc := c.cur.pc, seq := c.seq }) ∧
  (∀ (w : Word) (s : State) (c : Ctx), s.issuer = some c → c.thread.ccp = false →
    privilegeFails c (s.partAt c.part).testen (w.toNat / 2 ^ 24) = false →
    Parks (.illegalInstruction w) s c
      { cause := .illegal, lanes := c.cur.mask, synd := 0, unit := 0, tile := 0, va := 0, pc := c.cur.pc,
        seq := c.seq }) ∧
  (∀ (code : BitVec 16) (s : State) (c : Ctx), Runs (.trap code) s c → c.thread.ccp = false → c.eff ≠ c.cur.mask →
    c.below (.trap code) → c.thread.paths.frame = none → c.cur.park = none →
    ∃ t th, exec (.trap code) s = .next t ∧ OnlyThread c.ref (cancelWalks s c.ref) t ∧ t.threadAt c.ref = some th ∧
      th.paths.slot0.mask = c.cur.mask &&& ~~~c.eff ∧ th.paths.slot0.pc = c.cur.pc + 4 ∧ th.paths.slot0.park = none ∧
      th.paths.slot1.mask = c.eff ∧ th.paths.slot1.pc = c.cur.pc ∧
      (∃ info, th.paths.slot1.park = some info ∧ info.cause = .trap ∧ info.lanes = c.eff ∧ info.synd = code.setWidth 32) ∧
      th.paths.slot0.sregs = c.cur.sregs ∧ th.paths.slot1.sregs = c.cur.sregs ∧
      th.paths.frame = some { j := c.cur.jpc, mode := c.cur.mode, fmt := c.cur.fmt })

/-- R162, R315: a breakpoint halt. The HALTED event that reports it is held on stream 16. -/
def Obligations.BreakpointHalts : Prop :=
  ∀ (code : BitVec 16) (s : State) (c : Ctx), Runs (.bkpt code) s c → (s.partAt c.part).armed = true →
    ∃ t b, exec (.bkpt code) s = .next t ∧ t.blockAt c.ref.core c.ref.block = some b ∧ b.halted = true ∧
      b.breaks = c.block.breaks ++ [(c.ref.thread, c.slot, c.breakInfo code)] ∧
      (c.breakInfo code).cause = .breakpoint ∧ (c.breakInfo code).pc = c.cur.pc ∧ (c.breakInfo code).synd = code.setWidth 32 ∧
      (∀ d, d ≠ c.ref.core → t.coreAt d = s.coreAt d) ∧
      (∀ n, n ≠ c.ref.block → t.blockAt c.ref.core n = s.blockAt c.ref.core n) ∧ SameMemory s t ∧
      t.threadAt c.ref = some c.issued ∧
      (findD t.host.streams 16 freshStream).dseq = (findD s.host.streams 16 freshStream).dseq + 1

/-- R255, R257: what an entry saves, what the handler starts with, and its frame. The slot that a precise trap parked may stand on the
stack: a mixed BRP of the other slot has pushed it there (R151). -/
def Obligations.TrapEntrySaves : Prop :=
  ∀ (s : State) (t : ThreadRef) (th : Thread) (b : Block) (d : Due) (n : Place) (parked : Bool) (info : TrapInfo)
    (vector : Word) (supervisor : Bool),
    s.threadAt t = some th → s.blockAt t.core t.block = some b → dueOf s t = some d →
    (d = .precise n info ∧ parked = true ∨ ∃ e, d = .page e ∧ n = .slot e.slot ∧ info = pageInfo e ∧ parked = false) →
    th.depth < 2 → vectorOf (s.partAt (s.launchOf b).partition) th info.cause = some (vector, supervisor) →
    ∃ u x, exec (.trapEntry t) s = .next u ∧ OnlyThread t (cancelWalks s t) u ∧ u.threadAt t = some x ∧
      x.depth = th.depth + 1 ∧ x.supervisor = supervisor ∧
      (th.depth = 0 → x.trappc = info.pc ∧ x.strappc = th.strappc ∧ x.shadow = th.shadow) ∧
      (th.depth = 1 → x.strappc = info.pc ∧ x.trappc = th.trappc ∧ x.shadow = th.exc) ∧
      x.exc.exc = BitVec.ofNat 32 (causeCode info.cause) ∧ x.exc.excmask = info.lanes ∧ x.exc.synd = info.synd ∧
      x.exc.unit = info.unit ∧ x.exc.tilexy = info.tile ∧
      x.exc.faultva = BitVec.ofNat 32 info.va ∧ x.exc.faultvah = BitVec.ofNat 32 (info.va / 2 ^ 32) ∧
      (x.paths.slot false).mask = info.lanes ∧ (x.paths.slot false).pc = vector ∧ (x.paths.slot false).mode = 0x0040 ∧
      (x.paths.slot false).fmt = 0 ∧ (x.paths.slot false).jpc = 0 ∧
      (x.paths.slot false).sregs = (th.paths.slotAt n).sregs ∧ (x.paths.slot true).mask = 0 ∧ x.paths.frame = none ∧
      x.paths.stack = [] ∧ x.paths.spillPtr = th.paths.spillPtr ∧
      (∃ sv, x.saved = sv :: th.saved ∧ sv.paths = th.paths ∧ sv.info = info ∧ sv.t6 = th.treg 6 ∧ sv.t7 = th.treg 7 ∧
        sv.parked = (if parked then some n else none)) ∧
      { x with trappc := th.trappc, strappc := th.strappc, shadow := th.shadow, exc := th.exc, saved := th.saved,
               paths := th.paths } = th

/-- R257, R33: the table of vectors, with no row left out. -/
def Obligations.HandlerVector : Prop :=
  (∀ (p : Partition) (th : Thread) (cause : Cause), th.depth ≤ 1 →
    (th.depth = 0 → userCause cause = true → th.utrapbase ≠ 0 → vectorOf p th cause = some (th.utrapbase, false)) ∧
    (th.depth = 0 → (userCause cause = false ∨ th.utrapbase = 0) → p.trapbase ≠ 0 →
      vectorOf p th cause = some (p.trapbase, true)) ∧
    (th.depth = 1 → p.trapbase ≠ 0 → vectorOf p th cause = some (p.trapbase + 0x400, true)) ∧
    ((th.depth = 1 ∨ userCause cause = false ∨ th.utrapbase = 0) → p.trapbase = 0 → vectorOf p th cause = none)) ∧
  (∀ cause, userCause cause = true ↔ causeCode cause ∈ [0x06, 0x08, 0x0A, 0x0B, 0x0C, 0x10])

/-- R255, R257, R267: cause 0x0F. Outside a deterministic launch one more event is sent; in one the event is held in the block's report
until the block leaves its core, which is the model's choice, inferred from R303 and R394 (log 113). -/
def Obligations.NestedTrapAborts : Prop :=
  ∀ (s : State) (t : ThreadRef) (th : Thread) (b : Block) (n : Place) (info : TrapInfo),
    s.threadAt t = some th → s.blockAt t.core t.block = some b → b.aborted = false →
    dueOf s t = some (.precise n info) →
    (th.depth = 2 ∨ vectorOf (s.partAt (s.launchOf b).partition) th info.cause = none) →
    ∃ u b', exec (.trapEntry t) s = .next u ∧ u.blockAt t.core t.block = some b' ∧ b'.aborted = true ∧
      (∀ m x, find b'.threads m = some x → x.ended = true) ∧ u.mem = s.mem ∧ u.poison = s.poison ∧
      (∀ c, c ≠ t.core → u.coreAt c = s.coreAt c) ∧
      (∀ m, m ≠ t.block → u.blockAt t.core m = s.blockAt t.core m) ∧
      ((s.launchOf b).det = false → u.host.sent.length = s.host.sent.length + 1) ∧
      ((s.launchOf b).det = true → u.host.sent = s.host.sent ∧
        b'.report = some (0x0F, if t.thread = ccpThread then 255 else t.thread, info.pc.toNat))

/-- R266, R259: the return from a precise trap, and its frame. What the handler still expected for its own scalars goes with it
(`leaveHandler`, `dropScalars`). -/
def Obligations.RftReturns : Prop :=
  ∀ (s : State) (c : Ctx) (sv : Saved) (rest : List Saved) (n : Place),
    Runs .rft s c → c.thread.saved = sv :: rest → c.thread.depth ≤ 2 → sv.parked = some n →
    ((sv.paths.slotAt n).mask &&& ~~~sv.exited) ≠ 0 →
    ∃ t x, exec .rft s = .next t ∧ OnlyThread c.ref (leaveHandler s c.ref c.thread) t ∧ t.threadAt c.ref = some x ∧
      x.saved = rest ∧ x.depth + 1 = c.thread.depth ∧
      (let y := x.paths.slotAt n
       let z := sv.paths.slotAt n
       y.pc = (if c.thread.depth = 2 then c.thread.strappc else c.thread.trappc) +
         (if sv.info.cause = .trap ∨ sv.info.cause = .breakpoint then 4 else 0) ∧
       y.mask = z.mask &&& ~~~sv.exited ∧ y.park = none ∧ y.mode = z.mode ∧ y.fmt = z.fmt ∧ y.jpc = z.jpc ∧ y.sregs = z.sregs) ∧
      (∀ m, m ≠ n → { x.paths.slotAt m with since := (sv.paths.slotAt m).since, stopped := (sv.paths.slotAt m).stopped } =
        sv.paths.slotAt m) ∧
      x.paths.frame = sv.paths.frame ∧ x.paths.stack.length = sv.paths.stack.length ∧
      (∀ k, n = .slot k → x.paths.stack = sv.paths.stack) ∧ x.paths.spillPtr = sv.paths.spillPtr ∧
      ((∀ i, n ≠ .spilled i) → x.paths.buried = sv.paths.buried) ∧ x.late = c.thread.late.map (fun y => y.lowered rest.length) ∧
      (sv.supervisor = true → x.treg 6 = sv.t6 ∧ x.treg 7 = sv.t7) ∧
      (∀ m, m ≠ 6 ∧ m ≠ 7 ∨ sv.supervisor = false → x.treg m = c.thread.treg m) ∧
      x.exc = (if c.thread.depth = 2 then c.thread.shadow else c.thread.exc) ∧
      { x with paths := c.thread.paths, saved := c.thread.saved, exc := c.thread.exc, tregs := c.thread.tregs,
               late := c.thread.late, turn := c.thread.turn } = c.thread.dropScalars

/-- R266: the return from a page fault. -/
def Obligations.PageFaultReturns : Prop :=
  ∀ (s : State) (c : Ctx) (sv : Saved) (rest : List Saved),
    Runs .rft s c → c.thread.saved = sv :: rest → sv.parked = none →
    (sv.paths.slot0.mask ≠ 0 ∨ sv.paths.slot1.mask ≠ 0) →
    ∃ t x, exec .rft s = .next t ∧ OnlyThread c.ref (leaveHandler s c.ref c.thread) t ∧ t.threadAt c.ref = some x ∧
      x.saved = rest ∧ (∀ n, { x.paths.slot n with since := (sv.paths.slot n).since, stopped := (sv.paths.slot n).stopped } = sv.paths.slot n) ∧
      x.paths.frame = sv.paths.frame ∧ x.paths.stack = sv.paths.stack ∧ x.log = c.thread.log ∧
      x.loads = c.thread.dropScalars.loads ∧ x.vregs = c.thread.vregs ∧ x.bound = c.thread.bound ∧ x.preds = c.thread.preds ∧ x.flags = c.thread.flags

/-- R36, R48, R62, R79: the words with a computed result, each by its own computation (`resultsOf`), with their frame. This is their
completion statement. -/
def Obligations.PrivateResult : Prop :=
  ∀ (i : Instr) (s : State) (c : Ctx) (r : Results), computes i = true → RunsPrivately i s c →
    resultsOf i (c.args i (c.outs i)) = some r →
    Writes i s c (fun l => ((r.find? fun e => e.1 = l).map (·.2.1)).getD 0) (r.foldl (fun f e => f ||| e.2.2) 0)

/-- R63, R67 to R69, R73: binding through lineage, for a result of one register. A word that allocates an entry has issued, and its slot
waits for the values of its PENDING sources. -/
def Obligations.NamedResult : Prop :=
  ∀ (i : Instr) (s : State) (c : Ctx) (v : Fin 192) (k1 k2 : Core) (tags : List Nat) (e : Nat) (f : Flags) (new : Bool),
    computes i = true → gateNaming (hasLineage i) i s = .go c → hasLineage i c = true → c.below i →
    (unitOf i c.ty ≠ 0 → c.thread.armed (unitOf i c.ty) = false) → c.destRegs i = [.v v] →
    resolveTags c s.tick ((c.begun s).coreAt c.ref.core) [] (flatten ((sourcesOf i).map fun u => tagRegs u c.ty)) =
      (k1, some tags) →
    (resolveKey k1 (keyOf i c.cur.mode c.part c.block.launch 0 false tags) tags s.tick (c.pending i false false)
      (c.waiter v.val)).parts = some (k2, e, f, new) →
    ∃ t th, exec i s = .next t ∧ OnlyCore c.ref.core s t ∧ t.mem = s.mem ∧ t.threadAt c.ref = some th ∧
      find th.bound v.val = some e ∧ (∀ n, n ≠ v.val → find th.bound n = find c.thread.bound n) ∧
      (∀ n l, n ≠ v.val → l < 32 → findD th.vregs (n * 32 + l) 0 = findD c.thread.vregs (n * 32 + l) 0) ∧
      th.flags = c.thread.flags ||| f ∧ (th.paths.slot c.slot).pc = c.cur.pc + wordLength i ∧
      (th.paths.slot c.slot).sregs = c.cur.sregs ∧ th.preds = c.thread.preds ∧ th.exc = c.thread.exc ∧
      th.tregs = c.thread.tregs ∧ (t.coreAt c.ref.core).entries = k2.entries ∧ (t.coreAt c.ref.core).ways = k2.ways ∧
      (c.cur.park = none → (th.paths.slot c.slot).hold =
        if new = true ∧ ((find k2.entries e).map fun x => !sourcesReady k2 x).getD false = true then .sources e else .free)

/-- R71, R73, R282: publication. -/
def Obligations.ValuePublished : Prop :=
  ∀ (s : State) (core entry : Nat) (x : Entry) (p : Pending), publishDue s core entry = some (x, p) → p.fails = false → p.dead = false →
    x.spoilt (s.coreAt core) = false →
    let y := computeEntry (s.coreAt core) x p (entryConstant s x)
    ∃ t z, exec (.valuePublish core ⟨entry, .clean⟩) s = .next t ∧ find (t.coreAt core).entries entry = some z ∧
      z.bytes = y.1 ∧ z.flags = y.2 ∧ z.state = (if p.killed then .dead else .published) ∧ z.key = x.key ∧
      (∀ e, e ≠ entry → find (t.coreAt core).entries e = find (s.coreAt core).entries e) ∧
      (∀ w ∈ p.waiters, w.owes = true → w.thread.core = core → ∀ th, s.threadAt w.thread = some th → th.ccp = false →
        ∃ th', t.threadAt w.thread = some th' ∧ th'.flags = th.flags ||| y.2 ∧ th'.vregs = (th.reveal entry y.1).vregs ∧
          ((∀ e ∈ th.behind, e.2.1 ≠ entry) → th'.vregs = th.vregs) ∧
          th'.bound = th.bound ∧ th'.paths = th.paths) ∧
      t.mem = s.mem ∧ t.poison = s.poison

/-- R81 to R84: the integer words, lane by lane. `intOf` is Int, `reduceInt` Reduce and `fill` Write (see `ReduceAndFill`). -/
def Obligations.IntegerWords : Prop :=
  ∀ (s : State) (c : Ctx) (d a b : Reg) (imm : BitVec 16),
    let T := c.ty
    let A := fun l => intOf T (c.value (srcR a) l)
    let B := fun l => intOf T (c.value (srcR b) l)
    let D := fun l => intOf T (c.value (srcR d) l)
    let out := fun (x : Nat → Int) l => fill T (reduceInt T (modeSat c.cur.mode) (x l))
    (RunsPrivately (.iadd d a b) s c → Writes (.iadd d a b) s c (out fun l => A l + B l) 0) ∧
    (RunsPrivately (.isub d a b) s c → Writes (.isub d a b) s c (out fun l => A l - B l) 0) ∧
    (RunsPrivately (.imul d a b) s c → Writes (.imul d a b) s c (out fun l => A l * B l) 0) ∧
    (RunsPrivately (.imad d a b) s c → Writes (.imad d a b) s c (out fun l => A l * B l + D l) 0) ∧
    (RunsPrivately (.imin d a b) s c → Writes (.imin d a b) s c (out fun l => min (A l) (B l)) 0) ∧
    (RunsPrivately (.imax d a b) s c → Writes (.imax d a b) s c (out fun l => max (A l) (B l)) 0) ∧
    (RunsPrivately (.imulh d a b) s c →
      Writes (.imulh d a b) s c (fun l => fill T (A l * B l / (2 ^ tyBits T : Nat))) 0) ∧
    (RunsPrivately (.iabs d a) s c → Writes (.iabs d a) s c (out fun l => if A l < 0 then -A l else A l) 0) ∧
    (RunsPrivately (.ineg d a) s c → Writes (.ineg d a) s c (out fun l => -A l) 0) ∧
    (RunsPrivately (.iaddi d imm) s c → Writes (.iaddi d imm) s c (out fun l => D l + imm.toInt) 0) ∧
    (RunsPrivately (.movi d imm) s c → Writes (.movi d imm) s c (out fun _ => imm.toInt) 0) ∧
    (RunsPrivately (.movhi d imm) s c →
      Writes (.movhi d imm) s c (fun l => imm.toNat * 65536 + c.value (srcR d .one) l % 65536) 0)

/-- R38, R40: the ranges, the two reductions, and the fill of a narrow element. -/
def Obligations.ReduceAndFill : Prop :=
  ∀ (T : Ty) (x : Int), tyInt T = true →
    intMin T = (if tySigned T then -(2 ^ (tyBits T - 1) : Int) else 0) ∧
    intMax T = (if tySigned T then 2 ^ (tyBits T - 1) - 1 else 2 ^ tyBits T - 1) ∧
    intMin T ≤ reduceInt T false x ∧ reduceInt T false x ≤ intMax T ∧
    (2 ^ tyBits T : Int) ∣ (reduceInt T false x - x) ∧
    reduceInt T true x = (if x < intMin T then intMin T else if intMax T < x then intMax T else x) ∧
    (intMin T ≤ x → x ≤ intMax T → intOf T (fill T x) = x ∧
      fill T x < 2 ^ max (tyBits T) 32 ∧
      (tySigned T = false → fill T x = x.toNat) ∧
      (tyBits T ≤ 32 → tySigned T = true → signedOf 32 (fill T x) = x))

/-- R85 to R88: each word by its own bits. A result is written as `fill` writes it (see `ReduceAndFill`). -/
def Obligations.LogicWords : Prop :=
  ∀ (s : State) (c : Ctx) (d a b : Reg),
    let T := c.ty
    let w := tyBits T
    let A := fun l => c.value (srcR a) l
    let B := fun l => c.value (srcR b) l
    let N := fun l => c.value (srcR b .one) l
    let D := fun l => c.value (srcR d) l
    let bitsAre := fun (i : Instr) (f : Nat → Nat → Bool) => RunsPrivately i s c →
      ∃ v : Nat → Nat, Writes i s c v 0 ∧ ∀ l, (∀ n, n < w → (v l).testBit n = f l n) ∧ v l = fill T (v l % 2 ^ w : Nat)
    bitsAre (.and d a b) (fun l n => (A l).testBit n && (B l).testBit n) ∧
    bitsAre (.or d a b) (fun l n => (A l).testBit n || (B l).testBit n) ∧
    bitsAre (.xor d a b) (fun l n => (A l).testBit n ^^ (B l).testBit n) ∧
    bitsAre (.not d a) (fun l n => !(A l).testBit n) ∧
    bitsAre (.brev d a) (fun l n => (A l).testBit (w - 1 - n)) ∧
    bitsAre (.shl d a b) (fun l n => decide (N l ≤ n) && (A l).testBit (n - N l)) ∧
    bitsAre (.shr d a b) (fun l n => decide (n + N l < w) && (A l).testBit (n + N l)) ∧
    bitsAre (.sar d a b) (fun l n => (A l).testBit (min (n + N l) (w - 1))) ∧
    bitsAre (.rol d a b) (fun l n => (A l).testBit ((n + w - N l % w) % w)) ∧
    bitsAre (.bfe d a b) (fun l n =>
      let p := min (N l % 256) w
      let len := min (N l / 256 % 256) (w - p)
      if len = 0 then false else if n < len then (A l).testBit (p + n)
      else tySigned T && (A l).testBit (p + len - 1)) ∧
    bitsAre (.bfi d a b) (fun l n =>
      let p := min (N l % 256) w
      let len := min (N l / 256 % 256) (w - p)
      if p ≤ n ∧ n < p + len then (A l).testBit (n - p) else (D l).testBit n) ∧
    (RunsPrivately (.popc d a) s c →
      Writes (.popc d a) s c (fun l => ((List.range w).filter fun n => (A l).testBit n).length) 0) ∧
    (RunsPrivately (.clz d a) s c →
      ∃ v : Nat → Nat, Writes (.clz d a) s c v 0 ∧ ∀ l, v l ≤ w ∧ (∀ n, w - v l ≤ n → n < w → (A l).testBit n = false) ∧
        (v l < w → (A l).testBit (w - 1 - v l) = true))

/-- R89. -/
def Obligations.PermuteWord : Prop :=
  ∀ (s : State) (c : Ctx) (d a b : Reg), RunsPrivately (.prmt d a b) s c →
    ∃ v : Nat → Nat, Writes (.prmt d a b) s c v 0 ∧ ∀ l i, i < 4 →
      let nib := c.value (srcR b .one) l / 16 ^ i % 16
      let src := c.value (srcR a .one) l % 2 ^ 32 + 2 ^ 32 * (c.value (srcR d .one) l % 2 ^ 32)
      let y := src / 256 ^ (nib % 8) % 256
      v l < 2 ^ 32 ∧ v l / 256 ^ i % 256 = (if 8 ≤ nib then (if 128 ≤ y then 255 else 0) else y)

/-- R113, R114 (and R112: the lane read need not be in the mask). -/
def Obligations.LaneMoves : Prop :=
  ∀ (s : State) (c : Ctx) (d a b : Reg),
    let A := fun l => c.value (srcR a) l
    let N := fun l => c.value (srcR b .one) l
    (RunsPrivately (.shfl d a b) s c → Writes (.shfl d a b) s c (fun l => A (N l % 32)) 0) ∧
    (RunsPrivately (.shflu d a b) s c → Writes (.shflu d a b) s c (fun l => if l < N l then A l else A (l - N l)) 0) ∧
    (RunsPrivately (.shfld d a b) s c → Writes (.shfld d a b) s c (fun l => if 31 < l + N l then A l else A (l + N l)) 0) ∧
    (RunsPrivately (.shflx d a b) s c → Writes (.shflx d a b) s c (fun l => A (l ^^^ (N l % 32))) 0) ∧
    (RunsPrivately (.rdlane d a b) s c → Writes (.rdlane d a b) s c (fun _ => A (c.value (srcU b) 0 % 32)) 0) ∧
    (RunsPrivately (.wrlane d a b) s c →
      Writes (.wrlane d a b) s c (fun l => if l = c.value (srcU b) 0 % 32 then c.value (srcU a .byT) l else 0) 0)

/-- R102, R103, R45, R46: the float words that do not round. A lane of the result is that of `resultsOf`; `PrivateResult` says that it
is written. -/
def Obligations.FloatWords : Prop :=
  ∀ (x : Args) (d a b : Reg), tyFl x.ty = true →
    let T := x.ty
    let top := 2 ^ (tyBits T - 1)
    let low := fun v => v % 2 ^ tyBits T
    let flush := fun v => if modeFtz x.mode && isSubnormal T (low v) then low v / top * top else low v
    let nan := fun v => isNan (decodeFloat T (low v))
    let invalid := fun v => isSignalling (decodeFloat T (low v))
    let value := fun v => decodeFloat T v
    (∀ rs, resultsOf (.fabs d a) x = some rs → rs = x.outs.map fun l =>
      if nan (x.a l) then (l, canonicalNan T, flagIf (invalid (x.a l)) flagInvalid) else (l, flush (x.a l) % top, 0)) ∧
    (∀ rs, resultsOf (.fneg d a) x = some rs → rs = x.outs.map fun l =>
      if nan (x.a l) then (l, canonicalNan T, flagIf (invalid (x.a l)) flagInvalid)
      else (l, (flush (x.a l) + top) % 2 ^ tyBits T, 0)) ∧
    (∀ (larger : Bool) (rs : Results), resultsOf (if larger then .fmax d a b else .fmin d a b) x = some rs →
      rs.map (·.1) = x.outs ∧ ∀ e ∈ rs,
        let p := x.a e.1
        let q := x.b e.1
        e.2.2 = flagIf (invalid p || invalid q) flagInvalid ∧
        (nan p = true → nan q = true → e.2.1 = canonicalNan T) ∧
        (nan p = true → nan q = false → e.2.1 = flush q) ∧
        (nan p = false → nan q = true → e.2.1 = flush p) ∧
        (nan p = false → nan q = false →
          (e.2.1 = flush p ∨ e.2.1 = flush q) ∧
          (∀ u, u = flush p ∨ u = flush q →
            (if larger then ltFloat (value e.2.1) (value u) else ltFloat (value u) (value e.2.1)) = false) ∧
          (flush p = top ∧ flush q = 0 ∨ flush p = 0 ∧ flush q = top → e.2.1 = if larger then 0 else top)))

/-- R41, R43, R45, R101: rounding chooses the value that R43 names. `x` is the exact value, which is rounded once. -/
def Obligations.FloatRounding : Prop :=
  ∀ (T : Ty) (r : Rounding) (neg : Bool) (m : Nat) (e : Int), tyFl T = true → r.rnd < 4 → r.ftz = false → 0 < m →
    (roundFin T r neg m e false).2 &&& flagOverflow = 0 →
    let x := FVal.fin neg m e
    let y := (roundFin T r neg m e false).1
    let v := decodeFloat T y
    let finite := fun (u : FVal) => isNan u = false ∧ u ≠ .inf true ∧ u ≠ .inf false
    let gap := fun (u w : FVal) => magnitude (addExact 0 u (negate w)).1
    y < 2 ^ tyBits T ∧ finite v ∧
    ((roundFin T r neg m e false).2 &&& flagInexact = 0 ↔ eqFloat v x = true) ∧
    ∀ p, p < 2 ^ tyBits T → finite (decodeFloat T p) →
      let u := decodeFloat T p
      (r.rnd = 0 → ltFloat (gap x u) (gap x v) = false ∧ (p ≠ y → eqFloat (gap x u) (gap x v) = true → y % 2 = 0)) ∧
      (r.rnd = 1 → ltFloat (magnitude x) (magnitude v) = false ∧
        (ltFloat (magnitude v) (magnitude u) = true → ltFloat (magnitude x) (magnitude u) = true)) ∧
      (r.rnd = 2 → ltFloat x v = false ∧ (ltFloat v u = true → ltFloat x u = true)) ∧
      (r.rnd = 3 → ltFloat v x = false ∧ (ltFloat u v = true → ltFloat u x = true))

/-- R58, R59, R117, R118: for integers without saturation the fixed tree and the running combination are the plain totals. -/
def Obligations.LaneTotals : Prop :=
  ∀ (s : State) (c : Ctx) (d a : Reg) (excl : Bool) (o : BitVec 2), tyInt c.ty = true → o.toNat < 3 →
    let T := c.ty
    let A := fun l => intOf T (c.value (srcR a) l)
    let total := fun (op : Combine) (keep : Nat → Bool) =>
      let ls := (lanesOf c.eff).filter keep
      fill T (reduceInt T false (match op with
        | .add => ls.foldl (fun x l => x + A l) 0
        | .min => ls.foldl (fun x l => min x (A l)) (intMax T)
        | .max => ls.foldl (fun x l => max x (A l)) (intMin T)))
    (modeSat c.cur.mode = false → RunsPrivately (.redadd d a) s c →
      Writes (.redadd d a) s c (fun _ => total .add fun _ => true) 0) ∧
    (RunsPrivately (.redmin d a) s c → Writes (.redmin d a) s c (fun _ => total .min fun _ => true) 0) ∧
    (RunsPrivately (.redmax d a) s c → Writes (.redmax d a) s c (fun _ => total .max fun _ => true) 0) ∧
    ((modeSat c.cur.mode = false ∨ o ≠ 0) → RunsPrivately (.scan d a excl o) s c →
      Writes (.scan d a excl o) s c (fun l => total (combineOf o) fun k => decide (k < l) || (!excl && decide (k = l))) 0)

/-- R28, R90, R107, R108, R115, R116: the words that read or write predicates, and MOV. -/
def Obligations.PredicateWords : Prop :=
  (∀ (s : State) (c : Ctx) (cond : BitVec 4) (p : BitVec 3) (a b : Reg),
    Runs (.cmp cond p a b) s c → c.below (.cmp cond p a b) →
    let r := fun l => compareLane cond c.ty (modeFtz c.cur.mode) (c.value (srcR a) l) (c.value (srcR b) l)
    ∃ t th, exec (.cmp cond p a b) s = .next t ∧ OnlyThread c.ref s t ∧ t.threadAt c.ref = some th ∧
      (∀ n l, n < 8 → l < 32 → hasLane (th.pred n) l =
        if n = p.toNat ∧ n ≠ 0 ∧ hasLane c.eff l = true then (r l).1 else hasLane (c.thread.pred n) l) ∧
      th.flags = (if c.thread.ccp then c.thread.flags
        else c.thread.flags ||| (lanesOf c.eff).foldl (fun f l => f ||| (r l).2) 0) ∧
      th.paths = (c.passed (.cmp cond p a b)).paths ∧
      { th with preds := c.thread.preds, ppois := c.thread.ppois, flags := c.thread.flags, paths := c.thread.paths,
                turn := c.thread.turn } = c.thread) ∧
  (∀ (T : Ty) (ftz : Bool) (x y : Nat), tyInt T = true →
    [0, 1, 2, 3, 4, 5, 6, 7].map (fun n => compareLane (BitVec.ofNat 4 n) T ftz x y) =
      [decide (intOf T x = intOf T y), decide (intOf T x ≠ intOf T y), decide (intOf T x < intOf T y),
       decide (intOf T x ≤ intOf T y), decide (intOf T y < intOf T x), decide (intOf T y ≤ intOf T x), true, false].map
        fun v => (v, 0)) ∧
  (∀ (s : State) (c : Ctx) (d a b : Reg), Runs (.sel d a b) s c → c.below (.sel d a b) →
    let pick := fun l => if modeGn c.cur.mode = hasLane (c.thread.pred (modeG c.cur.mode)) l then c.value (srcR b) l
      else c.value (srcR a) l
    c.eff = c.cur.mask ∧
    Writes (.sel d a b) s c (fun l => if isScalar d then pick (lowestLane c.cur.mask) else pick l) 0) ∧
  (∀ (s : State) (c : Ctx) (d : Reg) (p : BitVec 3) (k : BitVec 2), Runs (.vote d p k) s c → c.below (.vote d p k) →
    let P := c.thread.pred p.toNat
    Writes (.vote d p k) s c (fun _ =>
      if k = 0 then (P &&& c.eff).toNat
      else if k = 1 then (if P &&& c.eff = c.eff then 1 else 0)
      else if P &&& c.eff ≠ 0 then 1 else 0) 0) ∧
  (∀ (s : State) (c : Ctx) (d : Reg) (p : BitVec 3), Runs (.pmovToScalar d p) s c → c.below (.pmovToScalar d p) →
    Writes (.pmovToScalar d p) s c (fun _ =>
      if p = 0 then (if c.thread.ccp then 1 else 0xFFFFFFFF) else (c.thread.pred p.toNat).toNat) 0) ∧
  (∀ (s : State) (c : Ctx) (p : BitVec 3) (a : Reg), Runs (.pmovToPredicate p a) s c → c.below (.pmovToPredicate p a) →
    ∃ t th, exec (.pmovToPredicate p a) s = .next t ∧ OnlyThread c.ref s t ∧ t.threadAt c.ref = some th ∧
      (∀ n l, n < 8 → l < 32 → hasLane (th.pred n) l =
        if n = p.toNat ∧ n ≠ 0 ∧ hasLane c.eff l = true then hasLane (c.uniform a) l else hasLane (c.thread.pred n) l) ∧
      th.paths = (c.passed (.pmovToPredicate p a)).paths ∧
      { th with preds := c.thread.preds, ppois := c.thread.ppois, paths := c.thread.paths, turn := c.thread.turn } =
        c.thread) ∧
  (∀ (s : State) (c : Ctx) (d a : Reg), Runs (.mov d a) s c → c.below (.mov d a) → d ≠ a → c.moveJoins d a = false →
    Writes (.mov d a) s c (fun l => c.value (srcR a) l) 0)

/-- R23, R146, R158, R159: the branches, calls and returns, with their frame. -/
def Obligations.BranchWords : Prop :=
  ∀ (s : State) (c : Ctx),
    let next := c.cur.pc + 4
    let window := c.launch.window c.thread.ccp
    let bad := fun (i : Instr) (va : Nat) => c.thread.ccp = false → c.eff = c.cur.mask →
      Parks i s c
        { cause := .address, lanes := c.cur.mask, synd := 0, unit := 0, tile := 0, va := va, pc := c.cur.pc, seq := c.seq }
    let calls := fun (x : Slot) (target : Word) => { x.writeScalar 31 next.toNat false with pc := target }
    (Runs .nop s c → c.below .nop → Leaves .nop s c (c.after fun x => { x with pc := next })) ∧
    (∀ o, Runs (.bra o) s c → Leaves (.bra o) s c (c.after fun x => { x with pc := next + 4 * o.signExtend 32 })) ∧
    (∀ o, Runs (.joinat o) s c → c.below (.joinat o) →
      Leaves (.joinat o) s c (c.after fun x => { x with pc := next, jpc := next + 4 * o.signExtend 32 })) ∧
    (∀ n o, Runs (.loop (.s n) o) s c → c.below (.loop (.s n) o) →
      Leaves (.loop (.s n) o) s c (c.after fun x =>
        { x.writeScalar n.val (c.scalar n.val - 1).toNat false with
          pc := if c.scalar n.val = 1 then next else next + 4 * o.signExtend 32 })) ∧
    (∀ o, Runs (.call o) s c → Leaves (.call o) s c (c.after fun x => calls x (next + 4 * o.signExtend 32))) ∧
    (∀ a (x : Word), Runs (.callx a) s c → c.pair a = window * 2 ^ 32 + x.toNat → x.toNat % 4 = 0 →
      Leaves (.callx a) s c (c.after fun y => calls y x)) ∧
    (∀ a (x : Word), Runs (.brx a) s c → c.pair a = window * 2 ^ 32 + x.toNat → x.toNat % 4 = 0 →
      Leaves (.brx a) s c (c.after fun y => { y with pc := x })) ∧
    (∀ a, (c.pair a / 2 ^ 32 ≠ window ∨ c.pair a % 4 ≠ 0) →
      (Runs (.callx a) s c → bad (.callx a) (c.pair a % 2 ^ 56)) ∧ (Runs (.brx a) s c → bad (.brx a) (c.pair a % 2 ^ 56))) ∧
    (Runs .ret s c → (c.scalar 31).toNat % 4 = 0 → Leaves .ret s c (c.after fun x => { x with pc := c.scalar 31 })) ∧
    (Runs .ret s c → (c.scalar 31).toNat % 4 ≠ 0 → bad .ret (window * 2 ^ 32 + (c.scalar 31).toNat))

/-- R151, R152, R153, R259: divergence and reconvergence. `mergeDue` says that each slot of the frame is at its join or empty, and that
nothing of the wave is parked or logged; `mergeWaits` that it still expects a scalar (R36). -/
def Obligations.SplitAndMerge : Prop :=
  (∀ (s : State) (c : Ctx) (p : BitVec 3) (inv : Bool) (o : BitVec 20), Runs (.brp p inv o) s c → c.below (.brp p inv o) →
    let i := Instr.brp p inv o
    let P := c.thread.pred p.toNat
    let T := c.eff &&& (if inv then ~~~P else P)
    let next := c.cur.pc + 4
    let target := next + 4 * o.signExtend 32
    let x := c.cur
    (c.thread.depth ≠ 0 → Leaves i s c
      (c.after fun y => { y with pc := if hasLane T (lowestLane c.eff) then target else next })) ∧
    (c.thread.depth = 0 → T = 0 → Leaves i s c (c.after fun y => { y with pc := next })) ∧
    (c.thread.depth = 0 → T = x.mask → Leaves i s c (c.after fun y => { y with pc := target })) ∧
    (c.thread.depth = 0 → T ≠ 0 → T ≠ x.mask → (c.thread.paths.frame = none ∨ c.thread.paths.stack.length < 2) →
      ∃ t th, exec i s = .next t ∧ OnlyThread c.ref s t ∧ t.threadAt c.ref = some th ∧
        th.paths.slot0.mask = x.mask &&& ~~~T ∧ th.paths.slot0.pc = next ∧ th.paths.slot1.mask = T ∧
        th.paths.slot1.pc = target ∧
        (∀ k, (th.paths.slot k).mode = x.mode ∧ (th.paths.slot k).fmt = x.fmt ∧ (th.paths.slot k).jpc = x.jpc ∧
          (th.paths.slot k).sregs = x.sregs ∧ (th.paths.slot k).spois = x.spois ∧
          (th.paths.slot k).park = x.park) ∧
        th.paths.frame = some { j := x.jpc, mode := x.mode, fmt := x.fmt } ∧
        (c.thread.paths.frame = none → th.paths.stack = c.thread.paths.stack) ∧
        (∀ f, c.thread.paths.frame = some f → th.paths.stack =
          { slot := c.thread.paths.slot (!c.slot), number := !c.slot, frame := f } :: c.thread.paths.stack) ∧
        th.paths.spillPtr = c.thread.paths.spillPtr ∧ th.paths.buried = c.thread.paths.buried ∧
        { th with paths := c.thread.paths, turn := c.thread.turn } = c.thread)) ∧
  (∀ (s : State) (t : ThreadRef) (th : Thread) (f : Frame), s.threadAt t = some th → mergeDue th = true →
    mergeWaits s t th = false → th.paths.frame = some f → th.paths.stack = [] → (th.paths.slot0.mask ||| th.paths.slot1.mask) ≠ 0 →
    ∃ u x, exec (.joinMerge t) s = .next u ∧ OnlyThread t s u ∧ u.threadAt t = some x ∧
      x.paths.slot0.mask = th.paths.slot0.mask ||| th.paths.slot1.mask ∧ x.paths.slot0.pc = f.j ∧
      x.paths.slot0.mode = f.mode ∧ x.paths.slot0.fmt = f.fmt ∧ x.paths.slot0.jpc = 0 ∧ x.paths.slot0.park = none ∧
      x.paths.slot0.sregs = (if th.paths.slot0.mask ≠ 0 then th.paths.slot0.sregs else th.paths.slot1.sregs) ∧
      x.paths.slot1.mask = 0 ∧ x.paths.frame = none ∧ x.paths.stack = [] ∧ { x with paths := th.paths } = th)

/-- R155, R160, R267: EXIT and the end of a wave. -/
def Obligations.ExitAndWaveEnd : Prop :=
  (∀ (s : State) (c : Ctx), Runs .exit s c → c.thread.supervisor = false → c.thread.depth = 0 → c.thread.saved = [] →
    (c.eff ≠ c.cur.mask → c.below .exit →
      Leaves .exit s c (c.after fun x => { x with mask := c.cur.mask &&& ~~~c.eff, pc := c.cur.pc + 4 })) ∧
    (c.eff = c.cur.mask → ((c.thread.paths.slot (!c.slot)).mask ≠ 0 ∨ c.thread.paths.stack ≠ []) →
      Leaves .exit s c (c.after fun x => { x with mask := 0 })) ∧
    (c.eff = c.cur.mask → (c.thread.paths.slot (!c.slot)).mask = 0 → c.thread.paths.stack = [] →
      ∃ t th, exec .exit s = .next t ∧ OnlyThread c.ref s t ∧ t.threadAt c.ref = some th ∧ th.ended = true ∧
        (∀ k, (th.paths.slot k).mask = 0) ∧ th.vregs = c.thread.vregs ∧ th.stores = c.thread.stores ∧
        th.loads = c.thread.loads ∧ th.cmds = c.thread.cmds)) ∧
  (∀ (s : State) (c : Ctx), Runs .exit s c → c.thread.supervisor = true → c.thread.saved ≠ [] → c.block.aborted = false →
    ∃ t b, exec .exit s = .next t ∧ t.blockAt c.ref.core c.ref.block = some b ∧ b.aborted = true ∧
      (∀ n x, find b.threads n = some x → x.ended = true) ∧ t.mem = s.mem) ∧
  (∀ (s : State) (t : ThreadRef) (th : Thread), s.threadAt t = some th → endDue s t th = true →
    ∃ u, exec (.waveEnd t) s = .next u ∧ u.threadAt t = none ∧ u.mem = s.mem ∧ u.poison = s.poison)

/-- R149, R150, R156, R161: the wave scheduler. -/
def Obligations.SchedulerSteps : Prop :=
  (∀ (s : State) (c : Ctx) (n : BitVec 16), Runs (.sleep n) s c → c.below (.sleep n) → c.cur.park = none →
    Leaves (.sleep n) s c (c.after fun x =>
      { x with pc := c.cur.pc + 4, hold := if n = 0 then .free else .sleep n.toNat })) ∧
  (∀ (s : State) (t : ThreadRef) (th : Thread) (k : Bool) (n : Nat), s.threadAt t = some th →
    (th.paths.slot k).hold = .sleep n →
    Makes (.sleepExpiry t k) s t (th.modSlot k fun x => { x with hold := .free })) ∧
  (∀ (s : State) (c : Ctx), Runs .yield s c → c.below .yield →
    let q := findD (s.coreAt c.ref.core).quads c.thread.quad freshQuadrant
    ∃ t q', exec .yield s = .next t ∧ OnlyCore c.ref.core s t ∧ SameMemory s t ∧
      t.threadAt c.ref = some (c.passed .yield) ∧ findD (t.coreAt c.ref.core).quads c.thread.quad freshQuadrant = q' ∧
      (∀ m, m ≠ c.thread.quad → find (t.coreAt c.ref.core).quads m = find (s.coreAt c.ref.core).quads m) ∧
      match pendingReady (c.stepOn (c.begun s)) c.ref.core q with
      | some into => q' = if q.active.contains (waveKey c.ref) then
          { q with active := q.active.map fun x => if x = waveKey c.ref then into else x
                   pending := q.pending.filter (· ≠ into) ++ [waveKey c.ref] } else q
      | none => q' = q) ∧
  (∀ (s : State) (core quad out into : Nat),
    let q := findD (s.coreAt core).quads quad freshQuadrant
    let done := fun (i : Instr) => ∃ t, exec i s = .next t ∧ OnlyCore core s t ∧
      { t.coreAt core with quads := (s.coreAt core).quads } = s.coreAt core ∧
      (∀ m, m ≠ quad → find (t.coreAt core).quads m = find (s.coreAt core).quads m) ∧
      findD (t.coreAt core).quads quad freshQuadrant =
        { q with active := q.active.map fun x => if x = out then into else x
                 pending := q.pending.filter (· ≠ into) ++ [out] }
    (exchangeOut s core q = some out → pendingReady s core q = some into → done (.activeSetExchange core quad)) ∧
    (staleWave q = some out → readyLongest s core q = some into → done (.pendingPromotion core quad))) ∧
  (∀ (s : State) (core block : Nat) (b : Block), s.blockAt core block = some b → deadlocked s core block b = true →
    ∃ t, exec (.blockDeadlock core block) s = .next t ∧ t.mem = s.mem ∧ t.poison = s.poison ∧
      ∀ n th k, find b.threads n = some th → th.ccp = false → th.ended = false → (th.paths.slot k).mask ≠ 0 →
        ∃ x info, t.threadAt ⟨core, block, n⟩ = some x ∧ (x.paths.slot k).park = some info ∧ info.cause = .deadlock ∧
          info.lanes = (th.paths.slot k).mask ∧ info.pc = (th.paths.slot k).pc ∧
          (x.paths.slot k).pc = (th.paths.slot k).pc)

/-- R61, R62, R77, R78, R94, R95: the settings of a slot and the two words on bindings. -/
def Obligations.SlotSettings : Prop :=
  ∀ (s : State) (c : Ctx),
    (∀ x, Runs (.mode x) s c → c.below (.mode x) →
      Leaves (.mode x) s c (c.after fun y => { y with pc := c.cur.pc + 4, mode := x })) ∧
    (∀ a, Runs (.setf a) s c → c.below (.setf a) →
      Leaves (.setf a) s c (c.after fun y => { y with pc := c.cur.pc + 4, fmt := c.uniform a &&& 0x00FFFFFF })) ∧
    (∀ d (n : Fin 192), gate (.tagof d (.v n)) s = .go c → c.below (.tagof d (.v n)) → c.guardPoison = 0 →
      (find c.thread.bound n.val = none → Writes (.tagof d (.v n)) s c (fun _ => 0xFFFFFFFF) 0) ∧
      (∀ e x, find c.thread.bound n.val = some e → find c.core.entries e = some x →
        Writes (.tagof d (.v n)) s c (fun _ =>
          e + (if x.state = .pending then 65536 else 0) + if x.state = .dead then 131072 else 0) 0)) ∧
    (∀ n : Fin 192, gate (.vsdrop (.v n)) s = .go c → c.below (.vsdrop (.v n)) →
      boundPending c.core c.thread (.v n) = false → c.guardPoison = 0 →
      ∃ t th, exec (.vsdrop (.v n)) s = .next t ∧ OnlyThread c.ref s t ∧ t.threadAt c.ref = some th ∧
        find th.bound n.val = none ∧ (∀ m, m ≠ n.val → find th.bound m = find c.thread.bound m) ∧
        (∀ k r l, l < 32 → t.register c.ref k r l = s.register c.ref k r l) ∧
        th.paths = (c.passed (.vsdrop (.v n))).paths ∧
        { th with bound := c.thread.bound, behind := c.thread.behind, vregs := c.thread.vregs, vpois := c.thread.vpois,
                  paths := c.thread.paths, turn := c.thread.turn } = c.thread)

/-- R31, R49, R96, R97, R211, R271, R302: the special registers. `Ctx.readSpecial` is the table of R31 and R271. -/
def Obligations.SpecialMoves : Prop :=
  ∀ (s : State) (c : Ctx) (d : Reg) (i : BitVec 16), c.flagsWait i.toNat s = false →
    let x := c.uniform d
    let reads := fun (w : Instr) => c.below w →
      (i ≠ 0 → Writes w s c (fun _ => c.readSpecial i.toNat s) 0) ∧
      (i = 0 → c.thread.ccp = false → ∃ t th, exec w s = .next t ∧ OnlyThread c.ref s t ∧ t.threadAt c.ref = some th ∧
        (∀ l ∈ c.outs w, t.register c.ref c.slot d l = some (cycleOf c.ref.core s.born s.tick % 2 ^ 32)) ∧
        (th.paths.slot c.slot).cycleh = BitVec.ofNat 32 (cycleOf c.ref.core s.born s.tick / 2 ^ 32) ∧
        (th.paths.slot c.slot).pc = c.cur.pc + 4)
    let trap := fun (w : Instr) (cause : Cause) => c.thread.ccp = false → c.eff = c.cur.mask → Parks w s c
      { cause := cause, lanes := c.cur.mask, synd := 0, unit := 0, tile := 0, va := 0, pc := c.cur.pc, seq := c.seq }
    let word := fun (y : Word) => y &&& 0xFFFFFFFC
    (Runs (.mfs d i) s c → (c.launch.det = false ∨ (i ≠ 0x000 ∧ i ≠ 0x001 ∧ i ≠ 0x01A ∧ i ≠ 0x01B)) → reads (.mfs d i)) ∧
    (Runs (.mfs d i) s c → c.launch.det = true → (i = 0x000 ∨ i = 0x001 ∨ i = 0x01A ∨ i = 0x01B) →
      trap (.mfs d i) .orderDependent) ∧
    (Runs (.mfsv d i) s c → reads (.mfsv d i)) ∧
    (∀ w, (w = .mts d i ∨ w = .mtsv d i) → Runs w s c → c.thread.ccp = false → c.below w →
      (i = 0x00B → Leaves w s c (c.after fun y => { y with pc := c.cur.pc + 4, mode := x.setWidth 16 &&& 0x0FFF })) ∧
      (i = 0x00C → Leaves w s c (c.after fun y => { y with pc := c.cur.pc + 4, fmt := x &&& 0x00FFFFFF })) ∧
      (i = 0x00D → Leaves w s c (c.after fun y => { y with pc := c.cur.pc + 4, jpc := word x })) ∧
      (i = 0x00E → Leaves w s c { c.passed w with flags := c.thread.flags &&& ~~~(x.setWidth 5) }) ∧
      (i = 0x00F → (x = 0 ∨ 2 ≤ popCount 32 x.toNat ∧ popCount 32 x.toNat ≤ 6) →
        Leaves w s c { c.passed w with gang := x }) ∧
      (i = 0x00F → x ≠ 0 → (popCount 32 x.toNat < 2 ∨ 6 < popCount 32 x.toNat) → trap w .gang) ∧
      (i = 0x01D → Leaves w s c { c.passed w with utrapbase := word x }) ∧
      (i.toNat < 0x100 → i ≠ 0x00B → i ≠ 0x00C → i ≠ 0x00D → i ≠ 0x00E → i ≠ 0x00F → i ≠ 0x01D →
        Leaves w s c (c.passed w))) ∧
    (Runs (.mtsv d i) s c → c.below (.mtsv d i) → 0x100 ≤ i.toNat →
      ∃ t, exec (.mtsv d i) s = .next t ∧ t.threadAt c.ref = some (c.passed (.mtsv d i)) ∧ SameMemory s t ∧
        (∀ p, p ≠ c.part → t.partAt p = s.partAt p) ∧ (∀ k, k ≠ c.ref.core → t.coreAt k = s.coreAt k) ∧
        (t.coreAt c.ref.core).fltcnt = (if i = 0x104 then x.toNat else (s.coreAt c.ref.core).fltcnt) ∧
        t.partAt c.part =
          (if i = 0x100 then { s.partAt c.part with trapbase := word x }
           else if i = 0x101 then { s.partAt c.part with ptroot := x &&& 0xFFFFE000 }
           else if i = 0x102 then { s.partAt c.part with ptrooth := x &&& 0x000FFFFF }
           else if i = 0x103 then { s.partAt c.part with pool := x }
           else if i = 0x105 then { s.partAt c.part with dumpva := x }
           else if i = 0x106 then { s.partAt c.part with dumpvah := x &&& 0x00FFFFFF }
           else if i = 0x109 then { s.partAt c.part with testen := x &&& 0x1F }
           else s.partAt c.part))

/-- R169 to R172, R175, R274: translation registers, their walks, and invalidation. -/
def Obligations.TranslationWords : Prop :=
  (∀ (s : State) (c : Ctx) (n : BitVec 3) (a b : Reg), Runs (.xlat n a b) s c →
    (c.pair a < 2 ^ 56 → walksInFlight s (dieOf c.ref.core) < 32 → c.below (.xlat n a b) →
      ∃ t th w, exec (.xlat n a b) s = .next t ∧ OnlyCore c.ref.core s t ∧ SameMemory s t ∧ t.threadAt c.ref = some th ∧
        th.treg n.toNat = { c.thread.treg n.toNat with base := c.pair a, busy := true } ∧
        (∀ m, m ≠ n.toNat → th.treg m = c.thread.treg m) ∧
        { th with tregs := c.thread.tregs } = c.passed (.xlat n a b) ∧
        (t.coreAt c.ref.core).walks = (s.coreAt c.ref.core).walks ++ [w] ∧ w.thread = c.ref ∧ w.va = c.pair a ∧
        w.xlat = some n.toNat ∧ w.limit = (c.uniform b).toNat ∧ w.result = none ∧ w.slot = c.slot ∧ w.depth = c.thread.depth) ∧
    (2 ^ 56 ≤ c.pair a → c.thread.ccp = false → c.eff = c.cur.mask → Parks (.xlat n a b) s c
      { cause := .address, lanes := c.cur.mask, synd := 0x40, unit := 0, tile := 0, va := c.pair a % 2 ^ 56,
        pc := c.cur.pc, seq := c.seq })) ∧
  (∀ (s : State) (core id : Nat) (w : Walk) (th : Thread), walkOpen s core id = some w → s.threadAt w.thread = some th →
    let r := walkPages s (partOf s w.thread) w.va
    let written := fun (old new : TReg) =>
      (old.busy = true ∧ old.base = w.va →
        new.busy = false ∧ new.base = w.va ∧
        (∀ e, r = .leaf e → new.frame = e.frame + w.va % 2 ^ e.log ∧ new.r = e.r ∧ new.w = e.w ∧ new.sealed = e.sealed ∧
          new.tier = e.tier ∧ new.log = e.log ∧ new.limit = min w.limit (2 ^ e.log - w.va % 2 ^ e.log)) ∧
        ((∀ e, r ≠ .leaf e) → new.limit = 0)) ∧
      (old.busy = false ∨ old.base ≠ w.va → new = old)
    ∃ t x, exec (.pageWalkComplete core id) s = .next t ∧ t.threadAt w.thread = some x ∧ SameMemory s t ∧
      (∀ n, w.xlat = some n → { x with tregs := th.tregs, saved := th.saved } = th ∧ (∀ m, m ≠ n → x.treg m = th.treg m) ∧
        written (th.treg n) (x.treg n) ∧
        (∀ (j : Nat) v, th.saved[j]? = some v → ∃ y, x.saved[j]? = some y ∧ { y with t6 := v.t6, t7 := v.t7 } = v ∧
          (if n = 6 then written v.t6 y.t6 else y.t6 = v.t6) ∧ (if n = 7 then written v.t7 y.t7 else y.t7 = v.t7))) ∧
      (w.xlat = none → x = th ∧ ∃ v ∈ (t.coreAt core).walks, v = { w with result := some r })) ∧
  (∀ (s : State) (c : Ctx) (a b : Reg), Runs (.tlbinv a b) s c → c.below (.tlbinv a b) →
    storesDrained c.thread = true →
    let x := (c.uniform b).toNat
    let va := c.pair a
    let inScope := fun k => if x / 4 % 4 = 0 then k = c.ref.core else x / 4 % 4 = 1 → dieOf k = dieOf c.ref.core
    ∃ t, exec (.tlbinv a b) s = .next t ∧ SameMemory s t ∧
      (∀ k, inScope k → (t.coreAt k).tlb = (s.coreAt k).tlb.filter fun e => !e.hit c.part x va) ∧
      (∀ k, ¬inScope k → (t.coreAt k).tlb = (s.coreAt k).tlb) ∧
      (∀ u th, s.threadAt u = some th → ∃ y, t.threadAt u = some y ∧ y.vregs = th.vregs ∧ y.bound = th.bound ∧
        ∀ n, y.treg n = if inScope u.core ∧ partOf s u = c.part then (th.treg n).forget x va else th.treg n) ∧
      (∀ r : TReg, r.forget x va =
        if r.limit ≠ 0 ∧ spanMeets x va (r.base / 2 ^ r.log * 2 ^ r.log) (2 ^ r.log) = true then { r with limit := 0 } else r) ∧
      (t.threadAt c.ref).map (fun y => (y.paths.slot c.slot).pc) = some (c.cur.pc + 4))

/-- R300 to R302, R319, R322, R360, R361: raising a grid, phases, gears and regions. GRAISE is held until the wave's older accesses are
performed: R300 fixes the order alone, and how it is kept is the model's choice (log 54). -/
def Obligations.GridAndRegionWords : Prop :=
  ∀ (s : State) (c : Ctx),
    let trap := fun (w : Instr) (cause : Cause) => c.thread.ccp = false → c.eff = c.cur.mask → Parks w s c
      { cause := cause, lanes := c.cur.mask, synd := 0, unit := 0, tile := 0, va := 0, pc := c.cur.pc, seq := c.seq }
    (∀ d a, Runs (.graise d a) s c → c.below (.graise d a) →
      let n := (c.uniform a).toNat
      (c.launch.det = true → trap (.graise d a) .orderDependent) ∧
      (c.launch.det = false → c.released = true → (n % c.launch.clusterSize ≠ 0 ∨ 2 ^ 32 ≤ c.launch.nblk + n) →
        Writes (.graise d a) s c (fun _ => 0xFFFFFFFF) 0) ∧
      (c.launch.det = false → c.released = false →
        Leaves (.graise d a) s c (c.heldAt .queue)) ∧
      (c.launch.det = false → c.released = true → n % c.launch.clusterSize = 0 → c.launch.nblk + n < 2 ^ 32 →
        s.launchAt c.block.launch = some c.launch →
        ∃ t l, exec (.graise d a) s = .next t ∧ t.launchAt c.block.launch = some l ∧ l.nblk = c.launch.nblk + n ∧
          t.register c.ref c.slot d 0 = some c.launch.nblk ∧ SameMemory s t ∧
          (t.threadAt c.ref).map (fun y => (y.paths.slot c.slot).pc) = some (c.cur.pc + 4) ∧
          (∀ m, m ≠ c.block.launch → t.launchAt m = s.launchAt m) ∧
          (n ≠ 0 → c.launch.state = .dispatching ∨ c.launch.state = .running → l.state = .dispatching ∧
            (t.partAt c.part).raised = (s.partAt c.part).raised ++ [(c.block.launch, c.launch.nblk, n)]))) ∧
    (∀ x, Runs (.phase x) s c → c.below (.phase x) →
      ∃ t b, exec (.phase x) s = .next t ∧ t.blockAt c.ref.core c.ref.block = some b ∧ b.marker = x.toNat ∧
        t.threadAt c.ref = some (c.passed (.phase x)) ∧ SameMemory s t ∧
        { b with marker := c.block.marker, request := c.block.request, threads := c.block.threads } = c.block ∧
        ((c.launch.kernel = 0 ∨ c.launch.det = true ∨ c.block.request % 2 = 0) → b.request = c.block.request)) ∧
    (∀ d a, Runs (.gear d a) s c → c.below (.gear d a) → c.cur.hold ≠ .gear →
      let r := (c.uniform a).toNat
      let g := (s.coreAt c.ref.core).gear
      let level := r / 16 % 4
      let bad := r / 512 ≠ 0 ∨ r / 64 % 4 ≠ 0 ∨ r / 2 % 8 ≠ 0 ∨ level = 3
      (bad → trap (.gear d a) .illegal) ∧
      (¬bad → c.launch.det = true → Writes (.gear d a) s c (fun _ => 4) 0) ∧
      (¬bad → c.launch.det = false → r % 2 = 1 → level < g.capLevel → Writes (.gear d a) s c (fun _ => 3) 0) ∧
      (¬bad → c.launch.det = false → r % 2 = 0 → pointVolt ⟨false, level⟩ < g.floor →
        Writes (.gear d a) s c (fun _ => 2) 0) ∧
      (¬bad → c.launch.det = false → r / 256 % 2 = 0 →
        (if r % 2 = 1 then g.capLevel ≤ level else g.floor ≤ pointVolt ⟨false, level⟩) →
        ∃ t b, exec (.gear d a) s = .next t ∧ t.blockAt c.ref.core c.ref.block = some b ∧ b.request = r % 64 ∧
          t.register c.ref c.slot d 0 = some (if g.point = ⟨decide (r % 2 = 1), level⟩ then 0 else 1) ∧
          OnlyBlock c.ref.core c.ref.block s t)) ∧
    (Runs .rgn s c → c.below .rgn → c.thread.paths.frame = none → (c.thread.paths.slot (!c.slot)).park = none →
      c.thread.depth = 0 → c.closeWaits = false →
      Leaves .rgn s c { c.passed .rgn with rgnpc := (c.cur.pc &&& 0xFFFFFFFC) + 1 }) ∧
    (Runs .rgn s c → (c.thread.paths.frame ≠ none ∨ c.thread.depth ≠ 0) → trap .rgn .illegal) ∧
    (Runs .rgnend s c → c.below .rgnend → c.closeWaits = false →
      Leaves .rgnend s c { c.passed .rgnend with rgnpc := c.thread.rgnpc &&& 0xFFFFFFFC })

/-- R164 to R168, R176, R178 to R180: the issue of loads. `Ctx.resolve` translates the lanes as R174 says; the value arrives with
LOAD_COMPLETE (see `LoadsComplete`). An LDGK whose keys all hit binds without an access, so nothing of its memory path holds it (R74).
That a sign-extended narrow LDGK has a key of its own is the model's choice (log 57). -/
def Obligations.LoadWords : Prop :=
  ∀ (s : State) (c : Ctx) (d o : Reg) (x w : BitVec 3) (h : BitVec 2),
    let s1 := dropWalks (c.begun s) c.ref
    let enters := fun (i : Instr) (space : Space) (accesses : List LaneAccess) =>
      ∃ t th op, exec i s = .next t ∧ OnlyCore c.ref.core s t ∧ SameMemory s t ∧ t.threadAt c.ref = some th ∧
        th.loads = c.thread.loads ++ [op] ∧ op.space = space ∧ op.dest = d ∧ op.size = 2 ^ w.toNat ∧
        op.signed = tySigned c.ty ∧ op.slot = c.slot ∧ op.accesses = accesses ∧ op.entries = [] ∧ op.order = c.seq ∧
        op.shared = (if isScalar d ∨ isUniform o then c.eff else 0) ∧ op.depth = c.thread.depth ∧
        op.logged = 0 ∧ (∀ k r l, l < 32 → t.register c.ref k r l = s.register c.ref k r l) ∧
        th.paths = (c.passed i).paths ∧ th.stores = c.thread.stores ∧ th.preds = c.thread.preds
    let global := fun (i : Instr) => Runs i s c → c.below i →
      let a := c.loadAccess .global (c.thread.treg x.toNat) d o w h.toNat
      let r := c.resolve (c.begun s) a
      c.accessWaits a = false → r.walks = [] → r.fails = [] →
      c.keyedLoad (c.begun s) a d o r = false ∨ i = .ldg d o x w h → enters i .global r.ok
    let region := fun (i : Instr) (space : Space) => Runs i s c → c.below i →
      let a := c.loadAccess space freshTReg d o w
      let fits := fun l => c.reg o l + 2 ^ w.toNat ≤ c.launch.regionSize (spaceCode space) ∧ c.reg o l % 2 ^ w.toNat = 0
      let lanes := c.accessLanes a
      c.accessWaits a = false →
      ((∀ l ∈ lanes, fits l) →
        enters i space (lanes.map fun l => { lane := l, va := c.reg o l, parts := [], remote := [] })) ∧
      ((∀ l ∈ lanes, ¬fits l) → c.eff = c.cur.mask → c.thread.ccp = false →
        ∃ t, exec i s = .next t ∧ OnlyCore c.ref.core s t ∧ SameMemory s t ∧ t.threadAt c.ref = some (c.parkedWhole
          { cause := .address, lanes := c.cur.mask, synd := BitVec.ofNat 32 (spaceCode space), unit := 0, tile := 0,
            va := c.reg o (lanes.getD 0 0), pc := c.cur.pc, seq := c.seq }))
    global (.ldg d o x w h) ∧ global (.ldgk d o x w h) ∧ region (.lds d o w) .sm ∧
    region (.ldb d o 0 w) .ab ∧ region (.ldb d o 1 w) .cb ∧
    (∀ (n : Fin 192) (k1 k2 : Core) (tags : List Nat) (e : Nat) (f : Flags) (new : Bool), d = .v n → w.toNat ≤ 2 →
      Runs (.ldgk d o x w h) s c → c.below (.ldgk d o x w h) →
      let a := c.loadAccess .global (c.thread.treg x.toNat) d o w h.toNat
      let r := c.resolve (c.begun s) a
      (c.accessWaits a = false ∨ c.keysHit (.ldgk d o x w h) a o (c.begun s) = true) → r.walks = [] →
      c.keyedLoad (c.begun s) a d o r = true →
      resolveTags c s.tick (s1.coreAt c.ref.core) [] [o] = (k1, some tags) →
      (resolveKey k1 (c.loadKey (.ldgk d o x w h) a tags false) tags s.tick
        (c.pending (.ldgk d o x w h) false false) (c.waiter n.val)).parts = some (k2, e, f, new) →
      ∃ t th, exec (.ldgk d o x w h) s = .next t ∧ OnlyCore c.ref.core s t ∧ t.mem = s.mem ∧ t.threadAt c.ref = some th ∧
        find th.bound n.val = some e ∧ (∀ m, m ≠ n.val → find th.bound m = find c.thread.bound m) ∧
        th.paths = (c.passed (.ldgk d o x w h)).paths ∧
        (new = false → th.loads = c.thread.loads) ∧
        (new = true → ∃ op, th.loads = c.thread.loads ++ [op] ∧ op.entries = [some e] ∧ op.accesses = r.ok))

/-- R164 to R168, R178, R179, R181, R184, R302: the issue of stores and atomics. They are performed by STORE_PERFORMED and
ATOMIC_COMPLETE (see `StoresPerform`, `AtomicsComplete`). PRF changes nothing but what the caches of its core and die hold. -/
def Obligations.StoreAndAtomicWords : Prop :=
  ∀ (s : State) (c : Ctx) (d o : Reg) (x w : BitVec 3) (h : BitVec 2),
    let enters := fun (i : Instr) (space : Space) (lanes : List LaneStore) (atomic : Option AtomicOp) =>
      ∃ t th op, exec i s = .next t ∧ OnlyCore c.ref.core s t ∧ SameMemory s t ∧ t.threadAt c.ref = some th ∧
        th.stores = c.thread.stores ++ [op] ∧ op.space = space ∧ op.lanes = lanes ∧ op.atomic = atomic ∧
        op.waiting = 0 ∧ op.seq = c.seq ∧ (∀ k r l, l < 32 → t.register c.ref k r l = s.register c.ref k r l) ∧
        th.paths = (c.passed i).paths ∧ th.loads = c.thread.loads ∧ th.preds = c.thread.preds
    let queues := fun (i : Instr) (a : Access) (n : Nat) (data : Nat → Nat) (atomic : Option AtomicOp) =>
      Runs i s c → c.below i → c.accessWaits a = false →
      let r := c.resolve (c.begun s) a
      let fits := fun l => c.reg o l + a.size ≤ c.launch.regionSize (spaceCode a.space) ∧ c.reg o l % a.size = 0
      (a.space = .global → r.walks = [] → r.fails = [] →
        enters i .global (r.ok.map fun y => { access := y, bytes := leBytes n (data y.lane), poison := false }) atomic) ∧
      (a.space ≠ .global → (∀ l ∈ c.accessLanes a, fits l) →
        enters i a.space ((c.accessLanes a).map fun l =>
          { access := { lane := l, va := c.reg o l, parts := [], remote := [] }, bytes := leBytes n (data l), poison := false })
          atomic)
    let width := 2 ^ w.toNat
    let data := fun l => c.value (srcR d (.mem w)) l
    let one := fun l => c.value (srcR d .one) l
    let two := fun l => c.value (srcR d .pair) l
    let op := fun (code : BitVec 3) (cas : Bool) (size scope : Nat) => AtomicOp.mk code cas (modeT c.cur.mode).toNat size d c.slot scope
    let unordered := fun (i : Instr) (ordered : Bool) (reg : TReg) (space : Space) (p : AtomicOp) (bytes : Nat → Nat) =>
      (¬(c.launch.det = true ∧ ordered = true) →
        queues i (c.atomicAccess ⟨space, reg, d, o, p, ordered⟩) 8 bytes (some p)) ∧
      (c.launch.det = true → ordered = true → Runs i s c → c.thread.ccp = false → c.eff = c.cur.mask →
        Parks i s c { cause := .orderDependent, lanes := c.cur.mask, synd := 0, unit := 0, tile := 0, va := 0, pc := c.cur.pc,
                      seq := c.seq })
    let t := c.thread.treg x.toNat
    queues (.stg d o x w h) (c.storeAccess .global t d o w h.toNat) width data none ∧
    queues (.sts d o w) (c.storeAccess .sm freshTReg d o w) width data none ∧
    queues (.stb d o 0 w) (c.storeAccess .ab freshTReg d o w) width data none ∧
    queues (.stb d o 1 w) (c.storeAccess .cb freshTReg d o w) width data none ∧
    (Runs (.prf o x h) s c → c.below (.prf o x h) →
      let r := c.resolve (c.begun s) (c.fillAccess t o h.toNat)
      ∃ u, exec (.prf o x h) s = .next u ∧ OnlyCore c.ref.core s { u with l2 := s.l2 } ∧ SameMemory s u ∧
        (∀ q, q ≠ c.ref → u.threadAt q = s.threadAt q) ∧
        u.threadAt c.ref = some (if r.walks = [] then c.passed (.prf o x h) else c.heldAt .walk)) ∧
    unordered (.atomg d o x w h) (orderedOp w c.ty) t .global (op w false 4 h.toNat) one ∧
    unordered (.atomg64 d o x w h) (w = 6) t .global (op w false 8 h.toNat) two ∧
    unordered (.casg d o x h) true t .global (op 0 true 4 h.toNat) two ∧
    unordered (.atoms d o w) (orderedOp w c.ty) freshTReg .sm (op w false 4 0) one ∧
    unordered (.cass d o) true freshTReg .sm (op 0 true 4 0) two

/-- R168, R178, R179, R191, R192: the end of a load. `ownView` is memory with the thread's older queued stores performed,
and `withOwn` puts those to other modules over what a home has answered; the stores that the load returns are marked (R196). -/
def Obligations.LoadsComplete : Prop :=
  ∀ (s : State) (t : ThreadRef) (th : Thread) (x : LoadOp), s.threadAt t = some th →
    loadNext th (loadsArrived (s.coreAt t.core) t) = some x → x.entries = [] → x.tainted = 0 →
    (∀ a ∈ x.accesses, remoteEnd s a = .data ∧ a.lane < 32) → unsentReads s x = false → loadWaits s th x = false →
    (s.coreAt t.core).gear.shift = none →
    (∀ b, s.blockAt t.core t.block = some b → ∀ e ∈ b.threads, e.2.arms = []) →
    (x.accesses.flatMap fun a => x.fills a.lane).Nodup → (isScalar x.dest = true → x.accesses.length = 1) →
    isSpecial x.dest = false → (th.depth ≤ x.depth ∨ th.saved.length = th.depth) →
    let part := partOf s t
    let bytes := fun a => (withOwn s th x.order a (readLane (ownView s t part x.order) t part x.space a x.size)).1
    let value := fun a => if x.size < 4 ∧ x.signed = true then wrapTo 32 (signedOf (8 * x.size) (leNat (bytes a))) else leNat (bytes a)
    ∃ u y, exec (.loadComplete t .clean) s = .next u ∧ SameMemory s u ∧ u.threadAt t = some y ∧
      ((∀ a ∈ x.accesses, a.remote = []) → OnlyCore t.core s { u with l2 := s.l2 }) ∧ (∀ r, r ≠ t → u.threadAt r = s.threadAt r) ∧
      (∀ a ∈ x.accesses, ∀ k r, (loadRegs x.dest x.size)[k]? = some r → (isVec r = true ∨ th.depth ≤ x.depth) →
        ∀ l ∈ x.fills a.lane, u.register t x.slot r l = some (value a / 2 ^ (32 * k) % 2 ^ 32)) ∧
      (∀ a ∈ x.accesses, ∀ k n, (loadRegs x.dest x.size)[k]? = some (.s n) →
        (findD ((y.pathsAt x.depth).slot x.slot).sregs n.val 0).toNat = value a / 2 ^ (32 * k) % 2 ^ 32) ∧
      (∀ k r l, l < 32 → (r ∉ loadRegs x.dest x.size ∨ isVec r = true ∧ (∀ a ∈ x.accesses, l ∉ x.fills a.lane) ∨
          isScalar r = true ∧ (k ≠ x.slot ∨ x.depth < th.depth)) →
        u.register t k r l = s.register t k r l) ∧
      y.preds = th.preds ∧ y.flags = th.flags ∧ y.exc = th.exc ∧ y.tregs = th.tregs ∧
      y.stores = (th.returnStores x.order x.space (x.accesses.map fun a => (a.va, x.size))).stores ∧
      (∀ k, (y.paths.slot k).pc = (th.paths.slot k).pc ∧ (y.paths.slot k).mask = (th.paths.slot k).mask)

/-- R165, R178, R179, R187, R359, R374: a store is performed, and its frame. The bytes stored to are those of the parts of its lanes
(`physKey`), or `regionKey` of its offsets. -/
def Obligations.StoresPerform : Prop :=
  ∀ (s : State) (t : ThreadRef) (th : Thread) (x : StoreOp), s.threadAt t = some th → storeNext th = some x →
    x.atomic = none → unsent s x = false → (∀ y ∈ x.lanes, laneEnd s y.access = .data ∧ remoteEnd s y.access = .data) →
    ((∀ y ∈ x.lanes, y.access.isRemote s = false) ∨ (s.coreAt t.core).gear.shift = none ∧ (s.coreAt t.core).fifo = []) →
    let key := (s.partAt (partOf s t)).key
    let core := spaceCode x.space
    let inLane := fun (y : LaneStore) (k : Nat) => regionKey core y.access.va ≤ k ∧ k < regionKey core y.access.va + y.bytes.length
    let inParts := fun (y : LaneStore) (a : Nat) => ∃ p ∈ y.access.parts, physKey p.1 ≤ a ∧ a < physKey p.1 + p.2
    let nearParts := fun (y : LaneStore) (a : Nat) => ∃ b, b / 16 = a / 16 ∧ inParts y b
    ∃ u, exec (.storePerformed t) s = .next u ∧ (u.threadAt t).map (·.stores) = some (th.stores.filter (· ≠ x)) ∧
      (∀ r, r ≠ t → u.threadAt r = s.threadAt r) ∧
      (x.space ≠ .global → u.mem = s.mem ∧ u.memKey = s.memKey ∧ u.poison = s.poison ∧
        (∀ k b code o, ¬(k = t.core ∧ b = t.block) → u.regionByte k b code o = s.regionByte k b code o) ∧
        (∀ code o, (∀ y ∈ x.lanes, ¬inLane y (regionKey code o)) →
          u.regionByte t.core t.block code o = s.regionByte t.core t.block code o) ∧
        (∀ before y after i, x.lanes = before ++ y :: after → i < y.bytes.length →
          (∀ z ∈ after, ¬inLane z (regionKey core (y.access.va + i))) →
          u.regionByte t.core t.block core (y.access.va + i) = some (y.bytes.getD i 0))) ∧
      (x.space = .global →
        (∀ k b code o, u.regionByte k b code o = s.regionByte k b code o) ∧
        (∀ a, (∀ y ∈ x.lanes, ¬inParts y a) → u.readByte key a = s.readByte key a) ∧
        (∀ k a, (∀ y ∈ x.lanes, ¬nearParts y a) → u.readByte k a = s.readByte k a) ∧
        (∀ before y after p i, x.lanes = before ++ y :: after → y.access.parts = [(p, y.bytes.length)] → isLocal s p = true →
          i < y.bytes.length → (∀ z ∈ after, ¬inParts z (physKey p + i)) →
          u.readByte key (physKey p + i) = y.bytes.getD i 0))

/-- R165, R183 to R185, R214, R217, R350: the end of an atomic, lane after lane in ascending order, each lane in the memory that the
lanes before it left; and of a post. -/
def Obligations.AtomicsComplete : Prop :=
  (∀ (s : State) (t : ThreadRef) (th : Thread) (x : StoreOp) (a : AtomicOp), s.threadAt t = some th →
    storeNext th = some x → x.atomic = some a → isSpecial a.dest = false → 0 < a.size →
    unsent s x = false → (∀ y ∈ x.lanes, remoteEnd s y.access = .data ∧ y.access.lane < 32) →
    (x.lanes.map fun y => y.access.lane).Nodup → (isVec a.dest = true ∨ x.lanes.length = 1 ∧ th.depth ≤ x.depth) →
    (s.coreAt t.core).gear.shift = none → (s.coreAt t.core).fifo = [] →
    (∀ b, s.blockAt t.core t.block = some b → ∀ e ∈ b.threads, e.2.arms = []) →
    let part := partOf s t
    let done := fun (ls : List LaneStore) => ls.foldl (fun s y => (atomicEnd s t part x.space a y).1) s
    let ended := fun (before : List LaneStore) (y : LaneStore) => (atomicEnd (done before) t part x.space a y).2
    (∀ before y rest, x.lanes = before ++ y :: rest → ∃ old, ended before y = (some old, .data, false)) →
    ∃ u, exec (.atomicComplete t .clean) s = .next u ∧ (u.threadAt t).map (·.stores) = some (th.stores.filter (· ≠ x)) ∧
      (∀ before y rest old, x.lanes = before ++ y :: rest → (ended before y).1 = some old →
        ∀ k r, (loadRegs a.dest a.size)[k]? = some r →
          u.register t a.slot r y.access.lane = some (old / 2 ^ (32 * k) % 2 ^ 32)) ∧
      (∀ k r l, l < 32 → (r ∉ loadRegs a.dest a.size ∨ isVec r = true ∧ ∀ y ∈ x.lanes, l ≠ y.access.lane) →
        u.register t k r l = s.register t k r l) ∧
      (∀ r, r ≠ t → u.threadAt r = s.threadAt r) ∧
      u.mem = (done x.lanes).mem ∧ u.memKey = (done x.lanes).memKey ∧ u.poison = (done x.lanes).poison ∧
      ∀ core block code o, u.regionByte core block code o = (done x.lanes).regionByte core block code o) ∧
  (∀ (s : State) (t : ThreadRef) (part : Nat) (space : Space) (a : AtomicOp) (y : LaneStore),
    laneEnd s y.access = .data →
    (y.access.remote = [] → ∀ u old, atomicLane s t part space a y = (u, old, false) →
      atomicEnd s t part space a y = (u, some old, .data, false)) ∧
    (∀ h n rest r, y.access.remote = (h, n) :: rest → answerOf s h n = .reply r → r.poison = false →
      atomicEnd s t part space a y = (s, some (leNat r.bytes), .data, false))) ∧
  (∀ (s : State) (t : ThreadRef) (part : Nat) (a : AtomicOp) (y : LaneStore) (b : Block),
    s.blockAt t.core t.block = some b → b.regionPoison 3 y.access.va a.size = false →
    let old := leNat (b.readRegion 3 y.access.va a.size)
    let new := (atomicStores a old (leNat y.bytes)).getD old
    let r := atomicLane s t part .sm a y
    r.2 = (old, false) ∧ r.1.mem = s.mem ∧ r.1.memKey = s.memKey ∧ r.1.poison = s.poison ∧
      (∀ i, i < a.size → r.1.regionByte t.core t.block 3 (y.access.va + i) = some ((leBytes a.size new).getD i 0)) ∧
      (∀ c n code o, ¬(c = t.core ∧ n = t.block) → r.1.regionByte c n code o = s.regionByte c n code o) ∧
      ∀ code o, (regionKey code o < regionKey 3 y.access.va ∨ regionKey 3 y.access.va + a.size ≤ regionKey code o) →
        r.1.regionByte t.core t.block code o = s.regionByte t.core t.block code o) ∧
  (∀ (s : State) (t : ThreadRef) (part : Nat) (a : AtomicOp) (y : LaneStore) (p : Nat),
    y.access.parts = [(p, a.size)] → isLocal s p = true → 0 < a.size → anyPoison s.poison (physKey p) a.size = false →
    let key := (s.partAt part).key
    let old := leNat (s.readMem key (physKey p) a.size)
    let new := (atomicStores a old (leNat y.bytes)).getD old
    let r := atomicLane s t part .global a y
    r.2 = (old, false) ∧ (∀ c n code o, r.1.regionByte c n code o = s.regionByte c n code o) ∧
      (∀ i, i < a.size → r.1.readByte key (physKey p + i) = (leBytes a.size new).getD i 0) ∧
      (∀ o, (o < physKey p ∨ physKey p + a.size ≤ o) → r.1.readByte key o = s.readByte key o) ∧
      ∀ k o, (o / 16 < physKey p / 16 ∨ (physKey p + a.size - 1) / 16 < o / 16) → r.1.readByte k o = s.readByte k o) ∧
  (∀ (T : Ty) (w old v : Nat), (T = .n32 ∧ w = 32 ∨ T = .n64 ∧ w = 64) → old < 2 ^ w → v < 2 ^ w →
    [0, 1, 2, 3, 4, 5, 6].map (fun n => atomicValue n T w old v) =
      [(old + v) % 2 ^ w, min old v, max old v, old &&& v, old ||| v, old ^^^ v, v]) ∧
  (∀ (T : Ty) (w old v : Nat), (T = .i32 ∧ w = 32 ∨ T = .i64 ∧ w = 64) → old < 2 ^ w → v < 2 ^ w →
    [0, 1, 2, 3, 4, 5, 6].map (fun n => atomicValue n T w old v) =
      [(old + v) % 2 ^ w, if signedOf w old ≤ signedOf w v then old else v,
       if signedOf w old ≤ signedOf w v then v else old, old &&& v, old ||| v, old ^^^ v, v]) ∧
  (∀ (a : AtomicOp) (old lo hi : Nat), a.cas = true → lo < 2 ^ 32 → hi < 2 ^ 32 →
    atomicStores a old (lo + 2 ^ 32 * hi) = if old = lo then some hi else none) ∧
  (∀ (s : State) (t : ThreadRef) (th : Thread) (b : Block) (x : PostOp) (r : Ring), s.threadAt t = some th →
    s.blockAt t.core t.block = some b → postNext (s.coreAt t.core) b t th = some (x, r) →
    ∃ u b' r', exec (.postWrite t) s = .next u ∧ u.blockAt t.core t.block = some b' ∧ find b'.rings x.ring = some r' ∧
      r' = { r with cp := r.plus r.cp 1, wp := r.plus r.wp 1 } ∧ (∀ n, n ≠ x.ring → find b'.rings n = find b.rings n) ∧
      (u.threadAt t).map (·.posts) = some (th.posts.drop 1) ∧ u.mem = s.mem ∧
      (∀ i, i < 4 → u.regionByte t.core t.block 3 (r.slotAt r.cp + i) = some ((leBytes 4 x.word.toNat).getD i 0)) ∧
      (∀ code o, (regionKey code o < regionKey 3 (r.slotAt r.cp) ∨ regionKey 3 (r.slotAt r.cp) + 4 ≤ regionKey code o) →
        u.regionByte t.core t.block code o = s.regionByte t.core t.block code o))

/-- R195, R196, R200, R204 to R208, R210, R211: synchronisation. A slot that is held stands at its word and issues it again; one
that BAR holds has issued it. `returnedBefore` is the cumulative part of a FENCE's predecessors: a store still queued that a load among
them has returned. ARRIVE goes on at once, and its arrival waits in the thread until the wave's older accesses are performed: R200 fixes
the order alone, and how it is kept is the model's choice (log 54). -/
def Obligations.SyncWords : Prop :=
  (∀ (s : State) (c : Ctx),
    let held := c.heldAt
    let trap := fun (w : Instr) (cause : Cause) => c.thread.ccp = false → c.eff = c.cur.mask → Parks w s c
      { cause := cause, lanes := c.cur.mask, synd := 0, unit := 0, tile := 0, va := 0, pc := c.cur.pc, seq := c.seq }
    let th := c.thread
    (∀ p u k, Runs (.fence p u k) s c → c.below (.fence p u k) →
      let n := c.fenceNumber
      let unperformed := p.getLsbD 0 = true ∧
          (loadsBefore th n = true ∨ enginesBefore c.core c.ref n = true ∨ returnedBefore th n = true) ∨
        p.getLsbD 1 = true ∧ (storesBefore th n false = true ∨ enginesBefore c.core c.ref n = true) ∨
        p.getLsbD 2 = true ∧ storesBefore th n true = true ∨ p.getLsbD 3 = true ∧ commandsBefore th n = true
      (∀ m v w, c.cur.hold = .fence m v w → n = m) ∧ ((∀ m v w, c.cur.hold ≠ .fence m v w) → n = c.seq) ∧
      (¬unperformed → Leaves (.fence p u k) s c (c.passed (.fence p u k))) ∧
      (unperformed → Leaves (.fence p u k) s c (held (.fence n p.toNat u.toNat)))) ∧
    (∀ n, Runs (.bar n) s c → Leaves (.bar n) s c (c.after fun x => { x with hold := .bar n.toNat })) ∧
    (∀ d n x, Runs (.arrive d n) s c → c.below (.arrive d n) → find s.clusters c.block.cluster = some x →
      (c.hasArrived x n.toNat = false → c.released = false →
        ∃ t th, exec (.arrive d n) s = .next t ∧ OnlyThread c.ref s t ∧ t.threadAt c.ref = some th ∧
          th.arriving = c.thread.arriving ++ [(n.toNat, c.seq)] ∧
          t.register c.ref c.slot d 0 = some ((findD x.counts n.toNat 0 + 1) % 65536) ∧
          (th.paths.slot c.slot).pc = c.cur.pc + 4) ∧
      (c.hasArrived x n.toNat = false → c.released = true →
        ∃ t y, exec (.arrive d n) s = .next t ∧ SameMemory s t ∧ find t.clusters c.block.cluster = some y ∧
          y.counts = x.counts ∧ (∀ w, w ∈ findD y.arrived n.toNat [] ↔ w ∈ findD x.arrived n.toNat [] ∨ w = c.memberName x) ∧
          (∀ m, m ≠ n.toNat → find y.arrived m = find x.arrived m) ∧
          t.register c.ref c.slot d 0 = some ((findD x.counts n.toNat 0 + 1) % 65536) ∧
          (t.threadAt c.ref).map (fun y => (y.paths.slot c.slot).pc) = some (c.cur.pc + 4)) ∧
      (c.hasArrived x n.toNat = true → Leaves (.arrive d n) s c (held (.arrive n.toNat)))) ∧
    (∀ n a, let reached := (c.phases n.toNat s + 65536 - (c.uniform a).toNat % 65536) % 65536 < 32768
      (Runs (.waitb n a) s c → c.below (.waitb n a) → reached → Leaves (.waitb n a) s c (c.passed (.waitb n a))) ∧
      (Runs (.waitb n a) s c → ¬reached → Leaves (.waitb n a) s c (held (.waitb n.toNat (c.uniform a).toNat))) ∧
      (∀ d, Runs (.testb d a n) s c → c.below (.testb d a n) → c.launch.det = false →
        Writes (.testb d a n) s c (fun _ => if reached then 1 else 0) 0) ∧
      (∀ d, Runs (.testb d a n) s c → c.launch.det = true → trap (.testb d a n) .orderDependent)) ∧
    (∀ p a, Runs (.waitc p a) s c → c.below (.waitc p a) →
      (pathCount c.core c.ref c.thread p.toNat ≤ (c.uniform a).toNat → Leaves (.waitc p a) s c (c.passed (.waitc p a))) ∧
      ((c.uniform a).toNat < pathCount c.core c.ref c.thread p.toNat → Leaves (.waitc p a) s c (held (.waitc p.toNat)))) ∧
    (∀ a, Runs (.gang a) s c → c.below (.gang a) →
      let n := popCount 32 (c.uniform a).toNat
      ((c.uniform a = 0 ∨ 2 ≤ n ∧ n ≤ 6) → Leaves (.gang a) s c { c.passed (.gang a) with gang := c.uniform a }) ∧
      (c.uniform a ≠ 0 → (n < 2 ∨ 6 < n) → trap (.gang a) .gang))) ∧
  (∀ (s : State) (core block : Nat) (b : Block) (n : Nat), s.blockAt core block = some b → n < 16 → barDone b n = true →
    (∀ m, m < 16 → m ≠ n → barDone b m = false) →
    ∀ w th k, find b.threads w = some th → th.ccp = false → th.ended = false → th.depth = 0 → (th.paths.slot k).mask ≠ 0 →
      (th.paths.slot k).hold = .bar n → (th.paths.slot k).pc.toNat + 4 < 2 ^ 32 →
      ∃ x, (settleBlock s core block).threadAt ⟨core, block, w⟩ = some x ∧ (x.paths.slot k).hold = .free ∧
        (x.paths.slot k).pc = (th.paths.slot k).pc + 4 ∧ (x.paths.slot k).mask = (th.paths.slot k).mask)

/-- R203, R212 to R217, R239: rings. The model's choices: a slot size of 1,048,577 to 2,097,151 is within its field, and its extent is then
reason 3 (log 102); RREL is held while a load still reads the slot (log 112); and RFILL is held until the thread's older accesses are
performed (log 54). -/
def Obligations.RingWords : Prop :=
  (∀ (s : State) (c : Ctx) (n : BitVec 4) (a d : Reg),
    let made := find c.block.rings n.toNat
    let faultAt := fun (w : Instr) (reason ring va : Nat) => Runs w s c → c.thread.ccp = false → c.eff = c.cur.mask →
      Parks w s c
        { cause := .address, lanes := c.cur.mask, synd := BitVec.ofNat 32 (0x50 + 256 * reason + 4096 * ring), unit := 0,
          tile := 0, va := va, pc := c.cur.pc, seq := c.seq }
    let fault := fun (w : Instr) (reason ring : Nat) => faultAt w reason ring 0
    let becomes := fun (w : Instr) (ring : Nat) (r : Ring) => ∃ t b, exec w s = .next t ∧ OnlyBlock c.ref.core c.ref.block s t ∧
      t.blockAt c.ref.core c.ref.block = some b ∧ find b.rings ring = some r ∧
      (∀ m, m ≠ ring → find b.rings m = find c.block.rings m) ∧ b.regions = c.block.regions ∧
      t.threadAt c.ref = some (c.passed w)
    (c.launch.rings ≤ n.toNat → fault (.rinit n a) 1 n.toNat ∧ fault (.rawait d n) 1 n.toNat ∧ fault (.rrel n) 1 n.toNat ∧
      fault (.rpost a n) 1 n.toNat) ∧
    (n.toNat < c.launch.rings → made = none →
      fault (.rawait d n) 4 n.toNat ∧ fault (.rrel n) 4 n.toNat ∧ fault (.rpost a n) 4 n.toNat) ∧
    (n.toNat < c.launch.rings →
      let x := (c.field a 0).toNat
      let y := (c.field a 1).toNat
      let z := (c.field a 2).toNat
      let align := if z / 256 % 4 = 0 then 4 else 64
      let good := x < 2 ^ 20 ∧ 0 < y ∧ y < 2 ^ 21 ∧ 1 ≤ z % 128 ∧ z % 128 ≤ 64 ∧ z % 256 < 128 ∧ z / 1024 % 4 = 0 ∧
        z / 8192 = 0 ∧ x % align = 0 ∧ y % align = 0 ∧ (z / 4096 % 2 = 1 → z / 256 % 4 = 0)
      (¬good → fault (.rinit n a) 2 n.toNat) ∧
      let size := c.launch.regionSize (ringRegion (z / 256 % 4))
      (good → size < x + z % 128 * y → faultAt (.rinit n a) 3 n.toNat (max x size)) ∧
      (good → x + z % 128 * y ≤ size → ringClaimed s c.ref.core c.ref.block n.toNat = true → Runs (.rinit n a) s c →
        Leaves (.rinit n a) s c (c.heldAt .claim)) ∧
      (good → x + z % 128 * y ≤ size → ringClaimed s c.ref.core c.ref.block n.toNat = false → Runs (.rinit n a) s c → c.below (.rinit n a) →
        becomes (.rinit n a) n.toNat
          { base := x, size := y, count := z % 128, buffer := z / 256 % 4, post := z / 4096 % 2 = 1, wp := 0, rp := 0,
            cp := 0, fp := 0, filled := [], waiting := [], senders := [] })) ∧
    (∀ r, n.toNat < c.launch.rings → made = some r →
      (Runs (.rawait d n) s c → c.below (.rawait d n) → r.rp ≠ r.wp →
        Writes (.rawait d n) s c (fun _ => r.base + r.rp % r.count * r.size) 0) ∧
      (Runs (.rawait d n) s c → r.rp = r.wp → Leaves (.rawait d n) s c (c.heldAt (.rawait n.toNat))) ∧
      (r.rp = r.wp → fault (.rrel n) 6 n.toNat) ∧
      (Runs (.rrel n) s c → r.rp ≠ r.wp → loadsReading c.block (r.span r.rp) = true →
        Leaves (.rrel n) s c (c.heldAt .queue)) ∧
      (Runs (.rrel n) s c → c.below (.rrel n) → r.rp ≠ r.wp → loadsReading c.block (r.span r.rp) = false →
        let readers := readersOf c.core c.block c.ref.block (r.span r.rp)
        let r' := { r with rp := (r.rp + 1) % (2 * r.count), waiting := r.waiting ++ [readers] }
        ((readers ≠ [] ∨ r.waiting ≠ []) → becomes (.rrel n) n.toNat r') ∧
        (readers = [] → r.waiting = [] → (∀ e ∈ r.senders, e.1 ≠ r.fp) →
          becomes (.rrel n) n.toNat { r' with fp := (r.fp + 1) % (2 * r.count), waiting := [] }) ∧
        (readers = [] → r.waiting = [] →
          ∃ t b, exec (.rrel n) s = .next t ∧ SameMemory s t ∧ t.blockAt c.ref.core c.ref.block = some b ∧
            find b.rings n.toNat = some { r' with fp := (r.fp + 1) % (2 * r.count), waiting := [],
                                                  senders := r.senders.filter fun e => e.1 ≠ r.fp } ∧
            (t.threadAt c.ref).map (fun y => (y.paths.slot c.slot).pc) = some (c.cur.pc + 4))) ∧
      (r.post = false → fault (.rpost a n) 5 n.toNat) ∧
      (Runs (.rpost a n) s c → c.below (.rpost a n) → r.post = true → c.thread.posts.length < 255 →
        c.thread.fenced c.slot setE = false →
        Leaves (.rpost a n) s c { c.passed (.rpost a n) with
          posts := c.thread.posts ++ [{ seq := c.seq, ring := n.toNat, word := c.uniform a }] })) ∧
    (∀ r, let k := (c.uniform a).toNat % 16
      k < c.launch.rings → find c.block.rings k = some r → Runs (.rfill a) s c → c.below (.rfill a) → r.post = false →
      c.released = true → r.claimable = true →
      becomes (.rfill a) k (Ring.fill { r with cp := (r.cp + 1) % (2 * r.count) } r.cp))) ∧
  (∀ (s : State) (core block ring : Nat) (b : Block) (r : Ring), s.blockAt core block = some b →
    find b.rings ring = some r → consumedDue s core block ring = true →
    ∃ t b', exec (.operandsConsumed core block ring) s = .next t ∧ t.mem = s.mem ∧ t.blockAt core block = some b' ∧
      b'.regions = b.regions ∧
      find b'.rings ring = some { r with fp := (r.fp + 1) % (2 * r.count), waiting := r.waiting.drop 1,
                                         senders := r.senders.filter fun x => x.1 ≠ r.fp })

/-- R120, R121, R126, R129 to R135: the issue of matrix words. Their effect is that of MATRIX_COMPLETE (`MatrixCompletes`). -/
def Obligations.MatrixWords : Prop :=
  ∀ (s : State) (c : Ctx) (i : Instr) (a : Reg), Runs i s c →
    i ∈ [Instr.mma a, .mmaz a, .mmas a, .epi a, .rowsum a, .cmpr a, .cbld a, .qacc a, .clrt a, .mtrn a] →
    let op := (opcodeOf i).getD 0
    let m := c.member op i
    let trap := fun (cause : Cause) (synd va : Nat) => c.thread.ccp = false → c.eff = c.cur.mask → Parks i s c
      { cause := cause, lanes := c.cur.mask, synd := BitVec.ofNat 32 synd, unit := 0, tile := 0, va := va, pc := c.cur.pc,
        seq := c.seq }
    let reason := formatReason c.core c.thread.regs op c.cur.fmt m.rowsum
    (∀ r, reason = some r → (r ≠ 4 ∨ c.tableComing = false) → trap .format r 0) ∧
    (reason = some 4 → c.tableComing = true → Leaves i s c (c.heldAt .queue)) ∧
    (reason = none → fieldsBad op m = true → trap .format 5 0) ∧
    (∀ x, reason = none → fieldsBad op m = false → placeBad c.launch op m = some x → trap .address x.code x.offset) ∧
    (reason = none → fieldsBad op m = false → placeBad c.launch op m = none →
      (readsLut op c.cur.fmt = true → ∀ r, c.lutReg = some r → c.lutWaits r = false ∧ c.lutDead r = false ∧ c.poison r = 0) →
      c.matrixWaits op m = false →
      ((c.thread.gang = 0 ∨ 0x92 < op) → c.below i →
        ∃ t e m', exec i s = .next t ∧ OnlyCore c.ref.core s t ∧ SameMemory s t ∧
          (t.coreAt c.ref.core).engine = c.core.engine ++ [e] ∧ e.opcode = op ∧ e.members = [m'] ∧ m'.thread = c.ref ∧
          m'.desc = m.desc ∧ m'.fmt = c.cur.fmt ∧ m'.mode = c.cur.mode ∧ m'.lanes = c.eff ∧ m'.pc = c.cur.pc ∧
          (t.coreAt c.ref.core).ladderQ = c.core.ladderQ ∧
          (t.threadAt c.ref).map (fun y => (y.paths, y.vregs, y.flags, y.preds)) =
            some ((c.passed i).paths, c.thread.vregs, c.thread.flags, c.thread.preds)) ∧
      (c.thread.gang ≠ 0 → op ≤ 0x92 → hasLane c.thread.gang c.ref.thread = true →
        (∀ w ∈ lanesOf c.thread.gang, waveGone c.block w = false) → (∃ w ∈ lanesOf c.thread.gang, w ≠ c.ref.thread) →
        (∀ e ∈ c.core.arrivals, e.member.thread.block ≠ c.ref.block) →
        ∃ t, exec i s = .next t ∧ OnlyCore c.ref.core s t ∧ SameMemory s t ∧
          (t.coreAt c.ref.core).engine = c.core.engine ∧
          (t.coreAt c.ref.core).arrivals = c.core.arrivals ++
            [{ slot := c.slot, gang := c.thread.gang, opcode := op, member := m }] ∧
          (t.threadAt c.ref).map (fun y => ((y.paths.slot c.slot).hold, (y.paths.slot c.slot).pc)) =
            some (.latch, c.cur.pc)))

/-- R57, R122 to R124, R127 to R129, R143 to R145: the end of a matrix operation, its frame, and the tile it leaves in four of its
forms. -/
def Obligations.MatrixCompletes : Prop :=
  ∀ (s : State) (core n : Nat) (op : EngineOp) (m : EngineMember) (b : Block), matrixDue s core = some (op, n, b) →
    s.blockAt core n = some b → op.members = [m] → b.rpois = [] → (∀ e ∈ b.threads, e.2.arms = []) →
    m.failEngine = false → m.failWeights = false → m.thread.core = core → m.thread.block = n →
    let f := m.field
    let byte := fun (code o : Nat) => (b.readRegion code o 1).getD 0 0
    let signed := fun (code o : Nat) => (byte code o).toInt
    ∃ t, exec (.matrixComplete core) s = .next t ∧ t.mem = s.mem ∧ t.poison = s.poison ∧
      (t.coreAt core).engine = (s.coreAt core).engine.drop 1 ∧
      (∀ k l code o, ¬(k = core ∧ l = n) → t.regionByte k l code o = s.regionByte k l code o) ∧
      (op.opcode ∈ [0x90, 0x91, 0x98, 0x99, 0x93, 0x97] →
        ∀ code o, (∀ x ∈ (matrixFootprint b op.opcode m).writes,
          regionKey code o < regionKey x.code x.offset ∨ regionKey x.code x.offset + x.size ≤ regionKey code o) →
        t.regionByte core n code o = s.regionByte core n code o) ∧
      (op.opcode = 0x98 → ∀ i, i < 4096 → t.regionByte core n 1 (f 0 + i) = some 0) ∧
      (op.opcode = 0x99 → ∀ i j k, i < 32 → j < 32 → k < mtrnBytes m.mode →
        t.regionByte core n 0 (f 1 + mtrnBytes m.mode * (32 * j + i) + k) =
          some (byte 0 (f 0 + mtrnBytes m.mode * (32 * i + j) + k))) ∧
      (op.opcode = 0x96 → (t.coreAt core).cb2Loaded = true ∧ ∀ i, i < 512 → findD (t.coreAt core).cb2 i 0 =
        BitVec.ofNat 16 ((byte 3 (f 0 + 2 * i)).toNat + 256 * (byte 3 (f 0 + 2 * i + 1)).toNat)) ∧
      ((op.opcode = 0x90 ∨ op.opcode = 0x91) → f 3 = 1 → fmtWf m.fmt = 9 → fmtAf m.fmt = 9 → fmtAcc m.fmt = 1 →
        fmtSc m.fmt = 0 → fmtSp m.fmt = 0 → ∀ i j, i < 32 → j < 32 →
        let old : Int := if op.opcode = 0x91 then 0 else signedOf 32 (leNat (b.readRegion 1 (f 2 + 4 * (32 * i + j)) 4))
        let sum : Int := (List.range 32).foldl (fun x k =>
          x + signed 0 (f 0 + 32 * i + k) * signed 2 (f 1 + 32 * j + k)) old
        ∀ q, q < 4 → t.regionByte core n 1 (f 2 + 4 * (32 * i + j) + q) = some (BitVec.ofInt 8 (sum / 256 ^ q)))

/-- R240 to R249: the ladder accumulator. -/
def Obligations.LadderWords : Prop :=
  (∀ (s : State) (c : Ctx) (i : Instr) (a d : Reg) (l : BitVec 2), Runs i s c →
    i ∈ [Instr.ldef a l, .lpush a l, .lread a l, .lrung d a l, .lsetr a l, .lstep d l, .lstepw a l, .lclr l] →
    let o := c.ladderOp i l.toNat
    let x := ladderAfter c.block c.ref.block l.toNat c.core.ladderQ
    (∀ reason va, ladderReason c.launch x o = some (reason, va) → c.thread.ccp = false → c.eff = c.cur.mask →
      Parks i s c
        { cause := .address, lanes := c.cur.mask, synd := BitVec.ofNat 32 (0x61 + 256 * reason + 4096 * l.toNat), unit := 0,
          tile := 0, va := va, pc := c.cur.pc, seq := c.seq }) ∧
    (ladderReason c.launch x o = none → c.ladderWaits (ladderFootprint x o) = false → c.below i →
      ∃ t, exec i s = .next t ∧ OnlyCore c.ref.core s t ∧ SameMemory s t ∧
        (t.coreAt c.ref.core).ladderQ = c.core.ladderQ ++ [o] ∧ (t.coreAt c.ref.core).engine = c.core.engine ∧
        o.ladder = l.toNat ∧ o.thread = c.ref ∧ some o.opcode = opcodeOf i ∧
        (t.threadAt c.ref).map (fun y => (y.paths, y.vregs, y.flags, y.preds)) =
          some ((c.passed i).paths, c.thread.vregs, c.thread.flags, c.thread.preds))) ∧
  (∀ (s : State) (core : Nat) (o : LadderOp) (b : Block), ladderDue s core = some (o, b) → o.fails = false →
    o.thread.core = core → s.blockAt core o.thread.block = some b → b.rpois = [] → (∀ e ∈ b.threads, e.2.arms = []) →
    let n := o.thread.block
    let x := findD b.ladders o.ladder freshLadder
    let same := fun (t : State) (lo size : Nat) => ∀ code q, (regionKey code q < regionKey 1 lo ∨
      regionKey 1 lo + size ≤ regionKey code q) → t.regionByte core n code q = s.regionByte core n code q
    ∃ t b' y, exec (.ladderComplete core) s = .next t ∧ t.mem = s.mem ∧ t.poison = s.poison ∧
      (t.coreAt core).ladderQ = (s.coreAt core).ladderQ.drop 1 ∧ t.blockAt core n = some b' ∧
      findD b'.ladders o.ladder freshLadder = y ∧
      (∀ k, k ≠ o.ladder → findD b'.ladders k freshLadder = findD b.ladders k freshLadder) ∧
      (o.opcode = 0xA0 → same t 0 0 ∧ y =
        { defined := true, rung0 := o.field 0, nr := o.field 1 % 32, dec := o.field 2, wgt := o.field 3, n := 0 }) ∧
      (o.opcode = 0xA1 → same t (x.rung x.pushRung) 4096 ∧
        y = { x with n := if x.n = 0xFFFFFFFF then 0x80000000 else x.n + 1 }) ∧
      (o.opcode = 0xA2 → same t (o.field 0) 4096 ∧ y = x) ∧
      (o.opcode = 0xA3 → same t (o.field 0) 4096 ∧ y = x ∧
        (∀ q, q < 4096 → t.regionByte core n 1 (o.field 0 + q) = s.regionByte core n 1 (x.rung (o.field 1) + q)) ∧
        (∀ d th, o.dest = some (.s d) → s.threadAt o.thread = some th → th.depth ≤ o.depth →
          t.register o.thread o.slot (.s d) 0 = some (if x.occupied (o.field 1) then 1 else 0))) ∧
      (o.opcode = 0xA4 → same t (x.rung (o.field 1)) 4096 ∧ y = x ∧
        (∀ q, q < 4096 → t.regionByte core n 1 (x.rung (o.field 1) + q) = s.regionByte core n 1 (o.field 0 + q))) ∧
      (o.opcode = 0xA5 → same t 0 0 ∧ y = x ∧ (∀ d th, o.dest = some (.s d) → s.threadAt o.thread = some th → th.depth ≤ o.depth →
        t.register o.thread o.slot (.s d) 0 = some (x.n % 2 ^ 32))) ∧
      (o.opcode = 0xA6 → same t 0 0 ∧ y = { x with n := o.field 0 }) ∧
      (o.opcode = 0xA7 → same t 0 0 ∧ y = { x with n := 0 }))

/-- R214, R219, R223 to R227, R232, R237, R238: commands at issue. What they move is said by `CopyCommandsEnd`. -/
def Obligations.CopyWords : Prop :=
  ∀ (s : State) (c : Ctx),
    let s1 := c.begun s
    let held := c.heldAt
    (∀ (i : Instr) (d a : Reg) (f : CopyFlags), Runs i s c → c.below i →
      i ∈ [Instr.cpy d a f, .cpy2 d a f, .cpyx d a f, .cpym d a f, .cpye d a f, .cpyg d a f, .redx d a f] →
      let op := (opcodeOf i).getD 0
      let x := { c.command op d a f with use := c.thread.tagUse (c.command op d a f).tag }
      let y := c.command op d a f
      (16 ≤ c.thread.outstanding.length → Leaves i s c (held .queue)) ∧
      (c.thread.outstanding.length < 16 → c.thread.fenced c.slot setE = false → (f.cmpx = true → c.poison d = 0) →
        c.sideBusy y = false →
        (badDescriptor s1 c y = true → ∃ t th, exec i s = .next t ∧ OnlyThread c.ref s t ∧ t.threadAt c.ref = some th ∧
          { x with status := some (statusWord 0 false 0 10) } ∈ th.cmds ∧ (th.paths.slot c.slot).pc = c.cur.pc + 4 ∧
          (∀ n, d = .s n → t.register c.ref false d 0 = some 0) ∧
          ∀ r l, l < 32 → r ≠ d → t.register c.ref c.slot r l = s.register c.ref c.slot r l) ∧
        (badDescriptor s1 c y = false → claimAll s1 y.ringNumber ((ringBlocks s1 c y).getD []) = none →
          Leaves i s c (held .claim)) ∧
        (∀ s2 claims, badDescriptor s1 c y = false →
          claimAll s1 y.ringNumber ((ringBlocks s1 c y).getD []) = some (s2, claims) →
          ∃ t th, exec i s = .next t ∧ SameMemory s t ∧ t.threadAt c.ref = some th ∧
            th.outstanding = c.thread.outstanding ++ [{ x with claims := claims }] ∧ th.paths = (c.passed i).paths ∧
            (∀ r l, l < 32 → t.register c.ref c.slot r l = s.register c.ref c.slot r l) ∧
            (∀ u, u ≠ c.ref → t.threadAt u = s.threadAt u) ∧
            (op ≠ 0xB3 → f.ring = false → claims = [] ∧ OnlyThread c.ref s t) ∧
            (op ≠ 0xB3 → f.ring = true → ∀ r, s.ringAt c.ref.core c.ref.block y.ringNumber = some r →
              claims = [(c.ref.core, c.ref.block, y.ringNumber, r.cp)] ∧
              t.ringAt c.ref.core c.ref.block y.ringNumber = some { r with cp := (r.cp + 1) % (2 * r.count) })))) ∧
    (∀ d a, Runs (.cwait d a) s c → c.below (.cwait d a) →
      let xs := c.waitsFor ((c.uniform a).toNat % 256)
      ((∀ ns, c.cur.hold ≠ .cwait ns) → xs = c.thread.covered ((c.uniform a).toNat % 256)) ∧
      ((∀ x ∈ xs, x.status.isSome = true) → Writes (.cwait d a) s c (fun _ => (statusOf xs).toNat) 0) ∧
      ((∃ x ∈ xs, x.status = none) → Leaves (.cwait d a) s c (held (.cwait (xs.map (·.seq)))))) ∧
    (∀ d a, Runs (.cstat d a) s c → c.below (.cstat d a) →
      (c.launch.det = false → Writes (.cstat d a) s c
        (fun _ => (statusOf (c.thread.covered ((c.uniform a).toNat % 256))).toNat) 0) ∧
      (c.launch.det = true → ∃ t b th, exec (.cstat d a) s = .next t ∧ t.blockAt c.ref.core c.ref.block = some b ∧
        b.aborted = true ∧ t.threadAt c.ref = some th ∧ th.stopped = true ∧ th.exc.exc = 0x0A ∧ th.trappc = c.cur.pc)) ∧
    (∀ a, Runs (.ccan a) s c → c.below (.ccan a) → (c.thread.cmds.map (·.seq)).Nodup →
      let xs := c.thread.covered ((c.uniform a).toNat % 256)
      ∃ t th, exec (.ccan a) s = .next t ∧ t.threadAt c.ref = some th ∧ (th.paths.slot c.slot).pc = c.cur.pc + 4 ∧
        (∀ y ∈ c.thread.cmds, y ∉ xs → y ∈ th.cmds) ∧
        (∀ x ∈ xs, x.round = none → ∃ y ∈ th.cmds, y.seq = x.seq ∧
          (y.status.isSome = true ∨ y.cancelling = true ∨ x.opcode = 0xB3 ∧ y.moved = true)))

/-- R165, R225, R227 to R229: what a copy moves, and where it stops. -/
def Obligations.CopyCommandsEnd : Prop :=
  ∀ (s : State) (core block n : Nat) (b : Block) (th : Thread) (x : Command),
    let t : ThreadRef := ⟨core, block, ccpThread⟩
    let plain := x.flags.acq = false ∧ x.flags.rel = false ∧ x.flags.chk = false ∧ x.flags.cmpx = false ∧ x.flags.ring = false
    let len := x.field 2
    let ends := fun (u : State) (status : Word) => OnlyBlock core block s u ∧
      (u.threadAt t).map (fun y => (y.cmds.find? fun z => z.seq = n).map (·.status)) = some (some (some status)) ∧
      (∀ k, x.d = .s k → u.register t false (.s k) 0 = some 0) ∧
      (∀ r l, l < 32 → r ≠ x.d → u.register t false r l = s.register t false r l)
    s.blockAt core block = some b → s.threadAt t = some th → (th.cmds.find? fun y => y.seq = n) = some x → x.status = none →
    coreRuns s core = true → x.claims = [] → isScalar x.d = true →
    (x.opcode = 0xB0 → plain → x.moved = false → x.beats = 0 → x.writing = false → x.cancelling = false → 1 ≤ len → len ≤ 2 ^ 24 →
      (∀ rs rd, sideRegion x.sourceCode = some rs → sideRegion x.destCode = some rd → rs ≠ rd → x.pois = false →
        x.field 0 + len ≤ 2 ^ 20 → x.field 1 + len ≤ 2 ^ 20 → b.rpois = [] → (∀ e ∈ b.threads, e.2.arms = []) →
        ∃ u, exec (.copyComplete core block n) s = .next u ∧ ends u (statusWord ((len + 63) / 64) false 0 0) ∧
          u.mem = s.mem ∧ u.poison = s.poison ∧
          (∀ i, i < len → u.regionByte core block rd (x.field 1 + i) = s.regionByte core block rs (x.field 0 + i)) ∧
          (∀ code o, (regionKey code o < regionKey rd (x.field 1) ∨ regionKey rd (x.field 1) + len ≤ regionKey code o) →
            u.regionByte core block code o = s.regionByte core block code o)) ∧
      (∀ code va, sideRegion x.sourceCode = none → th.wordsUnknown n = false →
        copyParts s core (s.launchOf b).partition x.source false false (x.field 0) (min 64 len) = .error (code, va) →
        ∃ u y, exec (.copyStop core block n false) s = .next u ∧ ends u (statusWord 0 x.pois 0 code) ∧ SameMemory s u ∧
          4 ≤ code ∧ code ≤ 8 ∧ u.threadAt t = some y ∧ y.exc.faultva = BitVec.ofNat 32 va ∧
          y.exc.faultvah = BitVec.ofNat 32 (va / 2 ^ 32) ∧ y.exc.exc = th.exc.exc)) ∧
    (x.opcode = 0xB3 → x.moved = true → x.acks = [] → plain →
      ∃ u, exec (.copyComplete core block n) s = .next u ∧ ends u (statusWord x.beats x.pois 0 0) ∧ SameMemory s u)

/-- R174, R193, R256, R260 to R265: the words of a page-fault handler. That MAPFT answers 2 for an address at or above 2^56, and 4 for a
frame of the pool that no memory has, is the model's choice (log 38). -/
def Obligations.FaultHandlerWords : Prop :=
  ∀ (s : State) (c : Ctx),
    let s1 := c.begun s
    let illegal := fun (i : Instr) => c.thread.ccp = false → c.eff = c.cur.mask → Parks i s c
      { cause := .illegal, lanes := c.cur.mask, synd := 0, unit := 0, tile := 0, va := 0, pc := c.cur.pc, seq := c.seq }
    let held := c.heldAt
    (∀ d, Runs (.fltq d) s c → c.below (.fltq d) → c.thread.depth ≠ 0 →
      (recordsHere c.core c.ref = [] → recordsDue c.thread = 0 → Writes (.fltq d) s c (fun _ => 0) 0) ∧
      (recordsHere c.core c.ref = [] → recordsDue c.thread ≠ 0 → Leaves (.fltq d) s c (held .records)) ∧
      (∀ r rest, recordsHere c.core c.ref = r :: rest →
        let words := [r.va, r.va / 2 ^ 32 % 2 ^ 24 + kindCode r.kind * 2 ^ 24 + r.number * 2 ^ 28, r.lanes.toNat,
          4 + min (rest.length + recordsDue c.thread) 63 * 256 + 2 ^ 31]
        ∃ t, exec (.fltq d) s = .next t ∧ OnlyCore c.ref.core s t ∧ SameMemory s t ∧
          (t.coreAt c.ref.core).faultQ = c.core.faultQ.erase r ∧
          (∀ k, k < 4 → t.register c.ref c.slot (sreg (regNum d + k)) 0 = some (words.getD k 0 % 2 ^ 32)) ∧
          (t.threadAt c.ref).map (fun y => ((y.paths.slot c.slot).pc, y.vregs, y.preds, y.log)) =
            some (c.cur.pc + 4, c.thread.vregs, c.thread.preds, c.thread.log))) ∧
    (∀ d a, Runs (.mapft d a) s c → c.below (.mapft d a) →
      let va := c.pair a
      let p := s.partAt c.part
      let key := s.boot.moduleKey
      let pool := p.pool.toNat * 4096
      let top := leNat (s.readMem key pool 4)
      let slot := pool + 16 + 4 * (top - 1)
      let frame := leNat (s.readMem key slot 4) * 65536
      let answers := fun (n : Nat) => Writes (.mapft d a) s c (fun _ => n) 0
      (2 ^ 56 ≤ va → answers 2) ∧
      (∀ n, va < 2 ^ 56 → findEntry s p.key va [3, 2, 1] (rootOf p) = .error n → answers n) ∧
      (∀ entry, va < 2 ^ 56 → findEntry s p.key va [3, 2, 1] (rootOf p) = .ok entry → anyPoison s.poison pool 4 = false →
        (top = 0 → answers 3) ∧
        (top ≠ 0 → anyPoison s.poison slot 4 = false → keyExists frame = true → findD s.seals (frame / 65536) 0 = 0 →
          entry % 8 = 0 → entry / 65536 ≠ frame / 65536 → pool / 65536 ≠ frame / 65536 → entry / 32 ≠ pool / 32 →
          ∃ t, exec (.mapft d a) s = .next t ∧ t.register c.ref c.slot d 0 = some 0 ∧
            leNat (t.readMem p.key entry 8) = (s.fabric.module * 2 ^ 52 + frame + 0x47) % 2 ^ 64 ∧
            leNat (t.readMem key pool 4) = top - 1 ∧ (∀ i, i < 65536 → t.readByte p.key (frame + i) = 0) ∧
            ∀ k x, x / 65536 ≠ frame / 65536 → x / 32 ≠ pool / 32 → x / 32 ≠ entry / 32 → t.readByte k x = s.readByte k x))) ∧
    (Runs .replay s c → c.pageHandler = false → illegal .replay) ∧
    (Runs .replay s c → c.pageHandler = true → storesDrained c.thread = false → Leaves .replay s c (held .system)) ∧
    (Runs .replay s c → c.below .replay → c.pageHandler = true → storesDrained c.thread = true →
      (c.entriesBelow = [] → Leaves .replay s c (c.passed .replay)) ∧
      (∀ e, c.entriesBelow = [e] → e.kind = .store → (∀ x ∈ c.thread.loads, x.accesses = [] ∨ x.seq ≠ e.seq) →
        let r := replayEntry s1 c.part e
        r.again = [] → r.traps = [] →
        ∃ t th, exec .replay s = .next t ∧ OnlyThread c.ref s t ∧ t.threadAt c.ref = some th ∧
          th.log = c.thread.log.filter (fun x => x ≠ e) ∧ th.late = c.thread.late ∧
          th.stores = c.thread.stores.map (fun x => if x.seq = e.seq then
            { x with
              waiting := x.waiting &&& ~~~(r.ok.foldl (fun m y => m ||| e.laneMask y.1) 0)
              lanes := addLanes x.lanes (r.ok.map fun y => { access := y.2, bytes := y.1.bytes, poison := y.1.poison }) }
            else x) ∧ (th.paths.slot c.slot).pc = c.cur.pc + 4)) ∧
    (∀ a, Runs (.cancel a) s c → c.pageHandler = false → illegal (.cancel a)) ∧
    (∀ a, Runs (.cancel a) s c → c.below (.cancel a) → c.pageHandler = true →
      (c.entriesBelow = [] → Leaves (.cancel a) s c (c.passed (.cancel a))) ∧
      (∀ e, c.entriesBelow = [e] → e.mask ≠ 0 → e.mask &&& ~~~(c.uniform a) = 0 → e.lanes ≠ [] →
        (∀ l ∈ e.lanes, l.lane < 32) →
        ∃ t th, exec (.cancel a) s = .next t ∧ OnlyThread c.ref s t ∧ t.threadAt c.ref = some th ∧
          th.log = c.thread.log.filter (fun x => x ≠ e) ∧
          th.late = c.thread.late ++
            [{ info := { cause := .address, lanes := e.mask, synd := 0x70, unit := 0, tile := 0,
                         va := ((e.lanes.head?.bind fun l => l.vas.head?).map (·.1)).getD 0, pc := e.pc, seq := e.seq },
               depth := e.depth, atNext := false }] ∧
          th.stores = c.thread.stores.map (fun x => if x.seq = e.seq then
            { x with waiting := x.waiting &&& ~~~e.mask } else x) ∧
          (th.paths.slot c.slot).pc = c.cur.pc + 4))

/-- R253, R254, R256, R272, R273, R275, R281, R362, R364: halts, maintenance and injection words, and the steps of a fault. -/
def Obligations.HaltsAndSideSteps : Prop :=
  (∀ (s : State) (c : Ctx),
    let s1 := c.begun s
    let core := c.ref.core
    let held := c.heldAt
    let quietly := fun (t : State) => OnlyCore core s t ∧ SameMemory s t ∧ (∀ u, u ≠ c.ref → t.threadAt u = s.threadAt u) ∧
      (t.threadAt c.ref).map (fun y => (y.paths.slot c.slot).pc) = some (c.cur.pc + 4) ∧
      ∀ r l, l < 32 → t.register c.ref c.slot r l = s.register c.ref c.slot r l
    (∀ a, Runs (.haltb a) s c → c.below (.haltb a) → ∃ t, exec (.haltb a) s = .next t ∧ quietly t ∧
      ∀ n b, s.blockAt core n = some b → ∃ b', t.blockAt core n = some b' ∧
        b'.halted = (b.halted || hasLane (c.uniform a) n) ∧
        b'.exempt = (if hasLane (c.uniform a) n = true then
          (if n = c.ref.block then some c.ref.thread else none) else b.exempt)) ∧
    (∀ a, Runs (.resumeb a) s c → c.below (.resumeb a) →
      (∀ n b, hasLane (c.uniform a) n = true → s.blockAt core n = some b → b.breaks = [] ∧ b.edits = []) →
      ∃ t, exec (.resumeb a) s = .next t ∧ quietly t ∧
        ∀ n b, s.blockAt core n = some b → ∃ b', t.blockAt core n = some b' ∧
          b'.halted = (b.halted && !hasLane (c.uniform a) n)) ∧
    (Runs .drain s c → c.below .drain →
      let busy := (s1.coreAt core).blocks.any fun x =>
        x.2.halted && x.2.threads.any fun y => drainsStill s1 ⟨core, x.1, y.1⟩ y.2
      (busy = false → Leaves .drain s c (c.passed .drain)) ∧ (busy = true → Leaves .drain s c (held .drain))) ∧
    (Runs .vsflush s c → c.below .vsflush →
      let pending := c.core.entries.any fun x => x.2.state == .pending
      (pending = true → Leaves .vsflush s c (held .system)) ∧
      (pending = false → ∃ t, exec .vsflush s = .next t ∧ quietly t ∧
        ∀ e x, find c.core.entries e = some x → ∃ y, find (t.coreAt core).entries e = some y ∧ y.state = .dead ∧
          y.bytes = x.bytes ∧ y.key = x.key ∧ (x.state ≠ .dead → y.traps = true))) ∧
    (∀ a, Runs (.errinj a) s c → c.below (.errinj a) →
      let asked := injection c.launch (s.partAt c.part).testen c.thread.ccp (c.field a 0).toNat (c.field a 1).toNat
      (∀ x, asked = .arm x → Leaves (.errinj a) s c { c.passed (.errinj a) with
        arms := c.thread.arms.filter (fun y => armKind y ≠ armKind x) ++ [x]
        copyWords := if armKind x = 3 then [] else c.thread.copyWords }) ∧
      (∀ cause synd va, asked = .trap cause synd va → c.thread.ccp = false → c.eff = c.cur.mask →
        Parks (.errinj a) s c
          { cause := cause, lanes := c.cur.mask, synd := BitVec.ofNat 32 synd, unit := 0, tile := 0, va := va,
            pc := c.cur.pc, seq := c.seq }))) ∧
  (∀ (s : State) (r : ThreadRef) (th : Thread), s.threadAt r = some th →
    (th.faulted ≠ [] → ∃ y, Makes (.pageFaultLog r) s r { th with log := y, faulted := [] } ∧
      y.map (fun e => { e with number := 0 }) = (th.log ++ th.faulted).map (fun e => { e with number := 0 }) ∧
      y.take th.log.length = th.log ∧
      ((th.log.map (·.number)).Nodup → (∀ e ∈ th.log, e.number < 8) → th.log.length + th.faulted.length ≤ 8 →
        (y.map (·.number)).Nodup ∧ ∀ e ∈ y, e.number < 8)) ∧
    (∀ e p, nextRecord th = some (e, p) → (s.coreAt r.core).faultQ.length < 64 →
      let (va, m) := e.record p
      p ∈ e.pages ∧ p ∉ e.queued ∧
      ∃ t y, exec (.faultRecordEnqueue r) s = .next t ∧ OnlyCore r.core s t ∧ SameMemory s t ∧
        (t.coreAt r.core).faultQ = (s.coreAt r.core).faultQ ++
          [{ block := r.block, thread := r.thread, va := va, kind := e.kind, number := e.number, lanes := m, depth := e.depth }] ∧
        t.threadAt r = some y ∧ { y with log := th.log } = th ∧
        y.log = th.log.map (fun x => if x.number = e.number then { x with queued := x.queued ++ [p] } else x)) ∧
    (∀ n, overLimit th = some n → Makes (.trapWaitLimit r) s r (th.modSlot n fun x => { x with stopped := true })) ∧
    (th.restarting = true → s.path r 0 = 0 → s.path r 2 = 0 → s.path r 3 = 0 → s.path r 5 = 0 →
      ∃ t y, exec (.regionRestart r) s = .next t ∧ OnlyThread r (cancelWalks s r) t ∧ t.threadAt r = some y ∧ y.rgnpc = th.rgnpc + 1 ∧ y.restarting = false ∧
        y.paths.slot0.pc = (th.rgnpc &&& 0xFFFFFFFC) + 4 ∧ y.paths.slot0.mask = th.paths.slot0.mask ∧
        y.paths.slot0.sregs = th.paths.slot0.sregs ∧ y.paths.slot1 = th.paths.slot1 ∧ y.vregs = th.vregs ∧
        y.bound = th.bound ∧ y.preds = th.preds ∧ y.exc = th.exc ∧ y.saved = th.saved))

/-- R305 to R312, R314: what pre-emption saves and restores. Where each step is due is said by its hypotheses. The model's choices: a
poisoned sector at the place of an image is the error that aborts the block (log 96); a candidate whose eviction was abandoned is passed
over for the cluster that it was to leave for (log 101); an image goes to the lowest room of the area (log 114); what a move does whose
block or target has changed meanwhile (log 111). -/
def Obligations.ContextSteps : Prop :=
  (∀ (s : State) (launch core o : Nat) (t : ThreadRef) (th : Thread) (b : Block),
    (leavers s core).find? (fun x => savable s x.1 x.2) = some (t, th) → s.blockAt t.core t.block = some b →
    let part := (s.launchOf b).partition
    let p := s.partAt part
    let image := waveImage (s.coreAt t.core) th
    let place := physKey (p.areaBase + o)
    areaRoom p.areaSize (usedRanges p) (waveSize th.regs) = some o →
    (badPlace s part [(o, waveSize th.regs)] = true → ∃ u b', exec (.waveEviction launch core) s = .next u ∧ u.mem = s.mem ∧
      u.blockAt t.core t.block = some b' ∧ b'.aborted = true) ∧
    (badPlace s part [(o, waveSize th.regs)] = false → ∃ u m b', exec (.waveEviction launch core) s = .next u ∧ u.threadAt t = none ∧
      (u.partAt part).evicted = p.evicted ++ [m] ∧ m.launch = b.launch ∧ m.blklin = b.blklin ∧ m.wave = some t.thread ∧
      m.places = [(t.thread, o, waveSize th.regs)] ∧ u.blockAt t.core t.block = some b' ∧ b'.out = setAdd b.out t.thread ∧
      image.length = waveSize th.regs ∧
      (∀ i, i < image.length → u.readByte p.key (place + i) = image.getD i 0) ∧
      ∀ k a, (a / 16 < place / 16 ∨ (place + image.length - 1) / 16 < a / 16) → u.readByte k a = s.readByte k a)) ∧
  (∀ (s : State) (launch core : Nat) (w : Waiting) (l : Launch) (ts : List ThreadRef), leavers s core = [] →
    stuckWaiting s launch = some (w, l) → bestCore s w l = some (core, ts) → funded s l.partition = true → ts ≠ [] →
    noneLeaving s w core = true → areaHolds s l.partition (imageSizes s ts) = true →
    ∃ u, exec (.waveEviction launch core) s = .next u ∧ SameMemory s u ∧ (∀ t, t ∉ ts → u.threadAt t = s.threadAt t) ∧
      ∀ t ∈ ts, ∀ th, s.threadAt t = some th → ∃ y, u.threadAt t = some y ∧ y.evict = .leaving s.tick ∧ y.arms = [] ∧
        y.vregs = th.vregs ∧ y.preds = th.preds) ∧
  (∀ (s : State) (t : ThreadRef) (th : Thread) (b : Block), s.threadAt t = some th → s.blockAt t.core t.block = some b →
    th.evict ≠ .here → drained s t th = false →
    (b.leaving = none → ∃ u, exec (.evictionAbandon t) s = .next u ∧ OnlyCore t.core s u ∧ SameMemory s u ∧
      u.threadAt t = some { th with evict := .here } ∧ (∀ r, r ≠ t → u.threadAt r = s.threadAt r) ∧
      ∀ r, (s.coreAt t.core).room = some r →
        (u.coreAt t.core).room = some { r with passed := setAdd r.passed (waveKey t) }) ∧
    (b.leaving ≠ none → ∃ u, exec (.evictionAbandon t) s = .next u ∧ SameMemory s u ∧
      (∀ c n, (c, n) ∉ leavesWith s t.core t.block b → u.blockAt c n = s.blockAt c n) ∧
      ∀ q ∈ leavesWith s t.core t.block b, ∀ y, s.blockAt q.1 q.2 = some y →
        (y.leaving = none → u.blockAt q.1 q.2 = some y) ∧
        (y.leaving ≠ none → ∃ y', u.blockAt q.1 q.2 = some y' ∧ y'.leaving = none ∧ y'.expired = false ∧
          ∀ n x, find y.threads n = some x → find y'.threads n =
            some (if y.expired then { x with evict := .here, expired := false, accepted := false } else { x with evict := .here })))) ∧
  (∀ (s : State) (core block : Nat) (b : Block), s.blockAt core block = some b →
    let l := s.launchOf b
    let part := l.partition
    (l.slice ≠ 0 → l.det = false → b.halted = false → (∃ e ∈ b.threads, e.2.ccp = false ∧ e.2.expired = false) →
      ∃ u b', exec (.timeSliceExpiry core block) s = .next u ∧ OnlyBlock core block s u ∧ SameMemory s u ∧
        u.blockAt core block = some b' ∧ { b' with threads := b.threads } = b ∧
        ∀ n x, find b.threads n = some x → x.ccp = false → find b'.threads n = some { x with expired := true }) ∧
    (∀ w, b.leaving = none → b.expired = true → waitingNowhere s = some w →
      let all := leavesFor s w core block b
      (∀ x ∈ all, mayLeave s x.1 x.2 = true) →
      areaHolds s part (flatten (all.map fun x => ((s.blockAt x.1 x.2).map (blockSizes s)).getD [])) = true →
      ∃ u, exec (.blockEviction core block) s = .next u ∧ SameMemory s u ∧
        ∀ x ∈ all, ∀ y, s.blockAt x.1 x.2 = some y → ∃ z, u.blockAt x.1 x.2 = some z ∧
          z.leaving = some none ∧ z.regions = y.regions ∧
          ∀ n th, find y.threads n = some th → th.ccp = false → ∃ th', find z.threads n = some th' ∧ th'.evict ≠ .here) ∧
    (b.leaving = some none → leavesWith s core block b = [(core, block)] → blockDrained s core block = true →
      blockPlaceBad s core block = false →
      (∀ u m, saveBlock s core block = some (u, m) → exec (.blockEviction core block) s = .next u ∧
        u.blockAt core block = none ∧ m ∈ (u.partAt part).evicted ∧ m.wave = none ∧ m.launch = b.launch ∧
        m.blklin = b.blklin ∧ m.core = core) ∧
      (saveBlock s core block = none → ∃ u b', exec (.blockEviction core block) s = .next u ∧ SameMemory s u ∧
        u.blockAt core block = some b' ∧ b'.leaving = none)) ∧
    (∀ target, target < coreCount →
      (b.leaving = none → dieOf target = dieOf core → target ≠ core → (s.coreAt core).gear.offered = true →
        (s.coreAt target).gear.celsius < 80 →
        (barred s b = true → exec (.migration core block target) s = .next s) ∧
        (barred s b = false → (moveFits s core target b = false ∨ areaHolds s part (blockSizes s b) = false) →
          exec (.migration core block target) s = .next s) ∧
        (barred s b = false → moveFits s core target b = true → areaHolds s part (blockSizes s b) = true → ∃ u b', exec (.migration core block target) s = .next u ∧
          SameMemory s u ∧ u.blockAt core block = some b' ∧ b'.leaving = some (some target))) ∧
      (b.leaving = some (some target) → barred s b = true → ∃ u b', exec (.migration core block target) s = .next u ∧
        SameMemory s u ∧ u.blockAt core block = some b' ∧ b'.leaving = none) ∧
      (b.leaving = some (some target) → barred s b = false → blockDrained s core block = true →
        targetTakes s core target b = false → ∃ u b', exec (.migration core block target) s = .next u ∧ SameMemory s u ∧
          u.blockAt core block = some b' ∧ b'.leaving = none) ∧
      (b.leaving = some (some target) → target ≠ core → barred s b = false → blockDrained s core block = true →
        targetTakes s core target b = true → blockPlaceBad s core block = false →
        ∀ u m, saveBlock s core block = some (u, m) → (restoreAt u part m target).isSome = true →
          ∃ v, exec (.migration core block target) s = .next v ∧ v.blockAt core block = none ∧
            ∃ e ∈ (v.coreAt target).blocks, e.2.launch = b.launch))) ∧
  (∀ (s : State) (part core slot w o n : Nat) (m : SavedImage) (l : Launch), serveNext s = some part →
    restorable s part = some m → heldRoom s core = none → movesTo s core = false → m.wave = some w → m.places = [(w, o, n)] → m.core = core → s.launchAt m.launch = some l →
    slotOn s core m.launch m.blklin = some slot → wavesFit (s.coreAt core) l 1 = true → (readImage s part o n).2 = false →
    let bs := (readImage s part o n).1
    ∃ u th, exec (.restore part core) s = .next u ∧ u.mem = s.mem ∧ u.threadAt ⟨core, slot, w⟩ = some th ∧
      (u.partAt part).evicted = (s.partAt part).evicted.filter (fun x => x ≠ m) ∧ th.evict = .here ∧ th.saved = [] ∧
      th.bound = [] ∧ th.regs = leAt bs 4 2 ∧ th.paths.slot0.pc = wordAt bs 48 ∧ th.paths.slot0.mask = wordAt bs 52 ∧
      th.paths.slot1.pc = wordAt bs 208 ∧ th.paths.slot1.mask = wordAt bs 212 ∧
      ∀ r lane, r < th.regs → lane < 32 → findD th.vregs (r * 32 + lane) 0 = wordAt bs (7168 + 128 * r + 4 * lane)) ∧
  (∀ (s : State) (k : Core) (th : Thread) (part quad : Nat), th.regs < 65536 → th.wave < 65536 → th.log = [] → th.ccp = false →
    let u := waveFrom s part quad (waveImage k th)
    u.regs = th.regs ∧ u.wave = th.wave ∧ u.gang = th.gang ∧ u.flags = th.flags ∧ u.exc = th.exc.stored ∧ u.rgnpc = th.rgnpc ∧
    u.trappc = th.trappc ∧ u.utrapbase = th.utrapbase ∧ u.paths.frame = th.paths.frame.map (fun f => { f with mode := f.mode &&& 0x0FFF, fmt := f.fmt &&& 0x00FFFFFF }) ∧
    (∀ n, u.pred n = if n < 8 then th.pred n else 0) ∧
    (∀ n, (u.paths.slot n).pc = (th.paths.slot n).pc ∧ (u.paths.slot n).mask = (th.paths.slot n).mask ∧
      (u.paths.slot n).mode = (th.paths.slot n).mode &&& 0x0FFF ∧ (u.paths.slot n).fmt = (th.paths.slot n).fmt &&& 0x00FFFFFF ∧
      (u.paths.slot n).jpc = (th.paths.slot n).jpc ∧
      ∀ i, i < 32 → findD (u.paths.slot n).sregs i 0 = findD (th.paths.slot n).sregs i 0) ∧
    ∀ r lane, r < th.regs → lane < 32 →
      findD u.vregs (r * 32 + lane) 0 = BitVec.ofNat 32 (vectorWord k th r lane))

/-- R93, R147, R165, R218, R292 to R296, R298, R328: the steps of the dispatcher. `placeDue`, `snapshotDue` and `retireDue` say when a
step is due. The model's choices: a bank in another module is read over Yarrow, and a refusal or a failure there ends the launch with
reason 1 (log 29); TOKEN_CHARGE charges every core at once and refills the slew allowances (log 48). -/
def Obligations.LaunchSteps : Prop :=
  (∀ (s : State) (launch core rank b : Nat) (w : Waiting) (l : Launch), core < coreCount → s.launchAt launch = some l →
    placeDue s launch core = some (w, [(core, rank, b)]) → b < 2 ^ 32 → l.waves ≤ 32 →
    (detResident s core = true ∨ l.det = true → (s.coreAt core).gear.hot = false ∧ (s.coreAt core).gear.held = false ∧
      (s.coreAt core).gear.cap = 0) →
    ∃ u slot x, exec (.blockPlacement launch core) s = .next u ∧ u.mem = s.mem ∧ freeKey (s.coreAt core).blocks 0 32 = some slot ∧
      u.blockAt core slot = some x ∧ x.launch = launch ∧ x.blklin = b ∧ x.regions = [] ∧ x.rings = [] ∧ x.marker = l.phase0 ∧
      (u.coreAt core).partition = some l.partition ∧ u.served = l.partition ∧
      (∀ n, n < l.waves → ∃ th, find x.threads n = some th ∧ th.ccp = false ∧ th.regs = l.regs ∧ th.vregs = [] ∧
        th.bound = [] ∧ th.paths.slot0.pc = BitVec.ofNat 32 l.entry ∧ th.paths.slot0.mask = 0xFFFFFFFF ∧
        th.paths.slot1.mask = 0 ∧ th.paths.frame = none) ∧
      (l.ccpEntry ≠ 0 → ∃ th, find x.threads ccpThread = some th ∧ th.ccp = true ∧
        th.paths.slot0.pc = BitVec.ofNat 32 l.ccpEntry) ∧
      ∀ n, n ≠ slot → u.blockAt core n = s.blockAt core n) ∧
  (∀ (s : State) (launch : Nat) (x : Launch), rising s.launches = true →
    (snapshotDue s launch = some x →
      let ends := fun (q : Launch → Prop) => ∃ u y, exec (.constantSnapshot launch) s = .next u ∧ u.mem = s.mem ∧
        u.launchAt launch = some y ∧ q y
      (bankParts s x.partition x.kbank = none → ends fun y => y.state = .failed ∧ y.reason = 1) ∧
      (∀ parts, bankParts s x.partition x.kbank = some parts →
        let a : LaneAccess := { lane := 0, va := x.kbank, parts := parts, remote := x.asked }
        (a.isRemote s = false ∨ x.asked ≠ []) → remoteEnd s a ≠ .waiting →
        ((remoteEnd s a ≠ .data ∨ (readAll s x.partition a).2 = true) → ends fun y => y.state = .failed ∧ y.reason = 1) ∧
        (remoteEnd s a = .data → (readAll s x.partition a).2 = false → ends fun y =>
          y.state = .dispatching ∧ y.next = x.next ∧ ∀ k, k < 256 →
            findD y.consts k 0 = BitVec.ofNat 32 (leAt (readAll s x.partition a).1 (4 * k) 4)))) ∧
    (retireDue s launch = some x → ∃ u y, exec (.launchRetire launch) s = .next u ∧ u.mem = s.mem ∧
      u.launchAt launch = some y ∧ y.state = .done ∧
      ∀ i ∈ x.doneCounters, x.doneCounters.Nodup →
        ((u.partAt x.partition).counter i).count = (((s.partAt x.partition).counter i).count + 1) % 2 ^ 48)) ∧
  (∀ (s : State) (core p : Nat) (k : Core),
    s.cores.filter (fun x => !x.2.blocks.isEmpty && x.2.partition.isSome) = [(core, k)] → k.partition = some p →
    let payer := if 1 ≤ (s.partAt p).balance then p else (lenderOf s p).getD p
    ∃ u, exec .tokenCharge s = .next u ∧ { u with partitions := s.partitions } = s ∧
      (∀ q, (u.partAt q).balance = (s.partAt q).balance - (if q = payer then 1 else 0)) ∧
      (∀ q, ¬1 ≤ (s.partAt p).balance → lenderOf s p = some q →
        findD (u.partAt p).debts q 0 = findD (s.partAt p).debts q 0 + 1) ∧
      ∀ q, q < partitionCount → (u.partAt q).allowance =
        if (s.partAt q).allowance < 10 * (s.partAt q).slew then min ((s.partAt q).allowance + (s.partAt q).slew) (10 * (s.partAt q).slew)
        else (s.partAt q).allowance) ∧
  (∀ (s : State), (∀ p, p < partitionCount → (s.partAt p).debts = []) →
    ∃ u, exec .tokenRefill s = .next u ∧ { u with partitions := s.partitions } = s ∧ ∀ p, p < partitionCount →
      (u.partAt p).balance = if (s.partAt p).configured then min ((s.partAt p).balance + (s.partAt p).refill) (s.partAt p).cap
        else (s.partAt p).balance) ∧
  (∀ (s : State) (p q n : Nat), p < partitionCount → q < partitionCount → p ≠ q → (s.partAt p).configured = true →
    (s.partAt q).configured = false → (s.partAt p).debts = [(q, n)] →
    (∀ r, r < partitionCount → r ≠ p → (s.partAt r).debts = []) →
    let paid := min n ((s.partAt p).refill / 2)
    0 < paid → ∃ u, exec .tokenRefill s = .next u ∧
      (u.partAt p).balance = min ((s.partAt p).balance + (s.partAt p).refill - paid) (s.partAt p).cap ∧
      findD (u.partAt p).debts q 0 = n - paid ∧
      (u.partAt q).balance = min ((s.partAt q).balance + paid) (s.partAt q).cap)

/-- R302, R311, R320, R323, R325, R326, R328 to R331, R366, R367: the steps of the power side. That a core which POWER_INTERVAL does not
name has a stall ratio of 0, keeps the rest of its gear and is sampled at its last temperature is the model's choice (log 71); so is the
reason with which a deterministic launch stops (log 72). -/
def Obligations.PowerSteps : Prop :=
  (∀ (s : State), (s.cores.map (·.1)).Nodup → ∃ u, exec .lifetimeSave s = .next u ∧
    { u with boot := { u.boot with saved := s.boot.saved, savedIntervals := s.boot.savedIntervals } } = s ∧
    u.boot.savedIntervals = s.intervals ∧
    ∀ c k, find s.cores c = some k → find u.boot.saved c = some (k.lifeNow, k.gear.offset, k.gear.floor)) ∧
  (∀ (s : State), s.rack.lease.isSome = true →
    exec .rackcapLeaseExpiry s = .next { s with rack := { s.rack with watts := 3080, lease := none } }) ∧
  (∀ (s : State) (samples : List CoreSample) (points : List PointWrite), samplesFit s samples = true →
    (∀ x ∈ points, pointFits x = true) → (∀ x ∈ samples, x.cap = 0 ∧ x.celsius ≤ 105 ∨ detResident s x.core = false) →
    ∃ u, exec (.powerInterval samples points) s = .next u ∧ SameMemory s u ∧
      (∀ x ∈ samples, (u.coreAt x.core).gear = { (s.coreAt x.core).gear with
          cap := x.cap, celsius := x.celsius, offered := decide (95 < x.celsius), hot := decide (105 < x.celsius)
          held := decide (110 < x.celsius) || ((s.coreAt x.core).gear.held && decide (100 ≤ x.celsius))
          stallr := BitVec.ofNat 32 (if x.cycles = 0 then 0 else min 0xFFFF (65536 * x.stalled / x.cycles)) } ∧
        (u.coreAt x.core).life = sampleLife (s.coreAt x.core).life (s.coreAt x.core).gear x.celsius 1) ∧
      (∀ c, (∀ x ∈ samples, x.core ≠ c) → (u.coreAt c).gear =
        if (find s.cores c).isSome then { (s.coreAt c).gear with stallr := 0 } else (s.coreAt c).gear) ∧
      (∀ c, (s.cores.map (·.1)).Nodup → (∀ x ∈ samples, x.core ≠ c) → (u.coreAt c).life =
        if (find s.cores c).isSome then sampleLife (s.coreAt c).life (s.coreAt c).gear (s.coreAt c).gear.celsius 1
        else sampleLife freshLife freshGear freshGear.celsius (s.intervals + 1)) ∧
      (∀ x, points = [x] →
        find (u.partAt x.partition).points (x.kernel * 65536 + x.marker) = some (x.level, s.tick)) ∧
      ∀ c n b, s.blockAt c n = some b → ∃ b', u.blockAt c n = some b' ∧
        b'.expired = (b.expired && b.leaving.isSome) ∧ b'.regions = b.regions) ∧
  (∀ (s : State) (core : Nat), core < coreCount →
    let k := s.coreAt core
    (∃ u, exec (.ldoDroop core) s = .next u ∧ OnlyCore core s u ∧
      u.coreAt core = { k with life := { k.life with droops := min (k.life.droops + 1) (2 ^ 64 - 1) } }) ∧
    (shiftDue s core = true → ∃ u, exec (.gearShiftStart core) s = .next u ∧
      let target := resolvePoint s core
      u.coreAt core = { k with gear := { k.gear with shift := some target } } ∧ (∀ c, c ≠ core → u.coreAt c = s.coreAt c) ∧
      u.mem = s.mem ∧
      (∀ p, slewPart k = some p → (s.partAt p).slew ≠ 0 →
        (u.partAt p).allowance = (s.partAt p).allowance - (pointCurrent target - pointCurrent k.gear.point)) ∧
      ∀ p, slewPart k ≠ some p → u.partAt p = s.partAt p) ∧
    (∀ target, k.gear.shift = some target → ∃ u, exec (.gearShiftEnd core) s = .next u ∧ (u.coreAt core).gear.point = target ∧
      (u.coreAt core).gear.shift = none ∧ (u.coreAt core).fifo = [] ∧ u.agenda = k.fifo.map (·.1) ++ s.agenda ∧
      (u.coreAt core).life.shifts = min (k.life.shifts + 1) (2 ^ 64 - 1) ∧ (u.coreAt core).blocks = k.blocks ∧ u.mem = s.mem) ∧
    (k.gear.auto = false → detResident s core = false → autoHolds s core = true →
      ∃ u, exec (.autoProof core) s = .next u ∧ OnlyCore core s u ∧
        u.coreAt core = { k with gear := { k.gear with auto := true } }) ∧
    (∀ celsius, ∃ u, exec (.thermalLimit core celsius) s = .next u ∧ u.mem = s.mem ∧
      (u.coreAt core).gear = { k.gear with
        celsius := celsius, offered := decide (95 < celsius), hot := decide (105 < celsius)
        held := decide (110 < celsius) || (k.gear.held && decide (100 ≤ celsius)) } ∧
      (celsius ≤ 105 ∨ detResident s core = false → OnlyCore core s u ∧ (u.coreAt core).blocks = k.blocks) ∧
      (105 < celsius → rising s.launches = true → ∀ n b l, s.blockAt core n = some b → b.aborted = false → s.launchAt b.launch = some l → l.det = true →
        l.live = true → ∃ y, u.launchAt b.launch = some y ∧ y.state = .failed ∧ y.reason = 3)))

/-- R55, R236, R340, R345 to R348, R350 to R353, R359, R374: the fabric side. The model's choices: how a message's bytes fall into flits,
and what is done with a flit that was made bad (log 18); the fields of an ERROR event's payload (log 7); a nak frees no flit (log 73); a
request that is refused is not noted as applied (log 88); and how many contributions of a round a hop adds up before it passes their sum
on, a free value (log 99). -/
def Obligations.FabricSteps : Prop :=
  (∀ (s : State) (p : Nat) (h : Word), p < portCount →
    let x := s.portAt p
    let samePorts := fun (u : State) => { u with fabric := { u.fabric with ports := s.fabric.ports } } = s ∧
      ∀ q, q ≠ p → u.portAt q = s.portAt q
    let quiet := x.outbox = [] ∨ ∀ y ∈ s.threads, y.2.arms.any (armedFor p) = false
    let onlyPort := fun (u : State) => (quiet → samePorts { u with agenda := s.agenda }) ∧
      u.agenda = s.agenda ++ (if 8 ≤ (u.portAt p).replays then [.linkDown p] else [])
    let lane := bits h.toNat 14 12
    let n := if bits h.toNat 11 6 = 0 then 64 else bits h.toNat 11 6
    let credited := fun (y : Port) => ∀ vl, findD y.credits vl 0 =
      findD x.credits vl 0 - (if bit h.toNat 15 = true ∧ vl = lane then n else 0)
    (x.up = true → x.discarding = true → (flitKind h ∈ [0, 5, 7] → ∃ u, exec (.flitAck p h) s = .next u ∧ onlyPort u ∧ u.portAt p = x) ∧
      (flitKind h = 6 → ∃ u, exec (.flitNak p h) s = .next u ∧ onlyPort u ∧ u.portAt p = x)) ∧
    (x.up = true → x.discarding = false → flitKind h = 5 → ∃ u, exec (.flitAck p h) s = .next u ∧ onlyPort u ∧
      (x.outbox = [] → credited (u.portAt p) ∧
        ((∀ f ∈ x.unacked, f.seq ≠ flitSeq h) → (u.portAt p).unacked = x.unacked ∧ (u.portAt p).replays = x.replays) ∧
        (∀ f rest, x.unacked = f :: rest → x.injected = some f.seq → (u.portAt p).unacked = x.unacked) ∧
        (x.injected = none → ∀ before f after, x.unacked = before ++ f :: after → (∀ g ∈ before, g.seq ≠ f.seq) → f.seq = flitSeq h →
          (u.portAt p).unacked = after ∧ (u.portAt p).replays = 0)) ∧
      (∀ k m, x.outbox = [(k, m)] → (∀ f ∈ x.unacked, f.seq ≠ flitSeq h) → x.unacked.length < 1023 → bit h.toNat 15 = true →
        m.vl = lane → findD x.credits m.vl 0 ≤ 64 →
        (u.portAt p).outbox = [] ∧ (u.portAt p).unacked = x.unacked ++ [{ seq := x.nextSeq, kind := k, msg := m }])) ∧
    (x.up = true → x.discarding = false → flitKind h = 0 → ∃ u, exec (.flitAck p h) s = .next u ∧ onlyPort u ∧
      (x.outbox = [] → credited (u.portAt p) ∧ { u.portAt p with credits := x.credits } = x)) ∧
    (x.up = true → x.discarding = false → flitKind h = 7 → ∃ u, exec (.flitAck p h) s = .next u ∧ onlyPort u ∧
      u.portAt p = { x with discarding := true, wire := x.wire ++ [flitHeader 6 0 x.expected] }) ∧
    (x.up = true → x.discarding = false → flitKind h = 6 → ∃ u, exec (.flitNak p h) s = .next u ∧ onlyPort u ∧
      (x.outbox = [] → credited (u.portAt p) ∧ (u.portAt p).unacked = x.unacked ∧
        ((∀ f ∈ x.unacked, f.seq ≠ flitSeq h) → (u.portAt p).replays = x.replays ∧ (u.portAt p).wire = x.wire) ∧
        ∀ before f after, x.unacked = before ++ f :: after → (∀ g ∈ before, g.seq ≠ f.seq) → f.seq = flitSeq h →
          (u.portAt p).replaySeq = flitSeq h ∧
          (u.portAt p).replays = (if x.replaySeq = flitSeq h then x.replays + 1 else 1) ∧
          (∀ g ∈ f :: after, (u.portAt p).injected ≠ some g.seq) ∧
          (u.portAt p).wire = x.wire ++ (f :: after).map Flit.header)) ∧
    (x.up = true → ∃ u, exec (.uncorrectableCodeword p) s = .next u ∧ samePorts u ∧
      u.portAt p = { x with discarding := true, wire := x.wire ++ [flitHeader 6 0 x.expected], errors := x.errors + 1 }) ∧
    (x.up = true → ∀ f, x.unacked = [f] → x.outbox = [] → s.fabric.resend = [] →
      (∀ w, f.msg.vl ∉ [1, 3, 4] →
        (∀ q, q < portCount → q ≠ p → bit (findD s.fabric.routes f.msg.home 0) q = true → (s.portAt q).up = false) →
        (s.towardAt f.msg.home).waiting.find? (fun y => y.msg.number = f.msg.number) = some w →
        ∃ u, exec (.linkDown p) s = .next u ∧ u.portAt p = { freshPort with errors := x.errors } ∧ u.fabric.resend = [] ∧
          (u.towardAt f.msg.home).failed = (s.towardAt f.msg.home).failed ++ [f.msg.number] ∧
          (u.towardAt f.msg.home).waiting =
            (s.towardAt f.msg.home).waiting.filter (fun y => y.msg.number ≠ f.msg.number)) ∧
      (∀ q, f.msg.count = 1 → (livePorts s f.msg.home).filter (fun r => r ≠ p) = [q] → portTakes s f.msg.vl q = true →
        (s.portAt q).outbox = [] → ∃ u, exec (.linkDown p) s = .next u ∧ u.portAt p = { freshPort with errors := x.errors } ∧
          (u.portAt q).unacked = (s.portAt q).unacked ++ [{ seq := (s.portAt q).nextSeq, kind := 4, msg := f.msg }])) ∧
    (x.up = false → s.boot.stage = 7 → s.fabric.named = true → ∃ u, exec (.linkTrainingComplete p) s = .next u ∧
      u.portAt p = { freshPort with up := true, errors := x.errors } ∧ u.fabric.trained = true ∧
      ∀ q, q ≠ p → u.portAt q = s.portAt q) ∧
    (∀ vls, x.up = true → flitKind h = 4 → bits h.toNat 28 26 ∈ vls →
      (flitSeq h = x.expected → x.outbox = [] → ∃ u, s.land ⟨p, [h]⟩ vls 1 = .whole u ∧ onlyPort u ∧ credited (u.portAt p) ∧
        (u.portAt p).expected = (x.expected + 1) % 1024 ∧ (u.portAt p).discarding = false ∧
        (∀ vl, findD (u.portAt p).partials vl 0 = findD x.partials vl 0) ∧
        (u.portAt p).wire = x.wire ++ [withCredits (flitHeader 5 0 x.expected) (bits h.toNat 28 26) 1]) ∧
      (flitSeq h ≠ x.expected → ∃ u, s.land ⟨p, [h]⟩ vls 1 = .dropped u ∧ onlyPort u ∧ u.portAt p = x))) ∧
  (∀ (s u : State) (via : Landing) (m : RemoteMsg), via.port < portCount →
    s.land via (requestLanes m.op) (flitCount (opData m.op)) = .dropped u → exec (.remoteRequest via m) s = .next u) ∧
  (∀ (s v : State) (via : Landing) (m : RemoteMsg), via.port < portCount →
    s.land via (requestLanes m.op) (flitCount (opData m.op)) = .whole v → m.home = s.fabric.module → m.source ≠ s.fabric.module →
    let key := tenancyKey s m.tenancy
    let fresh := notApplied (findD s.fabric.dups m.source freshDup) m.number = true
    let inside := windowTakes s m = true ∧ keyExists m.addr = true ∧ keyExists (m.addr + opLength m.op - 1) = true
    ∃ u r, exec (.remoteRequest via m) s = .next u ∧ u.fabric.sent = s.fabric.sent ++ [r] ∧
      (fresh → r.home = m.home ∧ r.number = m.number) ∧
      (fresh → windowTakes s m = false → r.refused = true ∧ u.mem = s.mem ∧ u.fabric.dups = s.fabric.dups) ∧
      (¬fresh → u.mem = s.mem ∧ u.memKey = s.memKey ∧ u.poison = s.poison ∧ u.seals = s.seals) ∧
      (∀ n, m.op = .read n → fresh → inside → r.bytes = s.readMem key m.addr n ∧
        r.poison = anyPoison s.poison m.addr n ∧ u.mem = s.mem) ∧
      (∀ bs, m.op = .write bs → fresh → inside →
        (meetsSeal s m = true → r.sealed = true ∧ u.mem = s.mem ∧ u.fabric.dups = s.fabric.dups) ∧
        (meetsSeal s m = false → (∀ i, i < bs.length → u.readByte key (m.addr + i) = bs.getD i 0) ∧
          ∀ k a, (a / 16 < m.addr / 16 ∨ (m.addr + bs.length - 1) / 16 < a / 16) → u.readByte k a = s.readByte k a))) ∧
  (∀ (s v : State) (via : Landing) (r : RemoteReply), via.port < portCount →
    s.land via [1] (flitCount r.bytes.length) = .whole v →
    (∀ w, (s.towardAt r.home).waiting.find? (fun w => w.msg.number = r.number) = some w → replyFits w.msg r = true →
      ∃ u, exec (.remoteResponse via r) s = .next u ∧ (u.towardAt r.home).replies = (s.towardAt r.home).replies ++ [r] ∧
        (u.towardAt r.home).waiting = (s.towardAt r.home).waiting.filter (fun w => w.msg.number ≠ r.number)) ∧
    ((s.towardAt r.home).waiting.find? (fun w => w.msg.number = r.number) = none →
      ∃ u, exec (.remoteResponse via r) s = .next u ∧ u.towardAt r.home = s.towardAt r.home)) ∧
  (∀ (s : State) (home n : Nat) (w : Outstanding), (s.towardAt home).waiting.find? (fun w => w.msg.number = n) = some w →
    ∃ u e, exec (.remoteTimeout home n) s = .next u ∧ (u.towardAt home).failed = (s.towardAt home).failed ++ [n] ∧
      u.host.sent = s.host.sent ++ [(w.part, e)] ∧ leAt e 2 2 = 0x8008 ∧ leAt e 32 2 = home % 65536 ∧ u.mem = s.mem) ∧
  (∀ (s v : State) (c : ContributionIn), c.via.port < portCount → s.land c.via [3] (sumFlits c.sum) = .whole v →
    s.boot.stage = 7 → c.sum.root ≠ s.fabric.module → hopFull v c.sum = false →
    let fresh := notApplied (findD s.fabric.hopDups (c.source * 2048 + c.sum.root) freshDup) c.number
    (fresh = false → exec (.reductionContribution c) s = .next v) ∧
    (fresh = true → ∃ u, exec (.reductionContribution c) s = .next u ∧ u.mem = s.mem ∧ u.poison = s.poison ∧
      ∀ x, s.fabric.gathered = [x] → sameRound c.sum x = true → livePorts v c.sum.root ≠ [] →
        let y := addContribution x c.sum
        u.fabric.gathered = (if hopShare c.sum ≤ y.count then [] else [y]) ∧
        u.fabric.contributions = s.fabric.contributions ++
          if hopShare c.sum ≤ y.count then [((s.towardAt c.sum.root).next, y)] else [])) ∧
  (∀ (a b : Contribution), a.types = b.types → a.sums.length = b.sums.length →
    { (roundOf a).add b with modules := [] } = { (roundOf b).add a with modules := [] } ∧
    ∀ m, m ∈ ((roundOf a).add b).modules ↔ m ∈ ((roundOf b).add a).modules) ∧
  (∀ (s : State) (i : ResultIn) (t : ThreadRef) (th : Thread) (c : Command) (b : Block),
    let r := i.result
    participants s r = [(t, c)] → s.threadAt t = some th → s.blockAt t.core t.block = some b →
    (i.via = none ∨ ∃ via v, i.via = some via ∧ via.port < portCount ∧ s.land via [4] (flitCount r.bytes.length) = .whole v) →
    (th.cmds.find? fun x => x.seq = c.seq) = some c → c.claims = [] → c.flags.ring = false → c.flags.chk = false →
    (s.coreAt t.core).gear.shift = none → (∀ e ∈ b.threads, e.2.arms = []) →
    let code := r.status % 16
    let len := r.bytes.length
    ∃ u y, exec (.reductionResult i) s = .next u ∧ u.threadAt t = some y ∧
      (code ≠ 0 → u.mem = s.mem ∧
        (y.cmds.find? fun x => x.seq = c.seq).map (·.status) = some (some (statusWord c.beats c.pois 0 code))) ∧
      (∀ rd, code = 0 → sideRegion c.destCode = some rd → c.field 1 + len ≤ 2 ^ 20 → r.poison = false → b.rpois = [] →
        u.mem = s.mem ∧
        (y.cmds.find? fun x => x.seq = c.seq).map (·.status) =
          some (some (statusWord (c.beats + (len + 63) / 64) c.pois (r.status / 16 % 8 * 16) 0)) ∧
        (∀ i, i < len → u.regionByte t.core t.block rd (c.field 1 + i) = some (r.bytes.getD i 0)) ∧
        ∀ q o, (regionKey q o < regionKey rd (c.field 1) ∨ regionKey rd (c.field 1) + len ≤ regionKey q o) →
          u.regionByte t.core t.block q o = s.regionByte t.core t.block q o))

/-- R182, R285, R290, R297, R299, R315, R317, R339, R341, R349, R350, R353, R372, R373: the records of the hosts. The model's choices: an
SPDM response takes a time of the implementation's, a free value, and its layout is DMTF's (log 78, log 11); MAINT waits until its core
is empty (log 69); STATSREAD leaves the lifetime record alone (log 70); which of the record's fields an answer carries (log 63); and a
seal in a bigger leaf is of the whole leaf (log 65). -/
def Obligations.HostRecords : Prop :=
  (∀ (s : State) (r : HostRecord) (x : Sender) (T : Nat) (i : HostRecord → Instr),
    (T, i) ∈ [(0x01, Instr.launch), (0x02, .mbasinCancel), (0x03, .ctrread), (0x04, .ctrwrite), (0x05, .sealSegment),
      (0x06, .unsealSegment), (0x07, .statsread), (0x08, .redgrp), (0x09, .spdm), (0x10, .partcfg), (0x11, .railmap),
      (0x12, .budget), (0x13, .ctxarea), (0x14, .rackcap), (0x15, .modid), (0x16, .route), (0x17, .window),
      (0x18, .liferead), (0x19, .maint), (0x1B, .seccfg), (0x1C, .extend), (0x20, .dhalt), (0x21, .dread),
      (0x22, .dwrite), (0x23, .dresume), (0x24, .darm)] →
    senderOf s r = some x → r.type = T → portsTake s T = true →
    let accepted := (findD s.host.queues r.queue freshQueue).accepted
    (malformedRecord r = true → exec (i r) s = .next (sendRefused s r (streamOf r x) 5 0)) ∧
    (malformedRecord r = false → reachable r x = false → exec (i r) s = .next (sendRefused s r (streamOf r x) 4 0)) ∧
    (malformedRecord r = false → reachable r x = true →
      (r.hseq ≤ accepted → exec (i r) s = .next s) ∧
      (accepted + 1 < r.hseq → exec (i r) s = .next (sendRefused s r (streamOf r x) 2 0)))) ∧
  (∀ (s : State) (r : HostRecord) (x : Sender), senderOf s r = some x → portsTake s r.type = true →
    malformedRecord r = false → reachable r x = true →
    r.hseq = (findD s.host.queues r.queue freshQueue).accepted + 1 →
    let p := r.part
    let stream := streamOf r x
    let answers := fun (u : State) (answer : List Byte) => u.host.sent = s.host.sent ++ [(stream,
      eventBytes 0x8005 r.queue r.eventPart 0 r.hseq ((findD s.host.streams stream freshStream).dseq + 1)
        (leBytes 2 r.type ++ zeros 6 ++ leBytes 8 r.hseq ++ answer))]
    let quiet := fun (u : State) => u.mem = s.mem ∧ u.cores = s.cores
    (r.type = 0x01 → let l := launchFrom r
      (∀ n, launchReason l = some n → ∃ u, exec (.launch r) s = .next u ∧ u.launches = s.launches ∧
        u.host.sent = s.host.sent ++ [(stream, eventBytes 0x8003 r.queue r.eventPart 1 r.hseq
          ((findD s.host.streams stream freshStream).dseq + 1)
          (leBytes 2 r.type ++ leBytes 2 1 ++ leBytes 4 n ++ leBytes 8 r.hseq))]) ∧
      (launchReason l = none → ∃ u y, exec (.launch r) s = .next u ∧ u.mem = s.mem ∧
        u.nextLaunch = (s.nextLaunch + 1) % 2 ^ 32 ∧ u.launchAt s.nextLaunch = some y ∧ y.partition = r.queue / 8 ∧
        y.queue = r.queue % 8 ∧ y.hseq = r.hseq ∧ y.desc = (r.bytes.drop 32).take 128 ∧ y.nblk = l.gridBlocks ∧ y.next = 0)) ∧
    (r.type = 0x02 → rising s.launches = true → let level := r.field 32 4; let n := r.field 36 4
      level ≤ 3 → 1 ≤ n → n < 4096 → ∃ u, exec (.mbasinCancel r) s = .next u ∧ u.mem = s.mem ∧
        ((u.partAt p).counter n).canc = true ∧ ∀ k y, s.launchAt k = some y → y.partition = p → y.done level = n →
          y.state ∉ [.done, .cancelled, .failed] → (u.launchAt k).map (fun z => (z.state, z.reason)) = some (.cancelled, 4)) ∧
    (r.type = 0x03 → 1 ≤ r.field 32 4 → r.field 32 4 < 4096 → r.field 36 4 = 0 →
      ∃ u, exec (.ctrread r) s = .next u ∧ quiet u ∧ u.partitions = s.partitions ∧
        let c := (s.partAt p).counter (r.field 32 4)
        answers u (leBytes 8 (c.count + (if c.canc then 2 ^ 63 else 0)))) ∧
    (r.type = 0x04 → 1 ≤ r.field 32 4 → r.field 32 4 < 4096 → r.field 36 4 = 0 → r.field 40 8 / 2 ^ 48 % 2 ^ 15 = 0 →
      ∃ u, exec (.ctrwrite r) s = .next u ∧ u.mem = s.mem ∧
        ((u.partAt p).counter (r.field 32 4)).count = r.field 40 8 % 2 ^ 48 ∧
        (2 ^ 63 ≤ r.field 40 8 → ((u.partAt p).counter (r.field 32 4)).canc = true)) ∧
    (r.type = 0x07 → r.field 32 4 < coreCount → r.field 36 4 = 0 → (s.coreAt (r.field 32 4)).partition = some p →
      let k := s.coreAt (r.field 32 4)
      ∃ u, exec (.statsread r) s = .next u ∧ u.mem = s.mem ∧ answers u (statsBytes k.stats) ∧
        (u.coreAt (r.field 32 4)).stats = freshStats ∧ (u.coreAt (r.field 32 4)).lifeNow = k.lifeNow) ∧
    (r.type = 0x08 → let g := r.field 32 2; let n := r.field 36 4; let root := r.field 40 2
      r.field 34 2 = 0 → n ≤ 32768 → root ≤ 2047 → r.field 42 6 = 0 →
      (n ≠ 0 → ((find (s.partAt p).groups g).isSome = true ∨ groupCount s < 1024) → ∃ u, exec (.redgrp r) s = .next u ∧
        u.mem = s.mem ∧ find (u.partAt p).groups g = some { contributors := n, root := root } ∧
        (∀ k ∈ u.cores, find k.2.rounds (groupKey p g) = none) ∧
        ∀ q, q ≠ g → find (u.partAt p).groups q = find (s.partAt p).groups q) ∧
      (n = 0 → (find (s.partAt p).groups g).isSome = true → ∃ u, exec (.redgrp r) s = .next u ∧ u.mem = s.mem ∧
        find (u.partAt p).groups g = none)) ∧
    (r.type = 0x09 →
      (s.boot.forming = none → ∃ u, exec (.spdm r) s = .next u ∧ quiet u ∧ u.host.sent = s.host.sent ∧
        u.boot = { s.boot with
          exchanges := s.boot.exchanges + 1
          forming := some { queue := r.queue, part := r.eventPart, stream := stream, hseq := r.hseq, request := r.bytes.drop 32,
                            meas := s.boot.meas, number := s.boot.exchanges, ready := s.tick + Config.spdmTime s.boot.exchanges } }) ∧
      (s.boot.forming ≠ none → ∃ u, exec (.spdm r) s = .next u ∧ quiet u ∧ u.boot = s.boot ∧ answers u (spdmError spdmBusy 0))) ∧
    (r.type = 0x10 → badPartition r = false → partitionResident s p = false → ∃ u, exec (.partcfg r) s = .next u ∧
      u.mem = s.mem ∧ answers u [] ∧ let q := u.partAt p
      q.configured = true ∧ q.jobs = configuredJobs r ∧ q.tenancy = r.field 48 2 ∧
      q.tss = decide (r.field 50 1 = 1) ∧ q.ptroot.toNat + 2 ^ 32 * q.ptrooth.toNat = r.field 56 8 ∧
      q.pool.toNat * 4096 = r.field 64 8 ∧ q.trapbase.toNat = r.field 72 4 ∧
      ((s.partAt p).configured = true → (s.partAt p).tenancy = r.field 48 2 → q.key = (s.partAt p).key) ∧
      ((s.partAt p).configured = false ∨ (s.partAt p).tenancy ≠ r.field 48 2 → q.key = s.nextKey ∧ u.nextKey = s.nextKey + 1)) ∧
    (r.type = 0x11 → (∀ b ∈ (r.bytes.drop 32).take coreCount, b.toNat < 4) → ∃ u, exec (.railmap r) s = .next u ∧
      u.mem = s.mem ∧ answers u [] ∧ ∀ c, c < coreCount → let g := (u.coreAt c).gear; let b := (r.bytes.getD (32 + c) 0).toNat
        ((s.coreAt c).blocks = [] → g.railPB = decide (b % 2 = 1) ∧ g.railBB = decide (b / 2 = 1) ∧ g.railNext = none) ∧
        ((s.coreAt c).blocks ≠ [] → g.railPB = (s.coreAt c).gear.railPB ∧
          g.railNext = some (decide (b % 2 = 1), decide (b / 2 = 1)))) ∧
    (r.type = 0x12 → r.field 52 4 = 0 → ∃ u, exec (.budget r) s = .next u ∧ quiet u ∧ answers u [] ∧ u.partAt p =
      { s.partAt p with refill := r.field 32 8, cap := r.field 40 8, slew := r.field 48 4, allowance := 10 * r.field 48 4,
                        balance := min (s.partAt p).balance (r.field 40 8) }) ∧
    (r.type = 0x13 → r.field 32 8 % 65536 = 0 → r.field 40 8 % 65536 = 0 → r.field 32 8 + r.field 40 8 ≤ 2 ^ 40 →
      ∃ u, exec (.ctxarea r) s = .next u ∧ quiet u ∧ answers u [] ∧
        u.partAt p = { s.partAt p with areaBase := r.field 32 8, areaSize := r.field 40 8 }) ∧
    (r.type = 0x14 → ∃ u, exec (.rackcap r) s = .next u ∧ quiet u ∧ answers u [] ∧ u.rack =
      if r.field 32 8 ≤ s.rack.seq then s.rack
      else { seq := r.field 32 8, watts := r.field 40 4, lease := some (r.field 44 4) }) ∧
    (r.type = 0x15 → r.field 32 2 ≤ 2047 → r.field 34 6 = 0 → s.fabric.trained = false → ∃ u, exec (.modid r) s = .next u ∧
      quiet u ∧ answers u [] ∧ u.fabric = { s.fabric with module := r.field 32 2, named := true }) ∧
    (r.type = 0x16 → r.field 32 2 ≤ 2047 → r.field 34 6 = 0 → r.field 40 8 < 2 ^ 36 → ∃ u, exec (.route r) s = .next u ∧
      quiet u ∧ answers u [] ∧ ∀ m, findD u.fabric.routes m 0 =
        if m = r.field 32 2 then r.field 40 8 else findD s.fabric.routes m 0) ∧
    (r.type = 0x17 → r.field 32 1 ≤ 63 → r.field 33 1 ≤ 3 → r.field 40 8 % 65536 = 0 → r.field 40 8 < 2 ^ 52 →
      ∃ u, exec (.window r) s = .next u ∧ quiet u ∧ answers u [] ∧ (∀ n, n ≠ r.field 32 1 →
        find u.fabric.windows n = find s.fabric.windows n) ∧ find u.fabric.windows (r.field 32 1) =
          if r.field 36 4 = 0 then none else some
            { r := decide (r.field 33 1 % 2 = 1), w := decide (r.field 33 1 / 2 = 1), tenancy := r.field 34 2,
              base := r.field 40 8, size := r.field 36 4 }) ∧
    (r.type = 0x18 → r.field 32 4 < coreCount → r.field 36 4 = 0 → ∃ u, exec (.liferead r) s = .next u ∧ quiet u ∧
      answers u (lifeBytes (s.coreAt (r.field 32 4)))) ∧
    (r.type = 0x19 → r.field 32 4 < coreCount → r.field 36 4 = 0 → ∃ u, exec (.maint r) s = .next u ∧ u.mem = s.mem ∧
      u.host.sent = s.host.sent ∧ (u.coreAt (r.field 32 4)).maint = (s.coreAt (r.field 32 4)).maint ++ [r.hseq]) ∧
    (r.type = 0x1B → r.field 36 4 = 0 → (∀ n, n < 4 → r.field (32 + n) 1 ≤ 2 ∧ alarmLevel s n ≤ r.field (32 + n) 1) →
      ∃ u, exec (.seccfg r) s = .next u ∧ quiet u ∧ answers u [] ∧ ∀ n, n < 4 → alarmLevel u n = r.field (32 + n) 1) ∧
    (r.type = 0x1C → 5 ≤ r.field 32 4 → r.field 32 4 ≤ 7 → r.field 36 4 = 0 →
      let digest := (r.bytes.drop 40).take 48
      let signing := s.boot.forming.any fun x => signsMeasurements x.request
      (signing = false → ∃ u, exec (.extend r) s = .next u ∧ quiet u ∧ answers u [] ∧
        findD u.boot.meas (r.field 32 4) (zeros 48) = sha384 (findD s.boot.meas (r.field 32 4) (zeros 48) ++ digest)) ∧
      (signing = true → ∃ u, exec (.extend r) s = .next u ∧ quiet u ∧ u.host.sent = s.host.sent ∧
        u.boot = { s.boot with waiting := s.boot.waiting ++ [(r.hseq, r.field 32 4, digest)] })) ∧
    (r.type = 0x24 → r.field 32 1 ≤ 1 → r.field 33 7 = 0 → ∃ u, exec (.darm r) s = .next u ∧ quiet u ∧ answers u [] ∧
      u.partAt p = { s.partAt p with armed := decide (r.field 32 1 = 1) }) ∧
    (∀ c n b, debugLaunch s r = true → placeOf s (r.field 32 4) (r.field 36 4) = some (c, n) → s.blockAt c n = some b →
      b.halted = true → badImage r = false → (r.field 40 1 = 1 ∨ (find b.threads (r.field 41 1)).isSome = true) →
      let image := imageOf s r c n b
      (r.type = 0x21 → r.field 44 4 + r.field 48 4 ≤ image.length → ∃ u, exec (.dread r) s = .next u ∧ quiet u ∧
        answers u ((image.drop (r.field 44 4)).take (r.field 48 4))) ∧
      (r.type = 0x22 → (∀ y ∈ r.bytes.drop (56 + r.field 48 4), y = 0) →
        (∀ k, k < r.field 48 4 → writable (s.launchOf b) (r.field 40 1) (r.field 44 4 + k) = true) →
        ∃ u, exec (.dwrite r) s = .next u ∧ u.mem = s.mem ∧ answers u [] ∧ u.blockAt c n = some { b with
          edits := b.edits ++ [(r.field 40 1, r.field 41 1, r.field 44 4, (r.bytes.drop 56).take (r.field 48 4))] })) ∧
    (∀ c n b, debugLaunch s r = true → badNames r (if r.type = 0x20 then 0 else 1) = false → r.field 40 4 = 1 →
      placeOf s (r.field 32 4) (r.field 48 4) = some (c, n) → s.blockAt c n = some b →
      (r.type = 0x20 → ∃ u b', exec (.dhalt r) s = .next u ∧ SameMemory s u ∧ u.blockAt c n = some b' ∧ b'.halted = true ∧
        { b' with halted := b.halted, exempt := b.exempt } = b) ∧
      (r.type = 0x23 → b.halted = true → b.breaks = [] → b.edits = [] → ∃ u b', exec (.dresume r) s = .next u ∧
        SameMemory s u ∧ u.blockAt c n = some b' ∧ b'.halted = false ∧ { b' with halted := true, exempt := b.exempt } = b)) ∧
    (∀ up a e, (r.type = 0x05 ∧ up = true ∨ r.type = 0x06 ∧ up = false) → r.field 32 8 % 65536 = 0 → r.field 40 8 = 65536 →
      r.field 32 8 + 65536 ≤ 2 ^ 56 → partitionRuns s p = false → s.host.work = [] →
      leafEntry s (s.partAt p).key (r.field 32 8) [3, 2, 1, 0] (rootOf (s.partAt p)) = some (a, e, 0) →
      isLocal s (entryAddr e + (if bit e 5 then tierWeight else 0)) = true →
      let frame := physKey (entryAddr e + (if bit e 5 then tierWeight else 0)) / 65536
      ∃ u, exec (if up then .sealSegment r else .unsealSegment r) s = .next u ∧ answers u [] ∧
        leNat (u.readMem (s.partAt p).key a 8) = (if up then e ||| 8 else e - (if e / 8 % 2 = 1 then 8 else 0)) ∧
        findD u.seals frame 0 = (if up then findD s.seals frame 0 + 1 else findD s.seals frame 0 - 1) ∧
        ∀ f, f ≠ frame → findD u.seals f 0 = findD s.seals f 0)) ∧
  ∀ (s : State) (x : Exchange), s.boot.forming = some x → s.boot.updates = [] → s.boot.waiting = [] →
    (s.tick < x.ready → settleSecurity s = s) ∧
    (x.ready ≤ s.tick → let u := settleSecurity s
      u.mem = s.mem ∧ u.boot = { s.boot with forming := none } ∧ u.host.sent = s.host.sent ++ [(x.stream,
        eventBytes 0x8005 x.queue x.part 0 (findD s.host.queues x.queue freshQueue).accepted
          ((findD s.host.streams x.stream freshStream).dseq + 1)
          (leBytes 2 9 ++ zeros 6 ++ leBytes 8 x.hseq ++
            spdmAnswer s.boot (fun n => findD x.meas n (zeros 48)) x.request x.number))])

/-- R334 to R336, R340, R343, R365, R367, R369 to R371, R376, R377: what happens to the module outside its programs. The model's choices: a
get of poisoned bytes fails, and an unsecured packet of a partition that requires TSS is dropped (log 66); a good recovery image takes slot
A (log 75); what a reset and a power loss keep (log 77); how the boot stages begin and what each step of theirs stands for (log 4); the
algorithms' own definitions and the values measured (log 11); and the sensor that an ALARM event of the boot sequence names (log 76). -/
def Obligations.BootAndPackets : Prop :=
  (∀ (s : State),
    let b := s.boot
    let clear := b.alarm = .clear
    let bootOnly := fun (u : State) => { u with boot := s.boot } = s
    let meas := fun (x : Boot) n => findD x.meas n (zeros 48)
    let grows := fun (u : State) n (digest : List Byte) => meas u.boot n = sha384 (meas b n ++ digest)
    (b.stage ≤ 1 → exec .powerOn s = .next { s with
      boot := { b with stage := 2 }, management := { State.reset.management with memory := s.management.memory } }) ∧
    (b.stage ≠ 0 → ∃ u, exec .moduleReset s = .next u ∧ u.boot.stage = 1 ∧ u.management.running = false ∧ u.launches = [] ∧ u.partitions = [] ∧
      u.clusters = [] ∧ u.host = State.reset.host ∧ u.boot.moduleKey = s.nextKey ∧ u.nextKey = s.nextKey + 1 ∧
      u.boot.epoch = b.epoch ∧ u.boot.rollback = b.rollback ∧ u.boot.alarm = .clear ∧
      ∀ c k, find s.cores c = some k → (u.coreAt c).blocks = [] ∧ (u.coreAt c).life = k.lifeNow ∧
        (u.coreAt c).gear.floor = k.gear.floor ∧ (u.coreAt c).gear.offset = k.gear.offset) ∧
    (b.stage ≠ 0 → ∃ u, exec .powerLoss s = .next u ∧ u.boot.stage = 0 ∧ u.management.running = false ∧ u.mem = [] ∧ u.poison = [] ∧ u.launches = [] ∧
      ∀ c l o f, find b.saved c = some (l, o, f) → (u.coreAt c).life = l ∧ (u.coreAt c).gear.offset = o ∧
        (u.coreAt c).gear.floor = f) ∧
    (b.stage = 2 → clear → (∃ u, exec (.bootRom true) s = .next u ∧ bootOnly u ∧ u.boot.stage = 3 ∧
        meas u.boot 0 = sha384 (zeros 48 ++ sha384 Config.romImage) ∧ ∀ n, n ≠ 0 → meas u.boot n = zeros 48) ∧
      (∃ u, exec (.bootRom false) s = .next u ∧ u.boot.alarm = .erased ∧ u.boot.identity = false ∧ u.boot.stage = 2)) ∧
    (b.stage = 3 → clear → b.recovery = false → ∃ u, exec .bootImageLoad s = .next u ∧ bootOnly u ∧
      ∀ image, (verifyImage b b.slotA = .good ∧ image = b.slotA ∨
          verifyImage b b.slotA ≠ .good ∧ verifyImage b b.slotB = .good ∧ image = b.slotB) →
        u.boot.stage = 4 ∧ u.boot.rollback = max b.rollback (leAt image 4 4) ∧
          grows u 1 (sha384 (image.take (imageLength image)))) ∧
    (b.stage = 3 → clear → b.recovery = false → verifyImage b b.slotA ≠ .good → verifyImage b b.slotB ≠ .good →
      exec .bootImageLoad s = .next { s with boot := { b with recovery := true, recoveryStatus := 0 } }) ∧
    (b.stage = 3 → clear → b.recovery = true → ∀ image,
      (verifyImage b image = .good → exec (.recoveryImage image) s =
        .next { s with boot := { b with recovery := false, recoveryStatus := 0, slotA := image } }) ∧
      (∀ n, verifyImage b image = .bad n →
        exec (.recoveryImage image) s = .next { s with boot := { b with recoveryStatus := n } }) ∧
      exec .recoveryStatusRead s = .next { s with boot := { b with i3c := b.i3c ++ [b.recoveryStatus] } }) ∧
    (b.stage = 4 → clear →
      (∃ u, exec (.bootMemoryTrain true memoryMeasured (fusesMeasured s)) s = .next u ∧ bootOnly u ∧ u.boot.stage = 5 ∧
        grows u 2 memoryMeasured ∧ grows u 3 (fusesMeasured s)) ∧
      ∀ d e, ∃ u, exec (.bootMemoryTrain false d e) s = .next u ∧ u.boot = b ∧ u.host.sent.length = s.host.sent.length + 1) ∧
    (b.stage = 5 → clear → ∀ celsius,
      (celsius < 45 → ∃ u, exec (.bootComputeRails celsius) s = .next u ∧ u.boot = { b with stage := 6 } ∧ u.mem = s.mem ∧
        ∀ c k, find s.cores c = some k → (u.coreAt c).gear.point = slowestProof k.gear) ∧
      (45 ≤ celsius → ∃ u, exec (.bootTempAlarm celsius) s = .next u ∧ u.boot = b ∧ u.mem = s.mem ∧
        u.host.sent.length = s.host.sent.length + 1)) ∧
    (b.stage = 6 → clear →
      exec .bootPortsUp s = .next { s with boot := { b with stage := 7, epoch := (b.epoch + 1) % 2 ^ 32 } }) ∧
    (1 < b.stage → ∀ sensors time, sensors ≠ [] → ∃ u, exec (.securityAlarm sensors time) s = .next u ∧ u.mem = s.mem ∧
      ((∃ x ∈ sensors, alarmLevel s (sensorRow x) = 2) → (∀ x ∈ sensors, alarmLevel s (sensorRow x) ≤ 2) →
        u.boot.alarm = .erased ∧ u.boot.identity = false ∧ u.boot.attest = false ∧ u.boot.moduleKey = 0 ∧
          u.boot.forming = none ∧ ∀ e ∈ u.partitions, e.2.key = 0) ∧
      ((∀ x ∈ sensors, alarmLevel s (sensorRow x) ≤ 1) → (∃ x ∈ sensors, alarmLevel s (sensorRow x) = 1) → clear →
        u.boot = { b with alarm := .halted }) ∧
      ((∀ x ∈ sensors, alarmLevel s (sensorRow x) = 0) → u.boot = b))) ∧
  (∀ (s : State) (job : Nat) (secured : Bool) (va p : Nat) (bytes : List Byte),
    rmaJob s job secured bytes.length = some p → s.host.work = [] →
    let key := (s.partAt p).key
    let reply := fun (u : State) failed bs => u.host.rma = s.host.rma ++ [{ job := job, failed := failed, bytes := bs }]
    let n := bytes.length
    (hostParts s p .store va n = none → ∃ u, exec (.rmaPut job secured va bytes) s = .next u ∧ reply u true [] ∧ u.mem = s.mem) ∧
    (hostParts s p .load va n = none → ∃ u, exec (.rmaGet job secured va n) s = .next u ∧ reply u true [] ∧ u.mem = s.mem) ∧
    (∀ a, hostParts s p .store va n = some [(a, n)] → isLocal s a = true → 0 < n →
      ∃ u, exec (.rmaPut job secured va bytes) s = .next u ∧ reply u false [] ∧
        (∀ i, i < n → u.readByte key (physKey a + i) = bytes.getD i 0) ∧
        ∀ k x, (x / 16 < physKey a / 16 ∨ (physKey a + n - 1) / 16 < x / 16) → u.readByte k x = s.readByte k x) ∧
    (∀ a, hostParts s p .load va n = some [(a, n)] → isLocal s a = true →
      let bad := anyPoison s.poison (physKey a) n
      ∃ u, exec (.rmaGet job secured va n) s = .next u ∧ u.mem = s.mem ∧
        reply u bad (if bad then [] else s.readMem key (physKey a) n))) ∧
  (∀ (s : State) (r : HostRecord) (x : Sender), senderOf s r = some x → portsTake s r.type = true →
    (r.type = 0xFF → malformedRecord r = false → reachable r x = true → r.field 32 2 ≤ 16 → r.field 34 6 = 0 →
      let y := findD s.host.streams (r.field 32 2) freshStream
      ∃ u reply, exec (.sync r) s = .next u ∧ { u with host := { u.host with sent := s.host.sent } } = s ∧
        leAt reply 2 2 = 0x80FF ∧ u.host.sent = s.host.sent ++ (r.field 32 2, reply) ::
          (y.held.filter fun e => decide (r.field 40 8 < e.1)).map fun e => (r.field 32 2, resent e.2)) ∧
    (queueKind r.type = none → exec (.unknownRecord r) s = .next (sendRefused s r (streamOf r x) 5 0))) ∧
  (∀ (s : State) (port : Nat) (q : Packet), port < 4 → s.boot.stage = 7 →
    (q = .unsupported ∨ ∃ id secured, q = .job id secured ∧ takenJob s id secured = none) →
    ∃ u, exec (.droppedPacket port q) s = .next u ∧ { u with host := { u.host with dropped := s.host.dropped } } = s ∧
      findD u.host.dropped port 0 = findD s.host.dropped port 0 + 1) ∧
  (∀ (s : State) (core ppm hseq : Nat) (rest : List Nat), core < coreCount → ppm < 2 ^ 32 →
    (s.coreAt core).maint = hseq :: rest → (s.coreAt core).blocks = [] →
    let k := s.coreAt core
    ∃ u, exec (.maintWindowClose core ppm) s = .next u ∧ u.mem = s.mem ∧ (u.coreAt core).maint = rest ∧
      (u.coreAt core).gear = { k.gear with
        offset := min 8 ((ppm + 2499) / 2500), floor := max k.gear.floor (520 + 5 * (ppm / 5000)) } ∧
      (u.coreAt core).life = { k.life with slow := ppm } ∧ u.host.sent.length = s.host.sent.length + 1)
end

