-- ==== Sys2Proof/Laws/Map.lean ====
section
/-! SUPPORT. The laws of sparse maps: reading after writing, two writes of one key, and that the canonical form is kept. -/

namespace Sys2Proof.Machine

variable {α : Type}

theorem find_setKey_same (m : List (Nat × α)) (k : Nat) (x : α) : find (setKey m k x) k = some x := by
  induction m with
  | nil => simp [setKey, find]
  | cons e r ih =>
    obtain ⟨j, w⟩ := e
    by_cases h : j = k
    · simp [setKey, find, h]
    · by_cases h' : k < j <;> simp [setKey, find, h, h', ih]

theorem find_setKey_other (m : List (Nat × α)) {k i : Nat} (x : α) (h : i ≠ k) : find (setKey m k x) i = find m i := by
  induction m with
  | nil => simp [setKey, find, Ne.symm h]
  | cons e r ih =>
    obtain ⟨j, w⟩ := e
    by_cases hj : j = k
    · subst hj; simp [setKey, find, Ne.symm h]
    · by_cases h' : k < j
      · simp [setKey, find, hj, h', Ne.symm h]
      · simp [setKey, find, hj, h', ih]

theorem find_filter_same (m : List (Nat × α)) (k : Nat) : find (m.filter fun e => e.1 ≠ k) k = none := by
  induction m with
  | nil => rfl
  | cons e r ih =>
    by_cases h : e.1 = k <;> simp_all [List.filter, find]

theorem find_filter_other (m : List (Nat × α)) {k i : Nat} (h : i ≠ k) :
    find (m.filter fun e => e.1 ≠ k) i = find m i := by
  induction m with
  | nil => rfl
  | cons e r ih =>
    by_cases hk : e.1 = k
    · have : e.1 ≠ i := fun hi => h (hi.symm.trans hk)
      simp_all [List.filter, find]
    · simp_all [List.filter, find]

/-- Reading the key that was changed. -/
@[simp] theorem find_alter_same (m : List (Nat × α)) (k : Nat) (v : Option α) : find (alter m k v) k = v := by
  cases v with
  | none => exact find_filter_same m k
  | some x => exact find_setKey_same m k x

/-- Reading another key. -/
theorem find_alter_other (m : List (Nat × α)) {k i : Nat} (v : Option α) (h : i ≠ k) :
    find (alter m k v) i = find m i := by
  cases v with
  | none => exact find_filter_other m h
  | some x => exact find_setKey_other m x h

/-- Reading any key after a change. -/
theorem find_alter (m : List (Nat × α)) (k i : Nat) (v : Option α) :
    find (alter m k v) i = if i = k then v else find m i := by
  by_cases h : i = k
  · subst h; simp
  · simp [h, find_alter_other]

@[simp] theorem find_insert_same (m : List (Nat × α)) (k : Nat) (x : α) : find (insert m k x) k = some x :=
  find_alter_same m k _

theorem find_insert_other (m : List (Nat × α)) {k i : Nat} (x : α) (h : i ≠ k) : find (insert m k x) i = find m i :=
  find_alter_other m _ h

theorem find_insert (m : List (Nat × α)) (k i : Nat) (x : α) :
    find (insert m k x) i = if i = k then some x else find m i := find_alter m k i _

theorem find_remove (m : List (Nat × α)) (k i : Nat) : find (remove m k) i = if i = k then none else find m i :=
  find_alter m k i _

@[simp] theorem findD_insert_same (m : List (Nat × α)) (k : Nat) (x d : α) : findD (insert m k x) k d = x := by
  simp [findD]

theorem findD_insert_other (m : List (Nat × α)) {k i : Nat} (x d : α) (h : i ≠ k) :
    findD (insert m k x) i d = findD m i d := by simp [findD, find_insert_other, h]

/-- Reading a map with a default after a write. -/
theorem findD_put [DecidableEq α] (d : α) (m : List (Nat × α)) (k i : Nat) (x : α) :
    findD (put d m k x) i d = if i = k then x else findD m i d := by
  unfold findD put
  rw [find_alter]
  by_cases h : i = k
  · by_cases hx : x = d <;> simp [h, hx]
  · simp [h]

@[simp] theorem findD_put_same [DecidableEq α] (d : α) (m : List (Nat × α)) (k : Nat) (x : α) :
    findD (put d m k x) k d = x := by simp [findD_put]

theorem findD_put_other [DecidableEq α] (d : α) (m : List (Nat × α)) {k i : Nat} (x : α) (h : i ≠ k) :
    findD (put d m k x) i d = findD m i d := by simp [findD_put, h]

theorem find_adjust (m : List (Nat × α)) (k i : Nat) (f : α → α) :
    find (adjust m k f) i = if i = k then (find m k).map f else find m i := by
  unfold adjust
  split
  next x hx => by_cases h : i = k <;> simp [find_insert, h, hx]
  next hx => by_cases h : i = k <;> simp [h, hx]

@[simp] theorem setKey_setKey (m : List (Nat × α)) (k : Nat) (x y : α) : setKey (setKey m k x) k y = setKey m k y := by
  induction m with
  | nil => simp [setKey]
  | cons e r ih =>
    obtain ⟨j, w⟩ := e
    by_cases h : j = k
    · simp [setKey, h]
    · by_cases h' : k < j <;> simp [setKey, h, h', ih]

/-- The second of two writes of a key is the one that stays. -/
@[simp] theorem insert_insert (m : List (Nat × α)) (k : Nat) (x y : α) : insert (insert m k x) k y = insert m k y :=
  setKey_setKey m k x y

/-- Two changes of a key are one. -/
theorem adjust_adjust (m : List (Nat × α)) (k : Nat) (f g : α → α) :
    adjust (adjust m k f) k g = adjust m k fun x => g (f x) := by
  cases h : find m k with
  | none => simp [adjust, h]
  | some x => simp [adjust, h]

/-! ### The canonical form -/

/-- A key lies above every key of a list. -/
theorem rising_cons (k : Nat) (v : α) (m : List (Nat × α)) :
    rising ((k, v) :: m) = true ↔ (∀ e ∈ m, k < e.1) ∧ rising m = true := by
  induction m generalizing k v with
  | nil => simp [rising]
  | cons e r ih =>
    obtain ⟨j, w⟩ := e
    have := ih j w
    constructor
    · intro h
      simp only [rising, Bool.and_eq_true, decide_eq_true_eq] at h
      refine ⟨?_, h.2⟩
      intro e he
      rcases List.mem_cons.mp he with rfl | he
      · exact h.1
      · exact Nat.lt_trans h.1 ((this.mp h.2).1 e he)
    · intro h
      simp only [rising, Bool.and_eq_true, decide_eq_true_eq]
      exact ⟨h.1 (j, w) (List.mem_cons_self ..), h.2⟩

theorem mem_setKey (m : List (Nat × α)) (k : Nat) (x : α) (e : Nat × α) (h : e ∈ setKey m k x) : e = (k, x) ∨ e ∈ m := by
  induction m with
  | nil => simp_all [setKey]
  | cons f r ih =>
    obtain ⟨j, w⟩ := f
    by_cases hj : j = k
    · simp [setKey, hj] at h; rcases h with h | h
      · exact .inl h
      · exact .inr (List.mem_cons_of_mem _ h)
    · by_cases h' : k < j
      · simp [setKey, hj, h'] at h
        rcases h with h | h | h <;> simp_all
      · simp [setKey, hj, h'] at h
        rcases h with h | h
        · simp_all
        · rcases ih h with h | h <;> simp_all

theorem rising_setKey (m : List (Nat × α)) (k : Nat) (x : α) (h : rising m = true) : rising (setKey m k x) = true := by
  induction m with
  | nil => simp [setKey, rising]
  | cons e r ih =>
    obtain ⟨j, w⟩ := e
    have hr := (rising_cons j w r).mp h
    by_cases hj : j = k
    · subst hj; simp [setKey]; exact (rising_cons j x r).mpr hr
    · by_cases h' : k < j
      · simp only [setKey, hj, h', if_true, if_false]
        refine (rising_cons k x _).mpr ⟨?_, h⟩
        intro e he
        rcases List.mem_cons.mp he with rfl | he
        · exact h'
        · exact Nat.lt_trans h' (hr.1 e he)
      · simp only [setKey, hj, h', if_false]
        refine (rising_cons j w _).mpr ⟨?_, ih hr.2⟩
        intro e he
        rcases mem_setKey r k x e he with rfl | he
        · show j < k; omega
        · exact hr.1 e he

theorem rising_filter (m : List (Nat × α)) (p : Nat × α → Bool) (h : rising m = true) : rising (m.filter p) = true := by
  induction m with
  | nil => rfl
  | cons e r ih =>
    obtain ⟨j, w⟩ := e
    have hr := (rising_cons j w r).mp h
    by_cases hp : p (j, w) = true
    · rw [List.filter_cons_of_pos hp]
      exact (rising_cons j w _).mpr ⟨fun e he => hr.1 e (List.mem_filter.mp he).1, ih hr.2⟩
    · rw [List.filter_cons_of_neg hp]; exact ih hr.2

/-- A write keeps the canonical form. -/
theorem canonical_put [DecidableEq α] (d : α) (m : List (Nat × α)) (k : Nat) (x : α) (h : canonical d m = true) :
    canonical d (put d m k x) = true := by
  unfold canonical at h ⊢
  simp only [Bool.and_eq_true, List.all_eq_true, decide_eq_true_eq] at h ⊢
  unfold put alter
  by_cases hx : x = d
  · simp only [hx, if_true]
    exact ⟨rising_filter m _ h.1, fun e he => h.2 e (List.mem_filter.mp he).1⟩
  · simp only [hx, if_false]
    refine ⟨rising_setKey m k x h.1, fun e he => ?_⟩
    rcases mem_setKey m k x e he with rfl | he
    · exact hx
    · exact h.2 e he

/-- Leaving entries out keeps the canonical form. -/
theorem canonical_filter [DecidableEq α] (d : α) (m : List (Nat × α)) (p : Nat × α → Bool) (h : canonical d m = true) :
    canonical d (m.filter p) = true := by
  unfold canonical at h ⊢
  simp only [Bool.and_eq_true, List.all_eq_true] at h ⊢
  exact ⟨rising_filter m p h.1, fun e he => h.2 e (List.mem_filter.mp he).1⟩

end Sys2Proof.Machine
end

