-- ==== Sys2Proof/Laws/State.lean ====
section
/-! SUPPORT. What each update of the state leaves alone, field by field, each true by unfolding. -/

namespace Sys2Proof.Machine
open Sys2Proof

@[simp] theorem State.setCore_agenda (s : State) (c : Nat) (k : Core) : (s.setCore c k).agenda = s.agenda := rfl
@[simp] theorem State.setCore_who (s : State) (c : Nat) (k : Core) : (s.setCore c k).who = s.who := rfl
@[simp] theorem State.setCore_whoSlot (s : State) (c : Nat) (k : Core) : (s.setCore c k).whoSlot = s.whoSlot := rfl
@[simp] theorem State.setCore_phase (s : State) (c : Nat) (k : Core) : (s.setCore c k).phase = s.phase := rfl
@[simp] theorem State.setCore_turn (s : State) (c : Nat) (k : Core) : (s.setCore c k).turn = s.turn := rfl
@[simp] theorem State.setCore_tick (s : State) (c : Nat) (k : Core) : (s.setCore c k).tick = s.tick := rfl
@[simp] theorem State.setCore_born (s : State) (c : Nat) (k : Core) : (s.setCore c k).born = s.born := rfl
@[simp] theorem State.setCore_seq (s : State) (c : Nat) (k : Core) : (s.setCore c k).seq = s.seq := rfl
@[simp] theorem State.setCore_intervals (s : State) (c : Nat) (k : Core) : (s.setCore c k).intervals = s.intervals := rfl
@[simp] theorem State.setCore_clusters (s : State) (c : Nat) (k : Core) : (s.setCore c k).clusters = s.clusters := rfl
@[simp] theorem State.setCore_nextCluster (s : State) (c : Nat) (k : Core) : (s.setCore c k).nextCluster = s.nextCluster := rfl
@[simp] theorem State.setCore_l2tlb (s : State) (c : Nat) (k : Core) : (s.setCore c k).l2tlb = s.l2tlb := rfl
@[simp] theorem State.setCore_l2 (s : State) (c : Nat) (k : Core) : (s.setCore c k).l2 = s.l2 := rfl
@[simp] theorem State.setCore_mem (s : State) (c : Nat) (k : Core) : (s.setCore c k).mem = s.mem := rfl
@[simp] theorem State.setCore_poison (s : State) (c : Nat) (k : Core) : (s.setCore c k).poison = s.poison := rfl
@[simp] theorem State.setCore_memKey (s : State) (c : Nat) (k : Core) : (s.setCore c k).memKey = s.memKey := rfl
@[simp] theorem State.setCore_seals (s : State) (c : Nat) (k : Core) : (s.setCore c k).seals = s.seals := rfl
@[simp] theorem State.setCore_partitions (s : State) (c : Nat) (k : Core) : (s.setCore c k).partitions = s.partitions := rfl
@[simp] theorem State.setCore_launches (s : State) (c : Nat) (k : Core) : (s.setCore c k).launches = s.launches := rfl
@[simp] theorem State.setCore_nextLaunch (s : State) (c : Nat) (k : Core) : (s.setCore c k).nextLaunch = s.nextLaunch := rfl
@[simp] theorem State.setCore_served (s : State) (c : Nat) (k : Core) : (s.setCore c k).served = s.served := rfl
@[simp] theorem State.setCore_nextKey (s : State) (c : Nat) (k : Core) : (s.setCore c k).nextKey = s.nextKey := rfl
@[simp] theorem State.setCore_host (s : State) (c : Nat) (k : Core) : (s.setCore c k).host = s.host := rfl
@[simp] theorem State.setCore_fabric (s : State) (c : Nat) (k : Core) : (s.setCore c k).fabric = s.fabric := rfl
@[simp] theorem State.setCore_rack (s : State) (c : Nat) (k : Core) : (s.setCore c k).rack = s.rack := rfl
@[simp] theorem State.setCore_boot (s : State) (c : Nat) (k : Core) : (s.setCore c k).boot = s.boot := rfl
@[simp] theorem State.setCore_management (s : State) (c : Nat) (k : Core) : (s.setCore c k).management = s.management := rfl

@[simp] theorem State.modCore_agenda (s : State) (c : Nat) (f : Core → Core) : (s.modCore c f).agenda = s.agenda := rfl
@[simp] theorem State.modCore_who (s : State) (c : Nat) (f : Core → Core) : (s.modCore c f).who = s.who := rfl
@[simp] theorem State.modCore_whoSlot (s : State) (c : Nat) (f : Core → Core) : (s.modCore c f).whoSlot = s.whoSlot := rfl
@[simp] theorem State.modCore_phase (s : State) (c : Nat) (f : Core → Core) : (s.modCore c f).phase = s.phase := rfl
@[simp] theorem State.modCore_turn (s : State) (c : Nat) (f : Core → Core) : (s.modCore c f).turn = s.turn := rfl
@[simp] theorem State.modCore_tick (s : State) (c : Nat) (f : Core → Core) : (s.modCore c f).tick = s.tick := rfl
@[simp] theorem State.modCore_born (s : State) (c : Nat) (f : Core → Core) : (s.modCore c f).born = s.born := rfl
@[simp] theorem State.modCore_seq (s : State) (c : Nat) (f : Core → Core) : (s.modCore c f).seq = s.seq := rfl
@[simp] theorem State.modCore_intervals (s : State) (c : Nat) (f : Core → Core) : (s.modCore c f).intervals = s.intervals := rfl
@[simp] theorem State.modCore_clusters (s : State) (c : Nat) (f : Core → Core) : (s.modCore c f).clusters = s.clusters := rfl
@[simp] theorem State.modCore_nextCluster (s : State) (c : Nat) (f : Core → Core) : (s.modCore c f).nextCluster = s.nextCluster := rfl
@[simp] theorem State.modCore_l2tlb (s : State) (c : Nat) (f : Core → Core) : (s.modCore c f).l2tlb = s.l2tlb := rfl
@[simp] theorem State.modCore_l2 (s : State) (c : Nat) (f : Core → Core) : (s.modCore c f).l2 = s.l2 := rfl
@[simp] theorem State.modCore_mem (s : State) (c : Nat) (f : Core → Core) : (s.modCore c f).mem = s.mem := rfl
@[simp] theorem State.modCore_poison (s : State) (c : Nat) (f : Core → Core) : (s.modCore c f).poison = s.poison := rfl
@[simp] theorem State.modCore_memKey (s : State) (c : Nat) (f : Core → Core) : (s.modCore c f).memKey = s.memKey := rfl
@[simp] theorem State.modCore_seals (s : State) (c : Nat) (f : Core → Core) : (s.modCore c f).seals = s.seals := rfl
@[simp] theorem State.modCore_partitions (s : State) (c : Nat) (f : Core → Core) : (s.modCore c f).partitions = s.partitions := rfl
@[simp] theorem State.modCore_launches (s : State) (c : Nat) (f : Core → Core) : (s.modCore c f).launches = s.launches := rfl
@[simp] theorem State.modCore_nextLaunch (s : State) (c : Nat) (f : Core → Core) : (s.modCore c f).nextLaunch = s.nextLaunch := rfl
@[simp] theorem State.modCore_served (s : State) (c : Nat) (f : Core → Core) : (s.modCore c f).served = s.served := rfl
@[simp] theorem State.modCore_nextKey (s : State) (c : Nat) (f : Core → Core) : (s.modCore c f).nextKey = s.nextKey := rfl
@[simp] theorem State.modCore_host (s : State) (c : Nat) (f : Core → Core) : (s.modCore c f).host = s.host := rfl
@[simp] theorem State.modCore_fabric (s : State) (c : Nat) (f : Core → Core) : (s.modCore c f).fabric = s.fabric := rfl
@[simp] theorem State.modCore_rack (s : State) (c : Nat) (f : Core → Core) : (s.modCore c f).rack = s.rack := rfl
@[simp] theorem State.modCore_boot (s : State) (c : Nat) (f : Core → Core) : (s.modCore c f).boot = s.boot := rfl
@[simp] theorem State.modCore_management (s : State) (c : Nat) (f : Core → Core) : (s.modCore c f).management = s.management := rfl

@[simp] theorem State.modBlock_agenda (s : State) (c b : Nat) (f : Block → Block) : (s.modBlock c b f).agenda = s.agenda := rfl
@[simp] theorem State.modBlock_who (s : State) (c b : Nat) (f : Block → Block) : (s.modBlock c b f).who = s.who := rfl
@[simp] theorem State.modBlock_whoSlot (s : State) (c b : Nat) (f : Block → Block) : (s.modBlock c b f).whoSlot = s.whoSlot := rfl
@[simp] theorem State.modBlock_phase (s : State) (c b : Nat) (f : Block → Block) : (s.modBlock c b f).phase = s.phase := rfl
@[simp] theorem State.modBlock_turn (s : State) (c b : Nat) (f : Block → Block) : (s.modBlock c b f).turn = s.turn := rfl
@[simp] theorem State.modBlock_tick (s : State) (c b : Nat) (f : Block → Block) : (s.modBlock c b f).tick = s.tick := rfl
@[simp] theorem State.modBlock_born (s : State) (c b : Nat) (f : Block → Block) : (s.modBlock c b f).born = s.born := rfl
@[simp] theorem State.modBlock_seq (s : State) (c b : Nat) (f : Block → Block) : (s.modBlock c b f).seq = s.seq := rfl
@[simp] theorem State.modBlock_intervals (s : State) (c b : Nat) (f : Block → Block) : (s.modBlock c b f).intervals = s.intervals := rfl
@[simp] theorem State.modBlock_clusters (s : State) (c b : Nat) (f : Block → Block) : (s.modBlock c b f).clusters = s.clusters := rfl
@[simp] theorem State.modBlock_nextCluster (s : State) (c b : Nat) (f : Block → Block) : (s.modBlock c b f).nextCluster = s.nextCluster := rfl
@[simp] theorem State.modBlock_l2tlb (s : State) (c b : Nat) (f : Block → Block) : (s.modBlock c b f).l2tlb = s.l2tlb := rfl
@[simp] theorem State.modBlock_l2 (s : State) (c b : Nat) (f : Block → Block) : (s.modBlock c b f).l2 = s.l2 := rfl
@[simp] theorem State.modBlock_mem (s : State) (c b : Nat) (f : Block → Block) : (s.modBlock c b f).mem = s.mem := rfl
@[simp] theorem State.modBlock_poison (s : State) (c b : Nat) (f : Block → Block) : (s.modBlock c b f).poison = s.poison := rfl
@[simp] theorem State.modBlock_memKey (s : State) (c b : Nat) (f : Block → Block) : (s.modBlock c b f).memKey = s.memKey := rfl
@[simp] theorem State.modBlock_seals (s : State) (c b : Nat) (f : Block → Block) : (s.modBlock c b f).seals = s.seals := rfl
@[simp] theorem State.modBlock_partitions (s : State) (c b : Nat) (f : Block → Block) : (s.modBlock c b f).partitions = s.partitions := rfl
@[simp] theorem State.modBlock_launches (s : State) (c b : Nat) (f : Block → Block) : (s.modBlock c b f).launches = s.launches := rfl
@[simp] theorem State.modBlock_nextLaunch (s : State) (c b : Nat) (f : Block → Block) : (s.modBlock c b f).nextLaunch = s.nextLaunch := rfl
@[simp] theorem State.modBlock_served (s : State) (c b : Nat) (f : Block → Block) : (s.modBlock c b f).served = s.served := rfl
@[simp] theorem State.modBlock_nextKey (s : State) (c b : Nat) (f : Block → Block) : (s.modBlock c b f).nextKey = s.nextKey := rfl
@[simp] theorem State.modBlock_host (s : State) (c b : Nat) (f : Block → Block) : (s.modBlock c b f).host = s.host := rfl
@[simp] theorem State.modBlock_fabric (s : State) (c b : Nat) (f : Block → Block) : (s.modBlock c b f).fabric = s.fabric := rfl
@[simp] theorem State.modBlock_rack (s : State) (c b : Nat) (f : Block → Block) : (s.modBlock c b f).rack = s.rack := rfl
@[simp] theorem State.modBlock_boot (s : State) (c b : Nat) (f : Block → Block) : (s.modBlock c b f).boot = s.boot := rfl
@[simp] theorem State.modBlock_management (s : State) (c b : Nat) (f : Block → Block) : (s.modBlock c b f).management = s.management := rfl

@[simp] theorem State.modThread_agenda (s : State) (t : ThreadRef) (f : Thread → Thread) : (s.modThread t f).agenda = s.agenda := rfl
@[simp] theorem State.modThread_who (s : State) (t : ThreadRef) (f : Thread → Thread) : (s.modThread t f).who = s.who := rfl
@[simp] theorem State.modThread_whoSlot (s : State) (t : ThreadRef) (f : Thread → Thread) : (s.modThread t f).whoSlot = s.whoSlot := rfl
@[simp] theorem State.modThread_phase (s : State) (t : ThreadRef) (f : Thread → Thread) : (s.modThread t f).phase = s.phase := rfl
@[simp] theorem State.modThread_turn (s : State) (t : ThreadRef) (f : Thread → Thread) : (s.modThread t f).turn = s.turn := rfl
@[simp] theorem State.modThread_tick (s : State) (t : ThreadRef) (f : Thread → Thread) : (s.modThread t f).tick = s.tick := rfl
@[simp] theorem State.modThread_born (s : State) (t : ThreadRef) (f : Thread → Thread) : (s.modThread t f).born = s.born := rfl
@[simp] theorem State.modThread_seq (s : State) (t : ThreadRef) (f : Thread → Thread) : (s.modThread t f).seq = s.seq := rfl
@[simp] theorem State.modThread_intervals (s : State) (t : ThreadRef) (f : Thread → Thread) : (s.modThread t f).intervals = s.intervals := rfl
@[simp] theorem State.modThread_clusters (s : State) (t : ThreadRef) (f : Thread → Thread) : (s.modThread t f).clusters = s.clusters := rfl
@[simp] theorem State.modThread_nextCluster (s : State) (t : ThreadRef) (f : Thread → Thread) : (s.modThread t f).nextCluster = s.nextCluster := rfl
@[simp] theorem State.modThread_l2tlb (s : State) (t : ThreadRef) (f : Thread → Thread) : (s.modThread t f).l2tlb = s.l2tlb := rfl
@[simp] theorem State.modThread_l2 (s : State) (t : ThreadRef) (f : Thread → Thread) : (s.modThread t f).l2 = s.l2 := rfl
@[simp] theorem State.modThread_mem (s : State) (t : ThreadRef) (f : Thread → Thread) : (s.modThread t f).mem = s.mem := rfl
@[simp] theorem State.modThread_poison (s : State) (t : ThreadRef) (f : Thread → Thread) : (s.modThread t f).poison = s.poison := rfl
@[simp] theorem State.modThread_memKey (s : State) (t : ThreadRef) (f : Thread → Thread) : (s.modThread t f).memKey = s.memKey := rfl
@[simp] theorem State.modThread_seals (s : State) (t : ThreadRef) (f : Thread → Thread) : (s.modThread t f).seals = s.seals := rfl
@[simp] theorem State.modThread_partitions (s : State) (t : ThreadRef) (f : Thread → Thread) : (s.modThread t f).partitions = s.partitions := rfl
@[simp] theorem State.modThread_launches (s : State) (t : ThreadRef) (f : Thread → Thread) : (s.modThread t f).launches = s.launches := rfl
@[simp] theorem State.modThread_nextLaunch (s : State) (t : ThreadRef) (f : Thread → Thread) : (s.modThread t f).nextLaunch = s.nextLaunch := rfl
@[simp] theorem State.modThread_served (s : State) (t : ThreadRef) (f : Thread → Thread) : (s.modThread t f).served = s.served := rfl
@[simp] theorem State.modThread_nextKey (s : State) (t : ThreadRef) (f : Thread → Thread) : (s.modThread t f).nextKey = s.nextKey := rfl
@[simp] theorem State.modThread_host (s : State) (t : ThreadRef) (f : Thread → Thread) : (s.modThread t f).host = s.host := rfl
@[simp] theorem State.modThread_fabric (s : State) (t : ThreadRef) (f : Thread → Thread) : (s.modThread t f).fabric = s.fabric := rfl
@[simp] theorem State.modThread_rack (s : State) (t : ThreadRef) (f : Thread → Thread) : (s.modThread t f).rack = s.rack := rfl
@[simp] theorem State.modThread_boot (s : State) (t : ThreadRef) (f : Thread → Thread) : (s.modThread t f).boot = s.boot := rfl
@[simp] theorem State.modThread_management (s : State) (t : ThreadRef) (f : Thread → Thread) : (s.modThread t f).management = s.management := rfl

@[simp] theorem State.modSlot_agenda (s : State) (t : ThreadRef) (n : Bool) (f : Slot → Slot) : (s.modSlot t n f).agenda = s.agenda := rfl
@[simp] theorem State.modSlot_who (s : State) (t : ThreadRef) (n : Bool) (f : Slot → Slot) : (s.modSlot t n f).who = s.who := rfl
@[simp] theorem State.modSlot_whoSlot (s : State) (t : ThreadRef) (n : Bool) (f : Slot → Slot) : (s.modSlot t n f).whoSlot = s.whoSlot := rfl
@[simp] theorem State.modSlot_phase (s : State) (t : ThreadRef) (n : Bool) (f : Slot → Slot) : (s.modSlot t n f).phase = s.phase := rfl
@[simp] theorem State.modSlot_turn (s : State) (t : ThreadRef) (n : Bool) (f : Slot → Slot) : (s.modSlot t n f).turn = s.turn := rfl
@[simp] theorem State.modSlot_tick (s : State) (t : ThreadRef) (n : Bool) (f : Slot → Slot) : (s.modSlot t n f).tick = s.tick := rfl
@[simp] theorem State.modSlot_born (s : State) (t : ThreadRef) (n : Bool) (f : Slot → Slot) : (s.modSlot t n f).born = s.born := rfl
@[simp] theorem State.modSlot_seq (s : State) (t : ThreadRef) (n : Bool) (f : Slot → Slot) : (s.modSlot t n f).seq = s.seq := rfl
@[simp] theorem State.modSlot_intervals (s : State) (t : ThreadRef) (n : Bool) (f : Slot → Slot) : (s.modSlot t n f).intervals = s.intervals := rfl
@[simp] theorem State.modSlot_clusters (s : State) (t : ThreadRef) (n : Bool) (f : Slot → Slot) : (s.modSlot t n f).clusters = s.clusters := rfl
@[simp] theorem State.modSlot_nextCluster (s : State) (t : ThreadRef) (n : Bool) (f : Slot → Slot) : (s.modSlot t n f).nextCluster = s.nextCluster := rfl
@[simp] theorem State.modSlot_l2tlb (s : State) (t : ThreadRef) (n : Bool) (f : Slot → Slot) : (s.modSlot t n f).l2tlb = s.l2tlb := rfl
@[simp] theorem State.modSlot_l2 (s : State) (t : ThreadRef) (n : Bool) (f : Slot → Slot) : (s.modSlot t n f).l2 = s.l2 := rfl
@[simp] theorem State.modSlot_mem (s : State) (t : ThreadRef) (n : Bool) (f : Slot → Slot) : (s.modSlot t n f).mem = s.mem := rfl
@[simp] theorem State.modSlot_poison (s : State) (t : ThreadRef) (n : Bool) (f : Slot → Slot) : (s.modSlot t n f).poison = s.poison := rfl
@[simp] theorem State.modSlot_memKey (s : State) (t : ThreadRef) (n : Bool) (f : Slot → Slot) : (s.modSlot t n f).memKey = s.memKey := rfl
@[simp] theorem State.modSlot_seals (s : State) (t : ThreadRef) (n : Bool) (f : Slot → Slot) : (s.modSlot t n f).seals = s.seals := rfl
@[simp] theorem State.modSlot_partitions (s : State) (t : ThreadRef) (n : Bool) (f : Slot → Slot) : (s.modSlot t n f).partitions = s.partitions := rfl
@[simp] theorem State.modSlot_launches (s : State) (t : ThreadRef) (n : Bool) (f : Slot → Slot) : (s.modSlot t n f).launches = s.launches := rfl
@[simp] theorem State.modSlot_nextLaunch (s : State) (t : ThreadRef) (n : Bool) (f : Slot → Slot) : (s.modSlot t n f).nextLaunch = s.nextLaunch := rfl
@[simp] theorem State.modSlot_served (s : State) (t : ThreadRef) (n : Bool) (f : Slot → Slot) : (s.modSlot t n f).served = s.served := rfl
@[simp] theorem State.modSlot_nextKey (s : State) (t : ThreadRef) (n : Bool) (f : Slot → Slot) : (s.modSlot t n f).nextKey = s.nextKey := rfl
@[simp] theorem State.modSlot_host (s : State) (t : ThreadRef) (n : Bool) (f : Slot → Slot) : (s.modSlot t n f).host = s.host := rfl
@[simp] theorem State.modSlot_fabric (s : State) (t : ThreadRef) (n : Bool) (f : Slot → Slot) : (s.modSlot t n f).fabric = s.fabric := rfl
@[simp] theorem State.modSlot_rack (s : State) (t : ThreadRef) (n : Bool) (f : Slot → Slot) : (s.modSlot t n f).rack = s.rack := rfl
@[simp] theorem State.modSlot_boot (s : State) (t : ThreadRef) (n : Bool) (f : Slot → Slot) : (s.modSlot t n f).boot = s.boot := rfl
@[simp] theorem State.modSlot_management (s : State) (t : ThreadRef) (n : Bool) (f : Slot → Slot) : (s.modSlot t n f).management = s.management := rfl

@[simp] theorem State.modPart_agenda (s : State) (p : Nat) (f : Partition → Partition) : (s.modPart p f).agenda = s.agenda := rfl
@[simp] theorem State.modPart_who (s : State) (p : Nat) (f : Partition → Partition) : (s.modPart p f).who = s.who := rfl
@[simp] theorem State.modPart_whoSlot (s : State) (p : Nat) (f : Partition → Partition) : (s.modPart p f).whoSlot = s.whoSlot := rfl
@[simp] theorem State.modPart_phase (s : State) (p : Nat) (f : Partition → Partition) : (s.modPart p f).phase = s.phase := rfl
@[simp] theorem State.modPart_turn (s : State) (p : Nat) (f : Partition → Partition) : (s.modPart p f).turn = s.turn := rfl
@[simp] theorem State.modPart_tick (s : State) (p : Nat) (f : Partition → Partition) : (s.modPart p f).tick = s.tick := rfl
@[simp] theorem State.modPart_born (s : State) (p : Nat) (f : Partition → Partition) : (s.modPart p f).born = s.born := rfl
@[simp] theorem State.modPart_seq (s : State) (p : Nat) (f : Partition → Partition) : (s.modPart p f).seq = s.seq := rfl
@[simp] theorem State.modPart_cores (s : State) (p : Nat) (f : Partition → Partition) : (s.modPart p f).cores = s.cores := rfl
@[simp] theorem State.modPart_intervals (s : State) (p : Nat) (f : Partition → Partition) : (s.modPart p f).intervals = s.intervals := rfl
@[simp] theorem State.modPart_clusters (s : State) (p : Nat) (f : Partition → Partition) : (s.modPart p f).clusters = s.clusters := rfl
@[simp] theorem State.modPart_nextCluster (s : State) (p : Nat) (f : Partition → Partition) : (s.modPart p f).nextCluster = s.nextCluster := rfl
@[simp] theorem State.modPart_l2tlb (s : State) (p : Nat) (f : Partition → Partition) : (s.modPart p f).l2tlb = s.l2tlb := rfl
@[simp] theorem State.modPart_l2 (s : State) (p : Nat) (f : Partition → Partition) : (s.modPart p f).l2 = s.l2 := rfl
@[simp] theorem State.modPart_mem (s : State) (p : Nat) (f : Partition → Partition) : (s.modPart p f).mem = s.mem := rfl
@[simp] theorem State.modPart_poison (s : State) (p : Nat) (f : Partition → Partition) : (s.modPart p f).poison = s.poison := rfl
@[simp] theorem State.modPart_memKey (s : State) (p : Nat) (f : Partition → Partition) : (s.modPart p f).memKey = s.memKey := rfl
@[simp] theorem State.modPart_seals (s : State) (p : Nat) (f : Partition → Partition) : (s.modPart p f).seals = s.seals := rfl
@[simp] theorem State.modPart_launches (s : State) (p : Nat) (f : Partition → Partition) : (s.modPart p f).launches = s.launches := rfl
@[simp] theorem State.modPart_nextLaunch (s : State) (p : Nat) (f : Partition → Partition) : (s.modPart p f).nextLaunch = s.nextLaunch := rfl
@[simp] theorem State.modPart_served (s : State) (p : Nat) (f : Partition → Partition) : (s.modPart p f).served = s.served := rfl
@[simp] theorem State.modPart_nextKey (s : State) (p : Nat) (f : Partition → Partition) : (s.modPart p f).nextKey = s.nextKey := rfl
@[simp] theorem State.modPart_host (s : State) (p : Nat) (f : Partition → Partition) : (s.modPart p f).host = s.host := rfl
@[simp] theorem State.modPart_fabric (s : State) (p : Nat) (f : Partition → Partition) : (s.modPart p f).fabric = s.fabric := rfl
@[simp] theorem State.modPart_rack (s : State) (p : Nat) (f : Partition → Partition) : (s.modPart p f).rack = s.rack := rfl
@[simp] theorem State.modPart_boot (s : State) (p : Nat) (f : Partition → Partition) : (s.modPart p f).boot = s.boot := rfl
@[simp] theorem State.modPart_management (s : State) (p : Nat) (f : Partition → Partition) : (s.modPart p f).management = s.management := rfl

@[simp] theorem State.modLaunch_agenda (s : State) (l : Nat) (f : Launch → Launch) : (s.modLaunch l f).agenda = s.agenda := rfl
@[simp] theorem State.modLaunch_who (s : State) (l : Nat) (f : Launch → Launch) : (s.modLaunch l f).who = s.who := rfl
@[simp] theorem State.modLaunch_whoSlot (s : State) (l : Nat) (f : Launch → Launch) : (s.modLaunch l f).whoSlot = s.whoSlot := rfl
@[simp] theorem State.modLaunch_phase (s : State) (l : Nat) (f : Launch → Launch) : (s.modLaunch l f).phase = s.phase := rfl
@[simp] theorem State.modLaunch_turn (s : State) (l : Nat) (f : Launch → Launch) : (s.modLaunch l f).turn = s.turn := rfl
@[simp] theorem State.modLaunch_tick (s : State) (l : Nat) (f : Launch → Launch) : (s.modLaunch l f).tick = s.tick := rfl
@[simp] theorem State.modLaunch_born (s : State) (l : Nat) (f : Launch → Launch) : (s.modLaunch l f).born = s.born := rfl
@[simp] theorem State.modLaunch_seq (s : State) (l : Nat) (f : Launch → Launch) : (s.modLaunch l f).seq = s.seq := rfl
@[simp] theorem State.modLaunch_cores (s : State) (l : Nat) (f : Launch → Launch) : (s.modLaunch l f).cores = s.cores := rfl
@[simp] theorem State.modLaunch_intervals (s : State) (l : Nat) (f : Launch → Launch) : (s.modLaunch l f).intervals = s.intervals := rfl
@[simp] theorem State.modLaunch_clusters (s : State) (l : Nat) (f : Launch → Launch) : (s.modLaunch l f).clusters = s.clusters := rfl
@[simp] theorem State.modLaunch_nextCluster (s : State) (l : Nat) (f : Launch → Launch) : (s.modLaunch l f).nextCluster = s.nextCluster := rfl
@[simp] theorem State.modLaunch_l2tlb (s : State) (l : Nat) (f : Launch → Launch) : (s.modLaunch l f).l2tlb = s.l2tlb := rfl
@[simp] theorem State.modLaunch_l2 (s : State) (l : Nat) (f : Launch → Launch) : (s.modLaunch l f).l2 = s.l2 := rfl
@[simp] theorem State.modLaunch_mem (s : State) (l : Nat) (f : Launch → Launch) : (s.modLaunch l f).mem = s.mem := rfl
@[simp] theorem State.modLaunch_poison (s : State) (l : Nat) (f : Launch → Launch) : (s.modLaunch l f).poison = s.poison := rfl
@[simp] theorem State.modLaunch_memKey (s : State) (l : Nat) (f : Launch → Launch) : (s.modLaunch l f).memKey = s.memKey := rfl
@[simp] theorem State.modLaunch_seals (s : State) (l : Nat) (f : Launch → Launch) : (s.modLaunch l f).seals = s.seals := rfl
@[simp] theorem State.modLaunch_partitions (s : State) (l : Nat) (f : Launch → Launch) : (s.modLaunch l f).partitions = s.partitions := rfl
@[simp] theorem State.modLaunch_nextLaunch (s : State) (l : Nat) (f : Launch → Launch) : (s.modLaunch l f).nextLaunch = s.nextLaunch := rfl
@[simp] theorem State.modLaunch_served (s : State) (l : Nat) (f : Launch → Launch) : (s.modLaunch l f).served = s.served := rfl
@[simp] theorem State.modLaunch_nextKey (s : State) (l : Nat) (f : Launch → Launch) : (s.modLaunch l f).nextKey = s.nextKey := rfl
@[simp] theorem State.modLaunch_host (s : State) (l : Nat) (f : Launch → Launch) : (s.modLaunch l f).host = s.host := rfl
@[simp] theorem State.modLaunch_fabric (s : State) (l : Nat) (f : Launch → Launch) : (s.modLaunch l f).fabric = s.fabric := rfl
@[simp] theorem State.modLaunch_rack (s : State) (l : Nat) (f : Launch → Launch) : (s.modLaunch l f).rack = s.rack := rfl
@[simp] theorem State.modLaunch_boot (s : State) (l : Nat) (f : Launch → Launch) : (s.modLaunch l f).boot = s.boot := rfl
@[simp] theorem State.modLaunch_management (s : State) (l : Nat) (f : Launch → Launch) : (s.modLaunch l f).management = s.management := rfl

@[simp] theorem State.modQueue_agenda (s : State) (q : Nat) (f : HostQueue → HostQueue) : (s.modQueue q f).agenda = s.agenda := rfl
@[simp] theorem State.modQueue_who (s : State) (q : Nat) (f : HostQueue → HostQueue) : (s.modQueue q f).who = s.who := rfl
@[simp] theorem State.modQueue_whoSlot (s : State) (q : Nat) (f : HostQueue → HostQueue) : (s.modQueue q f).whoSlot = s.whoSlot := rfl
@[simp] theorem State.modQueue_phase (s : State) (q : Nat) (f : HostQueue → HostQueue) : (s.modQueue q f).phase = s.phase := rfl
@[simp] theorem State.modQueue_turn (s : State) (q : Nat) (f : HostQueue → HostQueue) : (s.modQueue q f).turn = s.turn := rfl
@[simp] theorem State.modQueue_tick (s : State) (q : Nat) (f : HostQueue → HostQueue) : (s.modQueue q f).tick = s.tick := rfl
@[simp] theorem State.modQueue_born (s : State) (q : Nat) (f : HostQueue → HostQueue) : (s.modQueue q f).born = s.born := rfl
@[simp] theorem State.modQueue_seq (s : State) (q : Nat) (f : HostQueue → HostQueue) : (s.modQueue q f).seq = s.seq := rfl
@[simp] theorem State.modQueue_cores (s : State) (q : Nat) (f : HostQueue → HostQueue) : (s.modQueue q f).cores = s.cores := rfl
@[simp] theorem State.modQueue_intervals (s : State) (q : Nat) (f : HostQueue → HostQueue) : (s.modQueue q f).intervals = s.intervals := rfl
@[simp] theorem State.modQueue_clusters (s : State) (q : Nat) (f : HostQueue → HostQueue) : (s.modQueue q f).clusters = s.clusters := rfl
@[simp] theorem State.modQueue_nextCluster (s : State) (q : Nat) (f : HostQueue → HostQueue) : (s.modQueue q f).nextCluster = s.nextCluster := rfl
@[simp] theorem State.modQueue_l2tlb (s : State) (q : Nat) (f : HostQueue → HostQueue) : (s.modQueue q f).l2tlb = s.l2tlb := rfl
@[simp] theorem State.modQueue_l2 (s : State) (q : Nat) (f : HostQueue → HostQueue) : (s.modQueue q f).l2 = s.l2 := rfl
@[simp] theorem State.modQueue_mem (s : State) (q : Nat) (f : HostQueue → HostQueue) : (s.modQueue q f).mem = s.mem := rfl
@[simp] theorem State.modQueue_poison (s : State) (q : Nat) (f : HostQueue → HostQueue) : (s.modQueue q f).poison = s.poison := rfl
@[simp] theorem State.modQueue_memKey (s : State) (q : Nat) (f : HostQueue → HostQueue) : (s.modQueue q f).memKey = s.memKey := rfl
@[simp] theorem State.modQueue_seals (s : State) (q : Nat) (f : HostQueue → HostQueue) : (s.modQueue q f).seals = s.seals := rfl
@[simp] theorem State.modQueue_partitions (s : State) (q : Nat) (f : HostQueue → HostQueue) : (s.modQueue q f).partitions = s.partitions := rfl
@[simp] theorem State.modQueue_launches (s : State) (q : Nat) (f : HostQueue → HostQueue) : (s.modQueue q f).launches = s.launches := rfl
@[simp] theorem State.modQueue_nextLaunch (s : State) (q : Nat) (f : HostQueue → HostQueue) : (s.modQueue q f).nextLaunch = s.nextLaunch := rfl
@[simp] theorem State.modQueue_served (s : State) (q : Nat) (f : HostQueue → HostQueue) : (s.modQueue q f).served = s.served := rfl
@[simp] theorem State.modQueue_nextKey (s : State) (q : Nat) (f : HostQueue → HostQueue) : (s.modQueue q f).nextKey = s.nextKey := rfl
@[simp] theorem State.modQueue_fabric (s : State) (q : Nat) (f : HostQueue → HostQueue) : (s.modQueue q f).fabric = s.fabric := rfl
@[simp] theorem State.modQueue_rack (s : State) (q : Nat) (f : HostQueue → HostQueue) : (s.modQueue q f).rack = s.rack := rfl
@[simp] theorem State.modQueue_boot (s : State) (q : Nat) (f : HostQueue → HostQueue) : (s.modQueue q f).boot = s.boot := rfl
@[simp] theorem State.modQueue_management (s : State) (q : Nat) (f : HostQueue → HostQueue) : (s.modQueue q f).management = s.management := rfl

@[simp] theorem State.modToward_agenda (s : State) (m : Nat) (f : Toward → Toward) : (s.modToward m f).agenda = s.agenda := rfl
@[simp] theorem State.modToward_who (s : State) (m : Nat) (f : Toward → Toward) : (s.modToward m f).who = s.who := rfl
@[simp] theorem State.modToward_whoSlot (s : State) (m : Nat) (f : Toward → Toward) : (s.modToward m f).whoSlot = s.whoSlot := rfl
@[simp] theorem State.modToward_phase (s : State) (m : Nat) (f : Toward → Toward) : (s.modToward m f).phase = s.phase := rfl
@[simp] theorem State.modToward_turn (s : State) (m : Nat) (f : Toward → Toward) : (s.modToward m f).turn = s.turn := rfl
@[simp] theorem State.modToward_tick (s : State) (m : Nat) (f : Toward → Toward) : (s.modToward m f).tick = s.tick := rfl
@[simp] theorem State.modToward_born (s : State) (m : Nat) (f : Toward → Toward) : (s.modToward m f).born = s.born := rfl
@[simp] theorem State.modToward_seq (s : State) (m : Nat) (f : Toward → Toward) : (s.modToward m f).seq = s.seq := rfl
@[simp] theorem State.modToward_cores (s : State) (m : Nat) (f : Toward → Toward) : (s.modToward m f).cores = s.cores := rfl
@[simp] theorem State.modToward_intervals (s : State) (m : Nat) (f : Toward → Toward) : (s.modToward m f).intervals = s.intervals := rfl
@[simp] theorem State.modToward_clusters (s : State) (m : Nat) (f : Toward → Toward) : (s.modToward m f).clusters = s.clusters := rfl
@[simp] theorem State.modToward_nextCluster (s : State) (m : Nat) (f : Toward → Toward) : (s.modToward m f).nextCluster = s.nextCluster := rfl
@[simp] theorem State.modToward_l2tlb (s : State) (m : Nat) (f : Toward → Toward) : (s.modToward m f).l2tlb = s.l2tlb := rfl
@[simp] theorem State.modToward_l2 (s : State) (m : Nat) (f : Toward → Toward) : (s.modToward m f).l2 = s.l2 := rfl
@[simp] theorem State.modToward_mem (s : State) (m : Nat) (f : Toward → Toward) : (s.modToward m f).mem = s.mem := rfl
@[simp] theorem State.modToward_poison (s : State) (m : Nat) (f : Toward → Toward) : (s.modToward m f).poison = s.poison := rfl
@[simp] theorem State.modToward_memKey (s : State) (m : Nat) (f : Toward → Toward) : (s.modToward m f).memKey = s.memKey := rfl
@[simp] theorem State.modToward_seals (s : State) (m : Nat) (f : Toward → Toward) : (s.modToward m f).seals = s.seals := rfl
@[simp] theorem State.modToward_partitions (s : State) (m : Nat) (f : Toward → Toward) : (s.modToward m f).partitions = s.partitions := rfl
@[simp] theorem State.modToward_launches (s : State) (m : Nat) (f : Toward → Toward) : (s.modToward m f).launches = s.launches := rfl
@[simp] theorem State.modToward_nextLaunch (s : State) (m : Nat) (f : Toward → Toward) : (s.modToward m f).nextLaunch = s.nextLaunch := rfl
@[simp] theorem State.modToward_served (s : State) (m : Nat) (f : Toward → Toward) : (s.modToward m f).served = s.served := rfl
@[simp] theorem State.modToward_nextKey (s : State) (m : Nat) (f : Toward → Toward) : (s.modToward m f).nextKey = s.nextKey := rfl
@[simp] theorem State.modToward_host (s : State) (m : Nat) (f : Toward → Toward) : (s.modToward m f).host = s.host := rfl
@[simp] theorem State.modToward_rack (s : State) (m : Nat) (f : Toward → Toward) : (s.modToward m f).rack = s.rack := rfl
@[simp] theorem State.modToward_boot (s : State) (m : Nat) (f : Toward → Toward) : (s.modToward m f).boot = s.boot := rfl
@[simp] theorem State.modToward_management (s : State) (m : Nat) (f : Toward → Toward) : (s.modToward m f).management = s.management := rfl

@[simp] theorem State.modPort_agenda (s : State) (p : Nat) (f : Port → Port) : (s.modPort p f).agenda = s.agenda := rfl
@[simp] theorem State.modPort_who (s : State) (p : Nat) (f : Port → Port) : (s.modPort p f).who = s.who := rfl
@[simp] theorem State.modPort_whoSlot (s : State) (p : Nat) (f : Port → Port) : (s.modPort p f).whoSlot = s.whoSlot := rfl
@[simp] theorem State.modPort_phase (s : State) (p : Nat) (f : Port → Port) : (s.modPort p f).phase = s.phase := rfl
@[simp] theorem State.modPort_turn (s : State) (p : Nat) (f : Port → Port) : (s.modPort p f).turn = s.turn := rfl
@[simp] theorem State.modPort_tick (s : State) (p : Nat) (f : Port → Port) : (s.modPort p f).tick = s.tick := rfl
@[simp] theorem State.modPort_born (s : State) (p : Nat) (f : Port → Port) : (s.modPort p f).born = s.born := rfl
@[simp] theorem State.modPort_seq (s : State) (p : Nat) (f : Port → Port) : (s.modPort p f).seq = s.seq := rfl
@[simp] theorem State.modPort_cores (s : State) (p : Nat) (f : Port → Port) : (s.modPort p f).cores = s.cores := rfl
@[simp] theorem State.modPort_intervals (s : State) (p : Nat) (f : Port → Port) : (s.modPort p f).intervals = s.intervals := rfl
@[simp] theorem State.modPort_clusters (s : State) (p : Nat) (f : Port → Port) : (s.modPort p f).clusters = s.clusters := rfl
@[simp] theorem State.modPort_nextCluster (s : State) (p : Nat) (f : Port → Port) : (s.modPort p f).nextCluster = s.nextCluster := rfl
@[simp] theorem State.modPort_l2tlb (s : State) (p : Nat) (f : Port → Port) : (s.modPort p f).l2tlb = s.l2tlb := rfl
@[simp] theorem State.modPort_l2 (s : State) (p : Nat) (f : Port → Port) : (s.modPort p f).l2 = s.l2 := rfl
@[simp] theorem State.modPort_mem (s : State) (p : Nat) (f : Port → Port) : (s.modPort p f).mem = s.mem := rfl
@[simp] theorem State.modPort_poison (s : State) (p : Nat) (f : Port → Port) : (s.modPort p f).poison = s.poison := rfl
@[simp] theorem State.modPort_memKey (s : State) (p : Nat) (f : Port → Port) : (s.modPort p f).memKey = s.memKey := rfl
@[simp] theorem State.modPort_seals (s : State) (p : Nat) (f : Port → Port) : (s.modPort p f).seals = s.seals := rfl
@[simp] theorem State.modPort_partitions (s : State) (p : Nat) (f : Port → Port) : (s.modPort p f).partitions = s.partitions := rfl
@[simp] theorem State.modPort_launches (s : State) (p : Nat) (f : Port → Port) : (s.modPort p f).launches = s.launches := rfl
@[simp] theorem State.modPort_nextLaunch (s : State) (p : Nat) (f : Port → Port) : (s.modPort p f).nextLaunch = s.nextLaunch := rfl
@[simp] theorem State.modPort_served (s : State) (p : Nat) (f : Port → Port) : (s.modPort p f).served = s.served := rfl
@[simp] theorem State.modPort_nextKey (s : State) (p : Nat) (f : Port → Port) : (s.modPort p f).nextKey = s.nextKey := rfl
@[simp] theorem State.modPort_host (s : State) (p : Nat) (f : Port → Port) : (s.modPort p f).host = s.host := rfl
@[simp] theorem State.modPort_rack (s : State) (p : Nat) (f : Port → Port) : (s.modPort p f).rack = s.rack := rfl
@[simp] theorem State.modPort_boot (s : State) (p : Nat) (f : Port → Port) : (s.modPort p f).boot = s.boot := rfl
@[simp] theorem State.modPort_management (s : State) (p : Nat) (f : Port → Port) : (s.modPort p f).management = s.management := rfl

@[simp] theorem Thread.modSlot_ccp (th : Thread) (n : Bool) (f : Slot → Slot) : (th.modSlot n f).ccp = th.ccp := rfl
@[simp] theorem Thread.modSlot_wave (th : Thread) (n : Bool) (f : Slot → Slot) : (th.modSlot n f).wave = th.wave := rfl
@[simp] theorem Thread.modSlot_quad (th : Thread) (n : Bool) (f : Slot → Slot) : (th.modSlot n f).quad = th.quad := rfl
@[simp] theorem Thread.modSlot_turn (th : Thread) (n : Bool) (f : Slot → Slot) : (th.modSlot n f).turn = th.turn := rfl
@[simp] theorem Thread.modSlot_regs (th : Thread) (n : Bool) (f : Slot → Slot) : (th.modSlot n f).regs = th.regs := rfl
@[simp] theorem Thread.modSlot_saved (th : Thread) (n : Bool) (f : Slot → Slot) : (th.modSlot n f).saved = th.saved := rfl
@[simp] theorem Thread.modSlot_shadow (th : Thread) (n : Bool) (f : Slot → Slot) : (th.modSlot n f).shadow = th.shadow := rfl
@[simp] theorem Thread.modSlot_exc (th : Thread) (n : Bool) (f : Slot → Slot) : (th.modSlot n f).exc = th.exc := rfl
@[simp] theorem Thread.modSlot_rgnpc (th : Thread) (n : Bool) (f : Slot → Slot) : (th.modSlot n f).rgnpc = th.rgnpc := rfl
@[simp] theorem Thread.modSlot_trappc (th : Thread) (n : Bool) (f : Slot → Slot) : (th.modSlot n f).trappc = th.trappc := rfl
@[simp] theorem Thread.modSlot_strappc (th : Thread) (n : Bool) (f : Slot → Slot) : (th.modSlot n f).strappc = th.strappc := rfl
@[simp] theorem Thread.modSlot_utrapbase (th : Thread) (n : Bool) (f : Slot → Slot) : (th.modSlot n f).utrapbase = th.utrapbase := rfl
@[simp] theorem Thread.modSlot_flags (th : Thread) (n : Bool) (f : Slot → Slot) : (th.modSlot n f).flags = th.flags := rfl
@[simp] theorem Thread.modSlot_gang (th : Thread) (n : Bool) (f : Slot → Slot) : (th.modSlot n f).gang = th.gang := rfl
@[simp] theorem Thread.modSlot_vregs (th : Thread) (n : Bool) (f : Slot → Slot) : (th.modSlot n f).vregs = th.vregs := rfl
@[simp] theorem Thread.modSlot_vpois (th : Thread) (n : Bool) (f : Slot → Slot) : (th.modSlot n f).vpois = th.vpois := rfl
@[simp] theorem Thread.modSlot_bound (th : Thread) (n : Bool) (f : Slot → Slot) : (th.modSlot n f).bound = th.bound := rfl
@[simp] theorem Thread.modSlot_behind (th : Thread) (n : Bool) (f : Slot → Slot) : (th.modSlot n f).behind = th.behind := rfl
@[simp] theorem Thread.modSlot_preds (th : Thread) (n : Bool) (f : Slot → Slot) : (th.modSlot n f).preds = th.preds := rfl
@[simp] theorem Thread.modSlot_ppois (th : Thread) (n : Bool) (f : Slot → Slot) : (th.modSlot n f).ppois = th.ppois := rfl
@[simp] theorem Thread.modSlot_tregs (th : Thread) (n : Bool) (f : Slot → Slot) : (th.modSlot n f).tregs = th.tregs := rfl
@[simp] theorem Thread.modSlot_loads (th : Thread) (n : Bool) (f : Slot → Slot) : (th.modSlot n f).loads = th.loads := rfl
@[simp] theorem Thread.modSlot_stores (th : Thread) (n : Bool) (f : Slot → Slot) : (th.modSlot n f).stores = th.stores := rfl
@[simp] theorem Thread.modSlot_overtaken (th : Thread) (n : Bool) (f : Slot → Slot) : (th.modSlot n f).overtaken = th.overtaken := rfl
@[simp] theorem Thread.modSlot_posts (th : Thread) (n : Bool) (f : Slot → Slot) : (th.modSlot n f).posts = th.posts := rfl
@[simp] theorem Thread.modSlot_log (th : Thread) (n : Bool) (f : Slot → Slot) : (th.modSlot n f).log = th.log := rfl
@[simp] theorem Thread.modSlot_faulted (th : Thread) (n : Bool) (f : Slot → Slot) : (th.modSlot n f).faulted = th.faulted := rfl
@[simp] theorem Thread.modSlot_late (th : Thread) (n : Bool) (f : Slot → Slot) : (th.modSlot n f).late = th.late := rfl
@[simp] theorem Thread.modSlot_arms (th : Thread) (n : Bool) (f : Slot → Slot) : (th.modSlot n f).arms = th.arms := rfl
@[simp] theorem Thread.modSlot_ended (th : Thread) (n : Bool) (f : Slot → Slot) : (th.modSlot n f).ended = th.ended := rfl
@[simp] theorem Thread.modSlot_arriving (th : Thread) (n : Bool) (f : Slot → Slot) : (th.modSlot n f).arriving = th.arriving := rfl
@[simp] theorem Thread.modSlot_stopped (th : Thread) (n : Bool) (f : Slot → Slot) : (th.modSlot n f).stopped = th.stopped := rfl
@[simp] theorem Thread.modSlot_restarting (th : Thread) (n : Bool) (f : Slot → Slot) : (th.modSlot n f).restarting = th.restarting := rfl
@[simp] theorem Thread.modSlot_evict (th : Thread) (n : Bool) (f : Slot → Slot) : (th.modSlot n f).evict = th.evict := rfl
@[simp] theorem Thread.modSlot_expired (th : Thread) (n : Bool) (f : Slot → Slot) : (th.modSlot n f).expired = th.expired := rfl
@[simp] theorem Thread.modSlot_accepted (th : Thread) (n : Bool) (f : Slot → Slot) : (th.modSlot n f).accepted = th.accepted := rfl
@[simp] theorem Thread.modSlot_cmds (th : Thread) (n : Bool) (f : Slot → Slot) : (th.modSlot n f).cmds = th.cmds := rfl
@[simp] theorem Thread.modSlot_uses (th : Thread) (n : Bool) (f : Slot → Slot) : (th.modSlot n f).uses = th.uses := rfl
@[simp] theorem Thread.modSlot_copyWords (th : Thread) (n : Bool) (f : Slot → Slot) : (th.modSlot n f).copyWords = th.copyWords := rfl

@[simp] theorem Slot.writeScalar_pc (x : Slot) (n v : Nat) (p : Bool) : (x.writeScalar n v p).pc = x.pc := rfl
@[simp] theorem Slot.writeScalar_mask (x : Slot) (n v : Nat) (p : Bool) : (x.writeScalar n v p).mask = x.mask := rfl
@[simp] theorem Slot.writeScalar_mode (x : Slot) (n v : Nat) (p : Bool) : (x.writeScalar n v p).mode = x.mode := rfl
@[simp] theorem Slot.writeScalar_fmt (x : Slot) (n v : Nat) (p : Bool) : (x.writeScalar n v p).fmt = x.fmt := rfl
@[simp] theorem Slot.writeScalar_jpc (x : Slot) (n v : Nat) (p : Bool) : (x.writeScalar n v p).jpc = x.jpc := rfl
@[simp] theorem Slot.writeScalar_cycleh (x : Slot) (n v : Nat) (p : Bool) : (x.writeScalar n v p).cycleh = x.cycleh := rfl
@[simp] theorem Slot.writeScalar_hold (x : Slot) (n v : Nat) (p : Bool) : (x.writeScalar n v p).hold = x.hold := rfl
@[simp] theorem Slot.writeScalar_park (x : Slot) (n v : Nat) (p : Bool) : (x.writeScalar n v p).park = x.park := rfl
@[simp] theorem Slot.writeScalar_since (x : Slot) (n v : Nat) (p : Bool) : (x.writeScalar n v p).since = x.since := rfl
@[simp] theorem Slot.writeScalar_stopped (x : Slot) (n v : Nat) (p : Bool) : (x.writeScalar n v p).stopped = x.stopped := rfl
@[simp] theorem Slot.writeScalar_last (x : Slot) (n v : Nat) (p : Bool) : (x.writeScalar n v p).last = x.last := rfl

end Sys2Proof.Machine
end

