-- ==== Sys2Proof/Laws/Access.lean ====
section
/-! SUPPORT. The laws of the ways in and out of the state: what a core, block, thread or slot reads as after one of them has
been changed, two changes of one thing as one, and which state a change touches. -/

namespace Sys2Proof.Machine
open Sys2Proof

/-! ### Cores -/

@[simp] theorem coreAt_setCore_same (s : State) (c : Nat) (k : Core) : (s.setCore c k).coreAt c = k := by
  simp [State.coreAt, State.setCore]

theorem coreAt_setCore_other (s : State) {c d : Nat} (k : Core) (h : d ≠ c) : (s.setCore c k).coreAt d = s.coreAt d := by
  simp [State.coreAt, State.setCore, findD_insert_other, h]

@[simp] theorem coreAt_modCore_same (s : State) (c : Nat) (f : Core → Core) :
    (s.modCore c f).coreAt c = f (s.coreAt c) := by simp [State.modCore]

theorem coreAt_modCore_other (s : State) {c d : Nat} (f : Core → Core) (h : d ≠ c) :
    (s.modCore c f).coreAt d = s.coreAt d := by simp [State.modCore, coreAt_setCore_other, h]

/-- Two changes of a core are one. -/
theorem modCore_modCore (s : State) (c : Nat) (f g : Core → Core) :
    (s.modCore c f).modCore c g = s.modCore c fun k => g (f k) := by
  simp [State.modCore, State.setCore, State.coreAt]

/-! ### Blocks -/

theorem blockAt_modCore_other (s : State) {c d : Nat} (b : Nat) (f : Core → Core) (h : d ≠ c) :
    (s.modCore c f).blockAt d b = s.blockAt d b := by simp [State.blockAt, coreAt_modCore_other, h]

/-- A block after a change of a block. -/
theorem blockAt_modBlock (s : State) (c b d e : Nat) (f : Block → Block) :
    (s.modBlock c b f).blockAt d e = if d = c ∧ e = b then (s.blockAt c b).map f else s.blockAt d e := by
  by_cases hd : d = c
  · subst hd
    simp [State.blockAt, State.modBlock, find_adjust]
  · simp [State.blockAt, State.modBlock, coreAt_modCore_other, hd]

@[simp] theorem blockAt_modBlock_same (s : State) (c b : Nat) (f : Block → Block) :
    (s.modBlock c b f).blockAt c b = (s.blockAt c b).map f := by simp [blockAt_modBlock]

theorem coreAt_modBlock_same (s : State) (c b : Nat) (f : Block → Block) :
    (s.modBlock c b f).coreAt c = { s.coreAt c with blocks := adjust (s.coreAt c).blocks b f } := by
  simp [State.modBlock]

theorem coreAt_modBlock_other (s : State) {c d : Nat} (b : Nat) (f : Block → Block) (h : d ≠ c) :
    (s.modBlock c b f).coreAt d = s.coreAt d := by simp [State.modBlock, coreAt_modCore_other, h]

/-- Two changes of a block are one. -/
theorem modBlock_modBlock (s : State) (c b : Nat) (f g : Block → Block) :
    (s.modBlock c b f).modBlock c b g = s.modBlock c b fun x => g (f x) := by
  simp [State.modBlock, modCore_modCore, adjust_adjust]

/-! ### Threads and slots -/

/-- A thread after a change of a thread. -/
theorem threadAt_modThread (s : State) (t u : ThreadRef) (f : Thread → Thread) :
    (s.modThread t f).threadAt u = if u = t then (s.threadAt t).map f else s.threadAt u := by
  obtain ⟨c, b, n⟩ := t
  obtain ⟨d, e, m⟩ := u
  simp only [State.threadAt, State.modThread, blockAt_modBlock]
  by_cases h : d = c ∧ e = b
  · obtain ⟨rfl, rfl⟩ := h
    cases hb : s.blockAt d e with
    | none => simp
    | some x => by_cases hm : m = n <;> simp [find_adjust, hm]
  · have : ¬ (⟨d, e, m⟩ : ThreadRef) = ⟨c, b, n⟩ := by
      intro heq; simp only [ThreadRef.mk.injEq] at heq; exact h ⟨heq.1, heq.2.1⟩
    simp [h, this]

@[simp] theorem threadAt_modThread_same (s : State) (t : ThreadRef) (f : Thread → Thread) :
    (s.modThread t f).threadAt t = (s.threadAt t).map f := by simp [threadAt_modThread]

theorem threadAt_modThread_other (s : State) {t u : ThreadRef} (f : Thread → Thread) (h : u ≠ t) :
    (s.modThread t f).threadAt u = s.threadAt u := by simp [threadAt_modThread, h]

@[simp] theorem threadAt_modSlot_same (s : State) (t : ThreadRef) (n : Bool) (f : Slot → Slot) :
    (s.modSlot t n f).threadAt t = (s.threadAt t).map fun th => th.modSlot n f := by simp [State.modSlot]

/-- Two changes of a thread are one. -/
theorem modThread_modThread (s : State) (t : ThreadRef) (f g : Thread → Thread) :
    (s.modThread t f).modThread t g = s.modThread t fun th => g (f th) := by
  simp [State.modThread, modBlock_modBlock, adjust_adjust]

theorem modSlot_modThread (s : State) (t : ThreadRef) (f : Thread → Thread) (n : Bool) (g : Slot → Slot) :
    (s.modThread t f).modSlot t n g = s.modThread t fun th => (f th).modSlot n g := by
  simp [State.modSlot, modThread_modThread]

theorem modThread_modSlot (s : State) (t : ThreadRef) (n : Bool) (g : Slot → Slot) (f : Thread → Thread) :
    (s.modSlot t n g).modThread t f = s.modThread t fun th => f (th.modSlot n g) := by
  simp [State.modSlot, modThread_modThread]

@[simp] theorem slot_setSlot (p : Paths) (n : Bool) (x : Slot) : (p.setSlot n x).slot n = x := by
  cases n <;> rfl

@[simp] theorem slot_setSlot_not (p : Paths) (n : Bool) (x : Slot) : (p.setSlot n x).slot (!n) = p.slot (!n) := by
  cases n <;> rfl

@[simp] theorem setSlot_setSlot (p : Paths) (n : Bool) (x y : Slot) : (p.setSlot n x).setSlot n y = p.setSlot n y := by
  cases n <;> rfl

@[simp] theorem frame_setSlot (p : Paths) (n : Bool) (x : Slot) : (p.setSlot n x).frame = p.frame := by cases n <;> rfl

@[simp] theorem stack_setSlot (p : Paths) (n : Bool) (x : Slot) : (p.setSlot n x).stack = p.stack := by cases n <;> rfl

@[simp] theorem slot_modSlot (th : Thread) (n : Bool) (f : Slot → Slot) :
    (th.modSlot n f).paths.slot n = f (th.paths.slot n) := by simp [Thread.modSlot]

/-- Two changes of a slot are one. -/
theorem threadModSlot_modSlot (th : Thread) (n : Bool) (f g : Slot → Slot) :
    (th.modSlot n f).modSlot n g = th.modSlot n fun x => g (f x) := by simp [Thread.modSlot]

/-! ### The number of the next issue commutes with changes of cores -/

@[simp] theorem seq_modCore (s : State) (n c : Nat) (f : Core → Core) :
    ({ s with seq := n }).modCore c f = { s.modCore c f with seq := n } := rfl

@[simp] theorem seq_modThread (s : State) (n : Nat) (t : ThreadRef) (f : Thread → Thread) :
    ({ s with seq := n }).modThread t f = { s.modThread t f with seq := n } := rfl

@[simp] theorem threadAt_seq (s : State) (n : Nat) (t : ThreadRef) : ({ s with seq := n }).threadAt t = s.threadAt t := rfl

/-! ### Which state a change touches -/

theorem sameMemory_refl (s : State) : SameMemory s s := ⟨fun _ _ => rfl, rfl, fun _ _ _ _ => rfl⟩

theorem readByte_setCore (s : State) (c : Nat) (k : Core) (key a : Nat) : (s.setCore c k).readByte key a = s.readByte key a :=
  rfl

/-- A change of one core is a change of that core only. -/
theorem onlyCore_modCore (s : State) (c : Nat) (f : Core → Core) : OnlyCore c s (s.modCore c f) :=
  ⟨rfl, fun _ h => coreAt_modCore_other s f h⟩

/-- A change of one block is a change of that block only. -/
theorem onlyBlock_modBlock (s : State) (c b : Nat) (f : Block → Block) : OnlyBlock c b s (s.modBlock c b f) := by
  refine ⟨onlyCore_modCore s c _, by simp [coreAt_modBlock_same], fun e h => ?_⟩
  simp [blockAt_modBlock, h]

/-- A change of one thread, with or without an issue number, is a change of that thread only. -/
theorem onlyThread_modThread (s : State) (n : Nat) (t : ThreadRef) (f : Thread → Thread) :
    OnlyThread t s { s.modThread t f with seq := n } := by
  refine ⟨⟨⟨rfl, fun _ h => coreAt_modBlock_other s _ _ h⟩, ?_, ?_⟩, ⟨fun _ _ => rfl, rfl, ?_⟩, ?_, ?_⟩
  · show { (s.modThread t f).coreAt t.core with blocks := (s.coreAt t.core).blocks } = s.coreAt t.core
    simp [State.modThread, coreAt_modBlock_same]
  · intro b h
    show (s.modThread t f).blockAt t.core b = s.blockAt t.core b
    simp [State.modThread, blockAt_modBlock, h]
  · intro c b code o
    show (s.modThread t f).regionByte c b code o = s.regionByte c b code o
    simp only [State.regionByte, State.modThread, blockAt_modBlock]
    by_cases h : c = t.core ∧ b = t.block
    · obtain ⟨rfl, rfl⟩ := h
      cases hb : s.blockAt t.core t.block <;> simp
    · simp [h]
  · intro u h
    exact threadAt_modThread_other s f h
  · intro b hb
    refine ⟨{ b with threads := adjust b.threads t.thread f }, ?_, rfl⟩
    show (s.modThread t f).blockAt t.core t.block = _
    simp [State.modThread, hb]

end Sys2Proof.Machine
end

