-- ==== Sys2Proof/Laws/Decode.lean ====
section
/-! SUPPORT. The laws of encodings: operand codes both ways, fields cut out of a word and joined again, and which group an
opcode belongs to. -/

namespace Sys2Proof
open Machine

/-! ### Operand codes (R24) -/

/-- The codes from 0xC0 up name the scalars. -/
theorem regOfCode_scalar {c : Byte} {n : Fin 32} (h : c.toNat = n.val + 192) : regOfCode c = some (.s n) := by
  have hn := n.isLt
  unfold regOfCode
  dsimp only
  split
  next h1 => omega
  next h1 =>
    split
    next h2 =>
      have : (⟨c.toNat - 192, h2⟩ : Fin 32) = n := Fin.ext (by simp only; omega)
      rw [this]
    next h2 => omega

theorem regOfCode_regCode (r : Reg) : regOfCode (regCode r) = some r := by
  cases r with
  | v n =>
    have h : (BitVec.ofNat 8 n.val).toNat = n.val := by simp; omega
    simp [regOfCode, regCode, h, n.isLt]
  | s n =>
    have h : (BitVec.ofNat 8 (0xC0 + n.val)).toNat = n.val + 192 := by rw [BitVec.toNat_ofNat]; omega
    exact regOfCode_scalar h
  | sp x => cases x <;> simp [regOfCode, regCode, specialCode]

/-- An operand's code reads as that operand. -/
@[simp] theorem operand_regCode (r : Reg) : operand (regCode r) = .ok r := by simp [operand, regOfCode_regCode]

/-- A code that reads as an operand is that operand's code. -/
theorem regCode_of_operand {c : Byte} {r : Reg} (h : operand c = .ok r) : regCode r = c := by
  unfold operand at h
  split at h
  next r' hr =>
    cases h
    unfold regOfCode at hr
    dsimp only at hr
    have hc := c.isLt
    split at hr
    · cases hr; apply BitVec.eq_of_toNat_eq; simp [regCode]
    · split at hr
      · cases hr; apply BitVec.eq_of_toNat_eq; simp [regCode]; omega
      · have h8 : c.toNat - 224 + 224 = c.toNat := by omega
        split at hr <;> (first | cases hr | skip) <;>
          (apply BitVec.eq_of_toNat_eq; simp [regCode, specialCode]; omega)
  · cases h

/-- The reserved codes 0xE8 to 0xFF name no operand. -/
theorem operand_reserved {c : Byte} (h : 0xE8 ≤ c.toNat) : operand c = .error .operandCode := by
  have hc := c.isLt
  unfold operand regOfCode
  dsimp only
  rw [dif_neg (by omega), dif_neg (by omega)]
  obtain ⟨m, hm⟩ : ∃ m, c.toNat - 224 = m + 8 := ⟨c.toNat - 232, by omega⟩
  rw [hm]
  rfl

/-! ### Fields -/

/-- A field cut in two and joined again. -/
theorem append_extract {a b : Nat} (x : BitVec (a + b)) : (x.extractLsb' b a ++ x.extractLsb' 0 b) = x := by
  apply BitVec.eq_of_getLsbD_eq
  intro i hi
  simp only [BitVec.getLsbD_append, BitVec.getLsbD_extractLsb']
  by_cases h : i < b
  · simp [h]
  · have h1 : i - b < a := by omega
    have h2 : b + (i - b) = i := by omega
    simp [h, h1, h2]

/-- The upper part of two fields joined. -/
theorem extract_append_hi {a b : Nat} (x : BitVec a) (y : BitVec b) : (x ++ y).extractLsb' b a = x := by
  apply BitVec.eq_of_getLsbD_eq
  intro i hi
  simp [BitVec.getLsbD_append, hi]

/-- The lower part of two fields joined. -/
theorem extract_append_lo {a b : Nat} (x : BitVec a) (y : BitVec b) : (x ++ y).extractLsb' 0 b = y := by
  apply BitVec.eq_of_getLsbD_eq
  intro i hi
  simp [BitVec.getLsbD_append, hi]

/-! ### Words -/

/-- A word that is not LIW decodes by itself, whatever follows it. -/
theorem decode_encWord (op d a b : Byte) (rest : List Byte) (h : op ≠ 0x61) :
    decode (encWord op d a b ++ rest) = (decodeWord op d a b none).map (·, rest) := by
  simp only [decode, encWord, List.cons_append, List.nil_append, if_neg h]

end Sys2Proof
end

