-- ==== Sys2Proof/Laws/Ops.lean ====
section
/-! SUPPORT. What the shared operations of words can do: who the issuing agent is, what the checks answer, and what a word
that issues leaves. -/

namespace Sys2Proof.Machine
open Sys2Proof

/-! ### The issuing agent -/

/-- The agent is the thread and slot that the state names. -/
structure Agent (s : State) (c : Ctx) : Prop where
  ref : c.ref = s.who
  slot : c.slot = s.whoSlot
  core : c.core = s.coreAt c.ref.core
  block : s.blockAt c.ref.core c.ref.block = some c.block
  launch : c.launch = s.launchOf c.block
  thread : s.threadAt c.ref = some c.thread
  cur : c.cur = c.thread.paths.slot c.slot
  seq : c.seq = s.seq
  live : c.cur.mask ≠ 0

/-- An issuer is the agent that the state names. -/
theorem agent_of_issuer {s : State} {c : Ctx} (h : s.issuer = some c) : Agent s c := by
  unfold State.issuer at h
  split at h
  · cases h
  next b hb =>
    split at h
    · cases h
    next th hth =>
      dsimp only at h
      split at h
      · cases h
      next hm =>
        cases h
        exact ⟨rfl, rfl, rfl, hb, rfl, by simp [State.threadAt, hb, hth], rfl, rfl, hm⟩

/-- Every answer of the checks but `noIssuer` is about the agent that the state names, with the word's effective mask. -/
theorem issuer_agent {i : Instr} {s : State} {c0 : Ctx} (h : s.issuer = some c0) :
    Agent s { c0 with eff := effectiveMask i c0.thread c0.cur } := by
  have a := agent_of_issuer h
  exact ⟨a.ref, a.slot, a.core, a.block, a.launch, a.thread, a.cur, a.seq, a.live⟩

/-- The agent of a word that a check of R34 rejects. -/
theorem agent_of_trap {i : Instr} {s : State} {c : Ctx} {cause : Cause} (h : gate i s = .trap c cause) : Agent s c := by
  unfold gate gateNaming at h
  split at h
  next c0 op hc hop =>
    dsimp only at h
    split at h
    · cases h; exact issuer_agent hc
    · split at h
      · cases h
      · split at h
        · cases h
        · split at h <;> cases h
  · cases h

/-- The agent of a word to which no lane is left (R35). -/
theorem agent_of_empty {i : Instr} {s : State} {c : Ctx} (h : gate i s = .empty c) : Agent s c := by
  unfold gate gateNaming at h
  split at h
  next c0 op hc hop =>
    dsimp only at h
    split at h
    · cases h
    · split at h
      · cases h; exact issuer_agent hc
      · split at h
        · cases h
        · split at h <;> cases h
  · cases h

/-- What a word that issues has passed. -/
theorem gateNaming_go {names : Ctx → Bool} {i : Instr} {s : State} {c : Ctx} (h : gateNaming names i s = .go c) :
    Agent s c ∧ c.eff = effectiveMask i c.thread c.cur ∧ c.eff ≠ 0 ∧
      ∃ op, wordOpcode i = some op ∧ decodeTrap c (s.partAt c.part).testen i op = none ∧
        scoreboarded c i (names c) = false ∧ splitWaits c i = false ∧ readsDead c i = false := by
  unfold gateNaming at h
  split at h
  next c0 op hc hop =>
    dsimp only at h
    split at h
    · cases h
    next hd =>
      split at h
      · cases h
      next he =>
        split at h
        · cases h
        next hs =>
          split at h
          · cases h
          next hr =>
            injection h with h
            subst h
            have hs := Bool.or_eq_false_iff.mp (Bool.eq_false_iff.mpr hs)
            exact ⟨issuer_agent hc, rfl, he, op, hop, hd, hs.1, hs.2, by simpa using hr⟩
  · cases h

/-- What a word that issues has passed. -/
theorem gate_go {i : Instr} {s : State} {c : Ctx} (h : gate i s = .go c) :
    Agent s c ∧ c.eff = effectiveMask i c.thread c.cur ∧ c.eff ≠ 0 :=
  let ⟨a, e, n, _⟩ := gateNaming_go h
  ⟨a, e, n⟩

/-! ### Issuing -/

/-- A meaning runs once the checks let it. -/
theorem issue_go {i : Instr} {body : Ctx → State → State} {s : State} {c : Ctx} (h : gate i s = .go c) :
    issue i body s = .next (body c (c.begun s)) := by
  simp [issue, runGate, h]

/-- A meaning runs when the checks let it, no check is armed and nothing it reads is poisoned. -/
theorem perform_runs {i : Instr} {body : Ctx → State → State} {s : State} {c : Ctx} (h : Runs i s c) :
    perform i body s = .next (body c (c.begun s)) := by
  obtain ⟨hg, hu, hp⟩ := h
  unfold perform
  rw [issue_go hg]
  unfold Ctx.checked
  by_cases h0 : unitOf i c.ty = 0
  · simp [h0, hp]
  · simp [hu h0, hp]

/-- The bookkeeping of an issue is a change of the issuing thread. -/
theorem begun_eq (c : Ctx) (s : State) :
    c.begun s = { s.modThread c.ref (fun th =>
      { th.modSlot c.slot (fun x => { x with hold := .free, last := c.cur.pc, since := x.since + 1 }) with turn := c.slot })
        with seq := s.seq + 1 } := rfl

/-- The issuing thread after the bookkeeping. -/
theorem threadAt_begun {s : State} {c : Ctx} (a : Agent s c) : (c.begun s).threadAt c.ref = some c.issued := by
  simp only [begun_eq, threadAt_seq, threadAt_modThread_same, a.thread, Option.map_some, Option.some.injEq]
  simp only [Ctx.issued, Thread.modSlot, Slot.issued, ← a.cur]

/-- A word that only changes its own thread touches nothing else, and leaves the thread changed that way. -/
theorem begun_modThread {s : State} {c : Ctx} (a : Agent s c) (g : Thread → Thread) :
    OnlyThread c.ref s ((c.begun s).modThread c.ref g) ∧
      ((c.begun s).modThread c.ref g).threadAt c.ref = some (g c.issued) := by
  constructor
  · rw [begun_eq]
    simp only [seq_modThread, modThread_modThread]
    exact onlyThread_modThread s (s.seq + 1) c.ref _
  · simp [threadAt_begun a]

theorem begun_modSlot {s : State} {c : Ctx} (a : Agent s c) (f : Slot → Slot) :
    OnlyThread c.ref s ((c.begun s).modSlot c.ref c.slot f) ∧
      ((c.begun s).modSlot c.ref c.slot f).threadAt c.ref = some (c.after f) :=
  begun_modThread a fun th => th.modSlot c.slot f

/-- Falling through within the window. -/
theorem stepOver_below {c : Ctx} {n : Word} {s : State} (h : c.cur.pc.toNat + n.toNat < 2 ^ 32) :
    c.stepOver n s = s.modSlot c.ref c.slot fun x => { x with pc := c.cur.pc + n } := by
  unfold Ctx.stepOver
  rw [if_neg (by omega)]

theorem stepOn_below {c : Ctx} {i : Instr} {s : State} (h : c.below i) (hl : wordLength i = 4) :
    c.stepOn s = s.modSlot c.ref c.slot fun x => { x with pc := c.cur.pc + 4 } := by
  have : c.cur.pc.toNat + (4 : Word).toNat < 2 ^ 32 := by simpa [Ctx.below, hl] using h
  exact stepOver_below this

/-! ### Registers (R24, R26, R61, R62) -/

/-- A special is never written (R26). -/
@[simp] theorem writeReg_special (th : Thread) (k : Core) (n : Bool) (x : Special) (vals : List (Nat × Nat)) (p : Word) :
    th.writeReg k n (.sp x) vals p = th := rfl

/-- p0 reads as all ones, one bit of it on a CCP (R26, R219). -/
@[simp] theorem pred_zero (th : Thread) : th.pred 0 = if th.ccp then 1 else BitVec.allOnes 32 := rfl

/-- A write of p0 is discarded (R26). -/
@[simp] theorem setPred_zero (th : Thread) (x : Word) : th.setPred 0 x = th := rfl

/-- Predicates of a CCP are one bit wide (R219). -/
theorem pred_setPred (th : Thread) (n m : Nat) (x : Word) (h : n ≠ 0) :
    (th.setPred n x).pred m = if m = n then (if th.ccp then x &&& 1 else x) else th.pred m := by
  unfold Thread.pred Thread.setPred
  by_cases hm : m = 0
  · subst hm; simp [Ne.symm h, h]
  · simp [h, hm, findD_put]

/-- A scalar after a write of a scalar. -/
theorem findD_writeScalar (x : Slot) (n m v : Nat) (p : Bool) :
    findD (x.writeScalar n v p).sregs m 0 = if m = n then BitVec.ofNat 32 v else findD x.sregs m 0 := by
  simp [Slot.writeScalar, findD_put]

/-- Writing lanes of a map by register and lane: a key outside the lanes written keeps its value. -/
theorem findD_foldl_put_other (vals : List (Nat × Nat)) (m : List (Nat × Word)) (n key : Nat)
    (h : ∀ v ∈ vals, key ≠ n * 32 + v.1) :
    findD (vals.foldl (fun m v => put 0 m (n * 32 + v.1) (BitVec.ofNat 32 v.2)) m) key 0 = findD m key 0 := by
  induction vals generalizing m with
  | nil => rfl
  | cons v r ih =>
    rw [List.foldl_cons, ih _ fun w hw => h w (List.mem_cons_of_mem _ hw)]
    exact findD_put_other 0 m _ (h v (List.mem_cons_self ..))

/-- Writing lanes of a map: a lane written once holds what was written. -/
theorem findD_foldl_put_mem (vals : List (Nat × Nat)) (m : List (Nat × Word)) (n l v : Nat)
    (hn : (vals.map (·.1)).Nodup) (h : (l, v) ∈ vals) :
    findD (vals.foldl (fun m v => put 0 m (n * 32 + v.1) (BitVec.ofNat 32 v.2)) m) (n * 32 + l) 0 = BitVec.ofNat 32 v := by
  induction vals generalizing m with
  | nil => cases h
  | cons w r ih =>
    simp only [List.map_cons, List.nodup_cons] at hn
    rw [List.foldl_cons]
    rcases List.mem_cons.mp h with rfl | h
    · rw [findD_foldl_put_other]
      · simp
      · intro u hu he
        have : u.1 = l := by omega
        exact hn.1 (List.mem_map.mpr ⟨u, hu, this⟩)
    · exact ih _ hn.2 h

/-! ### Traps (R252, R255, R266) -/

/-- Giving up the thread's walks is a change of its core alone, and of no thread. -/
@[simp] theorem threadAt_cancelWalks (s : State) (t u : ThreadRef) : (cancelWalks s t).threadAt u = s.threadAt u := by
  simp only [State.threadAt, State.blockAt, cancelWalks]
  by_cases h : u.core = t.core
  · simp [h]
  · simp [coreAt_modCore_other _ _ h]

/-- Parking the whole slot of a wave (R252); its words that waited for walks walk again (R175). -/
theorem parkLanes_whole {s : State} {t : ThreadRef} {n : Bool} {info : TrapInfo} {next : Word} {th : Thread}
    (ht : s.threadAt t = some th) (hc : th.ccp = false) (hm : info.lanes = (th.paths.slot n).mask) :
    parkLanes s t n info info.lanes next =
      (cancelWalks s t).modThread t fun th => { th with paths := restartCounts th.paths }.modSlot n fun x =>
        { x with pc := info.pc, park := some info, hold := .free } := by
  unfold parkLanes
  simp [ht, hc, hm, modSlot_modThread]

/-- A CCP stops instead of parking (R221). -/
theorem parkLanes_ccp {s : State} {t : ThreadRef} {n : Bool} {info : TrapInfo} {m next : Word} {th : Thread}
    (ht : s.threadAt t = some th) (hc : th.ccp = true) : parkLanes s t n info m next = stopCcp s t info := by
  unfold parkLanes
  simp [ht, hc]

/-- Taking a trap below depth 2 where a vector serves: what is saved, and where the handler starts (R255). -/
theorem enterTrap_taken {s : State} {t : ThreadRef} {n : Place} {p : Bool} {info : TrapInfo} {th : Thread} {b : Block} {v : Word} {u : Bool}
    (ht : s.threadAt t = some th) (hb : s.blockAt t.core t.block = some b) (hd : th.depth ≠ 2)
    (hv : vectorOf (s.partAt (s.launchOf b).partition) th info.cause = some (v, u)) :
    ∃ y, (enterTrap s t n p info).threadAt t = some y ∧ y.depth = th.depth + 1 ∧ y.supervisor = u ∧ y.exc = excOf info ∧
      y.trappc = (if th.depth = 0 then info.pc else th.trappc) ∧ y.strappc = (if th.depth = 1 then info.pc else th.strappc) ∧
      y.shadow = (if th.depth = 1 then th.exc else th.shadow) ∧ y.paths.slot0 = handlerSlot (th.paths.slotAt n) info.lanes v ∧
      y.paths.slot1 = freshSlot ∧ y.paths.frame = none ∧ y.paths.stack = [] := by
  unfold enterTrap
  simp only [ht, hb, if_neg hd, hv]
  exact ⟨_, by rw [threadAt_modThread_same, threadAt_cancelWalks, ht]; rfl, by simp [Thread.depth], by simp [Thread.supervisor], rfl, rfl, rfl, rfl, rfl,
    rfl, rfl, rfl⟩

/-- At depth 2, and where no vector serves, taking a trap aborts the block with cause 0x0F (R255). -/
theorem enterTrap_nested {s : State} {t : ThreadRef} {n : Place} {p : Bool} {info : TrapInfo} {th : Thread} {b : Block}
    (ht : s.threadAt t = some th) (hb : s.blockAt t.core t.block = some b)
    (h : th.depth = 2 ∨ vectorOf (s.partAt (s.launchOf b).partition) th info.cause = none) :
    enterTrap s t n p info = abortBlock s t .nested info.pc := by
  unfold enterTrap
  simp only [ht, hb]
  rcases h with h | h
  · rw [if_pos h]
  · rw [h, ite_self]

/-- Returning from a handler (R266): one depth less, and the slots that were suspended. -/
theorem returnTrap_saved {th : Thread} {sv : Saved} {rest : List Saved} (h : th.saved = sv :: rest) :
    th.returnTrap.saved = rest ∧ th.returnTrap.paths = unstop (match sv.parked with
      | some x => sv.paths.modAt x (resumeSlot sv (if th.depth = 2 then th.strappc else th.trappc))
      | none => sv.paths) ∧
      th.returnTrap.exc = if th.depth = 2 then th.shadow else th.exc := by
  have h' : th.dropScalars.saved = sv :: rest := h
  unfold Thread.returnTrap
  simp only [h']
  exact ⟨trivial, rfl, rfl⟩

end Sys2Proof.Machine
end

