-- ==== Sys2Proof/Laws/Exec.lean ====
section
/-! SUPPORT. What `exec` answers for every word where a check decides it: the trap of a failing check, an empty mask, a register
that is not ready, a dead binding; and that a step that is not a word issues nothing. -/

namespace Sys2Proof.Machine
open Sys2Proof

/-- What a check that fails or waits finds is the same whether or not the word names its operands by tag. -/
theorem gateNaming_trap {names : Ctx → Bool} {i : Instr} {s : State} {c : Ctx} {cause : Cause}
    (h : gate i s = .trap c cause) : gateNaming names i s = .trap c cause := by
  unfold gate gateNaming at h
  unfold gateNaming
  split at h
  next c0 op hc hop =>
    dsimp only at h ⊢
    split at h
    next x => simp only [*]
    next x =>
      split at h
      · cases h
      · split at h
        · cases h
        · split at h <;> cases h
  · cases h

/-- See `gateNaming_trap`. -/
theorem gateNaming_empty {names : Ctx → Bool} {i : Instr} {s : State} {c : Ctx}
    (h : gate i s = .empty c) : gateNaming names i s = .empty c := by
  unfold gate gateNaming at h
  unfold gateNaming
  split at h
  next c0 op hc hop =>
    dsimp only at h ⊢
    split at h
    · cases h
    next hd =>
      split at h
      next he =>
        rw [if_pos he]
        exact h
      next =>
        split at h
        · cases h
        · split at h <;> cases h
  · cases h

/-- A step that is not a word has no issuer. -/
theorem gate_not_word {i : Instr} {s : State} (h : wordOpcode i = none) : gate i s = .noIssuer := by
  unfold gate gateNaming
  split
  next hc ho => simp [h] at ho
  · rfl

/-- A word that fails a check of R34 takes its trap. -/
theorem exec_trap {i : Instr} {s : State} {c : Ctx} {cause : Cause} (h : gate i s = .trap c cause) :
    exec i s = .next (c.raise cause c.cur.mask 0 0 (c.begun s)) := by
  have hn := fun names => gateNaming_trap (names := names) h
  cases i <;> first
    | (rw [gate_not_word rfl] at h; cases h)
    | simp only [exec, perform, performEach, issue, laneWord, runGate, h, hn,
        execNop, execBra, execBrp, execJoinat, execCall, execCallx, execRet, execExit, execLoop, execBrx, execYield,
        execSleep, execBkpt, execTrap, execIadd, execIsub, execImul, execImulh, execImad, execImin, execImax, execIabs,
        execIneg, execIaddi, execMovi, execMovhi, execAnd, execOr, execXor, execNot, execShl, execShr, execSar,
        execRol, execPopc, execClz, execBrev, execBfe, execBfi, execPrmt, execFadd, execFsub, execFmul, execFma,
        execFmin, execFmax, execFabs, execFneg, execRcp, execRsq, execSqrt, execEx2, execLg2, execSin, execCos,
        execFrnd, execCvt, execCmp, execSel, execPk2, execPk4, execUpk, execBscl, execShfl, execShflu, execShfld,
        execShflx, execRdlane, execWrlane, execVote, execRedadd, execRedmin, execRedmax, execScan, execPmovToScalar,
        execPmovToPredicate, execMov, execLiw, execLdk, execMode, execSetf, execMfs, execMts, execTagof, execVsdrop,
        execXlat, execGraise, execPhase, execGear, execRgn, execRgnend, execLdg, execStg, execLdgk, execLds, execSts,
        execLdb, execStb, execPrf, execAtomg, execAtomg64, execCasg, execAtoms, execCass, execFence, execBar,
        execArrive, execWaitb, execTestb, execWaitc, execGang, execRawait, execRrel, execRpost, execRinit, execMma,
        execMmaz, execMmas, execEpi, execRowsum, execCmpr, execCbld, execQacc, execClrt, execMtrn, execLdef, execLpush,
        execLread, execLrung, execLsetr, execLstep, execLstepw, execLclr, execCpy, execCpy2, execCpyx, execCpym,
        execCpye, execCpyg, execRedx, execCwait, execCstat, execCcan, execRfill, execRft, execFltq, execMapft,
        execReplay, execCancel, execHaltb, execDrain, execTlbinv, execMfsv, execMtsv, execErrinj, execVsflush,
        execResumeb, execIllegalInstruction]

/-- A word with an empty mask steps over itself (R35). -/
theorem exec_empty {i : Instr} {s : State} {c : Ctx} (h : gate i s = .empty c) :
    exec i s = .next (c.stepOver (wordLength i) (c.begun s)) := by
  have hn := fun names => gateNaming_empty (names := names) h
  cases i <;> first
    | (rw [gate_not_word rfl] at h; cases h)
    | simp only [exec, perform, performEach, issue, laneWord, runGate, h, hn,
        execNop, execBra, execBrp, execJoinat, execCall, execCallx, execRet, execExit, execLoop, execBrx, execYield,
        execSleep, execBkpt, execTrap, execIadd, execIsub, execImul, execImulh, execImad, execImin, execImax, execIabs,
        execIneg, execIaddi, execMovi, execMovhi, execAnd, execOr, execXor, execNot, execShl, execShr, execSar,
        execRol, execPopc, execClz, execBrev, execBfe, execBfi, execPrmt, execFadd, execFsub, execFmul, execFma,
        execFmin, execFmax, execFabs, execFneg, execRcp, execRsq, execSqrt, execEx2, execLg2, execSin, execCos,
        execFrnd, execCvt, execCmp, execSel, execPk2, execPk4, execUpk, execBscl, execShfl, execShflu, execShfld,
        execShflx, execRdlane, execWrlane, execVote, execRedadd, execRedmin, execRedmax, execScan, execPmovToScalar,
        execPmovToPredicate, execMov, execLiw, execLdk, execMode, execSetf, execMfs, execMts, execTagof, execVsdrop,
        execXlat, execGraise, execPhase, execGear, execRgn, execRgnend, execLdg, execStg, execLdgk, execLds, execSts,
        execLdb, execStb, execPrf, execAtomg, execAtomg64, execCasg, execAtoms, execCass, execFence, execBar,
        execArrive, execWaitb, execTestb, execWaitc, execGang, execRawait, execRrel, execRpost, execRinit, execMma,
        execMmaz, execMmas, execEpi, execRowsum, execCmpr, execCbld, execQacc, execClrt, execMtrn, execLdef, execLpush,
        execLread, execLrung, execLsetr, execLstep, execLstepw, execLclr, execCpy, execCpy2, execCpyx, execCpym,
        execCpye, execCpyg, execRedx, execCwait, execCstat, execCcan, execRfill, execRft, execFltq, execMapft,
        execReplay, execCancel, execHaltb, execDrain, execTlbinv, execMfsv, execMtsv, execErrinj, execVsflush,
        execResumeb, execIllegalInstruction]

end Sys2Proof.Machine
end

