-- ==== Sys2Proof/Laws/Ram.lean ====
section
/-! SUPPORT. Laws of memory and regions: a read after a write, what a write leaves alone, and that every operation on memory keeps
its canonical form. -/

namespace Sys2Proof.Machine
open Sys2Proof

/-! ### Byte maps -/

/-- A byte after a write of bytes from a on: the byte written, or the one that was there. -/
theorem findD_writeCells (m : List Host.Cell) (a i : Nat) (bs : List Byte) :
    findD (writeCells m a bs) i 0 = if a ≤ i ∧ i < a + bs.length then bs.getD (i - a) 0 else findD m i 0 := by
  induction bs generalizing m a with
  | nil =>
    have : ¬ (a ≤ i ∧ i < a + ([] : List Byte).length) := by simp
    rw [if_neg this, writeCells]
  | cons b bs ih =>
    rw [writeCells, ih, findD_put]
    by_cases h1 : i = a
    · subst h1
      have h2 : ¬ (i + 1 ≤ i ∧ i < i + 1 + bs.length) := by omega
      have h3 : i ≤ i ∧ i < i + (b :: bs).length := by simp
      rw [if_neg h2, if_pos h3]
      simp
    · by_cases h2 : a + 1 ≤ i ∧ i < a + 1 + bs.length
      · have h3 : a ≤ i ∧ i < a + (b :: bs).length := by simp only [List.length_cons]; omega
        rw [if_pos h2, if_pos h3, show i - a = (i - (a + 1)) + 1 by omega]
        simp
      · have h3 : ¬ (a ≤ i ∧ i < a + (b :: bs).length) := by simp only [List.length_cons]; omega
        rw [if_neg h2, if_neg h3, if_neg h1]

/-- A write leaves the bytes outside it alone. -/
theorem findD_writeCells_other (m : List Host.Cell) {a i : Nat} {bs : List Byte} (h : i < a ∨ a + bs.length ≤ i) :
    findD (writeCells m a bs) i 0 = findD m i 0 := by
  rw [findD_writeCells, if_neg (by omega)]

/-- The bytes written are read. -/
theorem readCells_writeCells (m : List Host.Cell) (a : Nat) (bs : List Byte) : readCells (writeCells m a bs) a bs.length = bs := by
  apply List.ext_getElem
  · simp [readCells]
  · intro n h1 h2
    simp only [readCells, List.getElem_map, List.getElem_range]
    rw [findD_writeCells, if_pos (by omega)]
    simp [h2]

/-- A write keeps the canonical form. -/
theorem wf_writeCells (m : List Host.Cell) (a : Nat) (bs : List Byte) (h : Memory.wf m = true) :
    Memory.wf (writeCells m a bs) = true := by
  induction bs generalizing m a with
  | nil => exact h
  | cons b bs ih => exact ih _ _ (canonical_put _ _ _ _ h)

/-! ### Memory -/

/-- A block under a new key keeps the canonical form. -/
theorem memoryKept_rekey (s : State) (key block : Nat) (h : s.MemoryKept) : (s.rekey key block).MemoryKept := by
  unfold State.rekey
  split
  · exact wf_writeCells _ _ _ h
  · exact h

/-- Blocks under a new key keep the canonical form. -/
theorem memoryKept_rekeys (key : Nat) (xs : List Nat) (s : State) (h : s.MemoryKept) :
    (xs.foldl (fun s x => s.rekey key x) s).MemoryKept := by
  induction xs generalizing s with
  | nil => exact h
  | cons x xs ih => exact ih _ (memoryKept_rekey s key x h)

/-- A write of bytes keeps the canonical form. -/
theorem memoryKept_writeBytes (s : State) (key a : Nat) (bs : List Byte) (h : s.MemoryKept) :
    (s.writeBytes key a bs).MemoryKept := wf_writeCells _ _ _ (memoryKept_rekeys key _ s h)

/-- So does a write of bytes and their poison. -/
theorem memoryKept_writeMem (s : State) (key a : Nat) (bs : List Byte) (p : Bool) (h : s.MemoryKept) :
    (s.writeMem key a bs p).MemoryKept := memoryKept_writeBytes s key a bs h

/-- Zeroing frames keeps the canonical form. -/
theorem memoryKept_zeroFrame (s : State) (key a : Nat) (h : s.MemoryKept) : (s.zeroFrame key a).MemoryKept :=
  canonical_filter _ _ _ h

/-- The memory of reset has the form. -/
theorem memoryKept_reset : State.reset.MemoryKept := rfl

/-! ### Regions -/

/-- A byte of a region after a write. -/
theorem region_writeRegion (b : Block) (code offset : Nat) (bs : List Byte) (p : Bool) (k : Nat) :
    findD (b.writeRegion code offset bs p).regions k 0 =
      if regionKey code offset ≤ k ∧ k < regionKey code offset + bs.length then bs.getD (k - regionKey code offset) 0
      else findD b.regions k 0 := findD_writeCells _ _ _ _

/-- The bytes written are read. -/
theorem readRegion_writeRegion (b : Block) (code offset : Nat) (bs : List Byte) (p : Bool) :
    (b.writeRegion code offset bs p).readRegion code offset bs.length = bs := readCells_writeCells _ _ _

/-- A write of a region keeps the canonical form. -/
theorem wf_writeRegion (b : Block) (code offset : Nat) (bs : List Byte) (p : Bool) (h : Memory.wf b.regions = true) :
    Memory.wf (b.writeRegion code offset bs p).regions = true := wf_writeCells _ _ _ h

end Sys2Proof.Machine
end

