-- ==== Sys2Proof/Laws/Kept.lean ====
section
/-! SUPPORT. The operations that every meaning shares leave the bytes of memory alone, so a word keeps memory's form wherever what
it does itself keeps it. -/

namespace Sys2Proof.Machine
open Sys2Proof

/-! ### Aborting, parking and taking a trap -/

@[simp] theorem clearAborted_mem (s : State) (c b : Nat) : (clearAborted s c b).mem = s.mem := by
  unfold clearAborted; split <;> simp

@[simp] theorem abortQuiet_mem (s : State) (c b : Nat) : (abortQuiet s c b).mem = s.mem := by
  simp [abortQuiet]

@[simp] theorem sendAbort_mem (s : State) (b : Block) (c w pc : Nat) : (sendAbort s b c w pc).mem = s.mem := by
  rfl

@[simp] theorem abortBlock_mem (s : State) (t : ThreadRef) (cause : Cause) (pc : Word) : (abortBlock s t cause pc).mem = s.mem := by
  unfold abortBlock
  split
  · rfl
  · dsimp only
    split
    · rfl
    · split <;> simp

@[simp] theorem stopCcp_mem (s : State) (t : ThreadRef) (info : TrapInfo) : (stopCcp s t info).mem = s.mem := by
  simp [stopCcp]

@[simp] theorem parkPastEnd_mem (s : State) (t : ThreadRef) (pc : Word) (n : Nat) : (parkPastEnd s t pc n).mem = s.mem := by
  unfold parkPastEnd; split <;> simp

/-! ### The stack and splits -/

@[simp] theorem startWalk_mem (s : State) (t : ThreadRef) (n : Bool) (va : Nat) (x : Option Nat) (l : Nat) :
    (startWalk s t n va x l).mem = s.mem := by
  unfold startWalk; dsimp only; split <;> rfl

@[simp] theorem dropWalks_mem (s : State) (t : ThreadRef) : (dropWalks s t).mem = s.mem := rfl

/-- A push leaves memory alone: the spill is a store of the wave, still in its queue. -/
theorem pushEntry_mem {s u : State} {t : ThreadRef} {n : Bool} {e : StackEntry} (h : pushEntry s t n e = .ok u) :
    u.mem = s.mem := by
  unfold pushEntry at h
  split at h
  · split at h
    · dsimp only at h
      split at h
      · cases h
      · split at h <;> cases h <;> simp
    · cases h; simp
  · cases h

/-- A split leaves memory alone. -/
theorem splitSlot_mem {s u : State} {t : ThreadRef} {n : Bool} {m : Word} {a b : Word} (h : splitSlot s t n m a b = .ok u) :
    u.mem = s.mem := by
  unfold splitSlot at h
  split at h
  · cases h
  · dsimp only at h
    split at h
    · cases h; simp
    · split at h
      · rename_i hp
        cases h
        simp [pushEntry_mem hp]
      · rename_i hn
        exact absurd h (hn u)

@[simp] theorem walkNow_mem (t : ThreadRef) (part : Nat) (s : State) (x : Nat × Nat) : (walkNow t part s x).mem = s.mem := by
  unfold walkNow
  split
  · rfl
  · split <;> rfl

theorem walkAll_mem (t : ThreadRef) (part : Nat) (xs : List (Nat × Nat)) (s : State) :
    (xs.foldl (walkNow t part) s).mem = s.mem := by
  induction xs generalizing s with
  | nil => rfl
  | cons x rest ih => rw [List.foldl_cons, ih, walkNow_mem]

@[simp] theorem spillWalked_mem (s : State) (t : ThreadRef) : (spillWalked s t).mem = s.mem := by
  unfold spillWalked
  split
  · split
    · exact walkAll_mem ..
    · rfl
  · rfl

@[simp] theorem cancelWalks_mem (s : State) (t : ThreadRef) : (cancelWalks s t).mem = s.mem := rfl

@[simp] theorem parkLanes_mem (s : State) (t : ThreadRef) (n : Bool) (info : TrapInfo) (m next : Word) :
    (parkLanes s t n info m next).mem = s.mem := by
  unfold parkLanes
  split
  · rfl
  · split
    · simp
    · dsimp only
      split
      · simp
      · split
        · rename_i hp
          have := splitSlot_mem hp
          split <;> simpa using this
        · simp

@[simp] theorem raise_mem (c : Ctx) (cause : Cause) (m synd : Word) (va : Nat) (s : State) :
    (c.raise cause m synd va s).mem = s.mem := by simp [Ctx.raise]

@[simp] theorem raiseUnit_mem (c : Ctx) (u : Nat) (m : Word) (s : State) : (c.raiseUnit u m s).mem = s.mem := by
  simp [Ctx.raiseUnit]

@[simp] theorem enterTrap_mem (s : State) (t : ThreadRef) (n : Place) (p : Bool) (info : TrapInfo) : (enterTrap s t n p info).mem = s.mem := by
  unfold enterTrap
  split
  · split
    · simp
    · split <;> simp
  · rfl

@[simp] theorem parkLate_mem (s : State) (t : ThreadRef) (x : LateTrap) : (parkLate s t x).mem = s.mem := by
  unfold parkLate
  split
  · split
    · simp
    · split <;> simp
  · rfl

@[simp] theorem takeDue_mem (s : State) (t : ThreadRef) (d : Due) : (takeDue s t d).mem = s.mem := by
  cases d <;> simp [takeDue]

/-! ### Issue -/

@[simp] theorem begun_mem (c : Ctx) (s : State) : (c.begun s).mem = s.mem := rfl

@[simp] theorem holdAt_mem (c : Ctx) (h : Hold) (s : State) : (c.holdAt h s).mem = s.mem := rfl

@[simp] theorem jump_mem (c : Ctx) (a : Word) (s : State) : (c.jump a s).mem = s.mem := rfl

@[simp] theorem stepOver_mem (c : Ctx) (n : Word) (s : State) : (c.stepOver n s).mem = s.mem := by
  unfold Ctx.stepOver; split <;> simp

@[simp] theorem stepOn_mem (c : Ctx) (s : State) : (c.stepOn s).mem = s.mem := stepOver_mem c 4 s

@[simp] theorem consumed_mem (c : Ctx) (m synd : Word) (va : Nat) (s : State) : (c.consumed m synd va s).mem = s.mem := by
  unfold Ctx.consumed; split <;> simp

@[simp] theorem fire_mem (c : Ctx) (u : Nat) (s : State) : (c.fire u s).mem = s.mem := rfl

/-- A word that issues keeps memory's form where its own work does: the checks, the traps and the waits leave memory alone. -/
theorem issue_kept {i : Instr} {body : Ctx → State → State} {s t : State} (hs : s.MemoryKept)
    (hb : ∀ c u, u.MemoryKept → (body c u).MemoryKept) (h : issue i body s = .next t) : t.MemoryKept := by
  unfold issue runGate at h
  split at h
  · cases h
  · cases h; simpa [State.MemoryKept] using hs
  · cases h; simpa [State.MemoryKept] using hs
  · cases h; simpa [State.MemoryKept] using hs
  · cases h; simpa [State.MemoryKept] using hs
  · cases h; exact hb _ _ hs

/-- The same for a word whose mask stands or falls together. -/
theorem perform_kept {i : Instr} {body : Ctx → State → State} {s t : State} (hs : s.MemoryKept)
    (hb : ∀ c u, u.MemoryKept → (body c u).MemoryKept) (h : perform i body s = .next t) : t.MemoryKept := by
  refine issue_kept hs (fun c u hu => ?_) h
  unfold Ctx.checked
  dsimp only
  split
  · simpa [State.MemoryKept] using hu
  · split
    · simpa [State.MemoryKept] using hu
    · exact hb c u hu

/-- The same for a word that writes lanes from no other lane. -/
theorem performEach_kept {i : Instr} {d : Reg} {body : Ctx → State → State} {s t : State} (hs : s.MemoryKept)
    (hb : ∀ c u, u.MemoryKept → (body c u).MemoryKept) (h : performEach i d body s = .next t) : t.MemoryKept := by
  refine issue_kept hs (fun c u hu => ?_) h
  dsimp only
  split
  · unfold Ctx.checked
    dsimp only
    split
    · simpa [State.MemoryKept] using hu
    · split
      · simpa [State.MemoryKept] using hu
      · exact hb c u hu
  · exact hb c u hu

/-- A step that is not a word keeps memory's form where its effect does. -/
theorem event_kept {due : Bool} {s t u : State} (hu : s.MemoryKept → u.MemoryKept) (hs : s.MemoryKept)
    (h : event due u = .next t) : t.MemoryKept := by
  unfold event at h
  split at h
  · cases h; exact hu hs
  · cases h

end Sys2Proof.Machine
end

