-- ==== Sys2Proof/Tests/Slice0.lean ====
section
/-! SUPPORT. Tests. A word written out from the encodings of R22 to R30 decodes to its instruction, the checks of R26 and R34
refuse a term for each, and every statement's hypotheses are met: `witness_<statement>` lists, for each of its clauses, a state
and operands that meet them together, and for the words the effect as well. The states are small changes of `home`: core 0 holds
one block of partition 0, whose wave 0 (32 lanes at PC 0x2_0000) and CCP thread are at their start. -/

namespace Sys2Proof.Tests

set_option Elab.async false
open Sys2Proof
open Sys2Proof.Machine

/-! ### Small states -/

/-- Wave 0 is about to issue. -/
def home : State := oneWord State.reset 0 (leBytes 8 0x01000000)
/-- The CCP thread is about to issue. -/
def homeCcp : State := oneWord State.reset 32 (leBytes 8 0x01000000)
/-- Wave 0 of `home`. -/
def wave : ThreadRef := ⟨0, 0, 0⟩
/-- The CCP thread of `home`. -/
def ccp : ThreadRef := ⟨0, 0, 32⟩

/-- Change wave 0. -/
def onWave (s : State) (f : Thread → Thread) : State := s.modThread wave f
/-- Change slot 0 of the thread that issues. -/
def onSlot (s : State) (f : Slot → Slot) : State := s.modSlot s.who false f
/-- Change the block. -/
def onBlock (s : State) (f : Block → Block) : State := s.modBlock 0 0 f
/-- Set MODE of the thread that issues. -/
def mode (s : State) (m : Half) : State := onSlot s fun x => { x with mode := m }
/-- Set scalars of the thread that issues. -/
def scalars (s : State) (xs : List (Nat × Word)) : State := onSlot s fun x => { x with sregs := xs }
/-- Set v0, v1, … of wave 0, the lane number added to each. -/
def vectors (s : State) (xs : List Nat) : State :=
  onWave s fun th => { th with
    vregs := flatten ((xs.zip (List.range xs.length)).map fun x =>
      ((List.range 32).map fun l => (x.2 * 32 + l, BitVec.ofNat 32 (x.1 + l))).filter fun e => e.2 ≠ 0) }
/-- Set the LFLAGS of the launch. -/
def lflags (s : State) (n : Nat) : State :=
  s.modLaunch 0 fun l => { l with desc := l.desc.take 70 ++ leBytes 2 n ++ l.desc.drop 72 }
/-- No value gets a lineage: LFLAGS.NOLIN (R63). -/
def nolin (s : State) : State := lflags s 2
/-- A handler's record of the paths that it suspended. -/
def savedTrap (s : State) (info : TrapInfo) (parked : Option Place) (supervisor : Bool) : Saved :=
  { paths := ((s.threadAt wave).getD (freshThread false 0 0 192 0 0)).paths, parked := parked, info := info,
    supervisor := supervisor, t6 := freshTReg, t7 := freshTReg, exited := 0 }
/-- A trap of a cause, at the entry, for all 32 lanes. -/
def trapOf (cause : Cause) : TrapInfo := { cause := cause, lanes := 0xFFFFFFFF, pc := 0x20000, seq := 0 }
/-- Wave 0 runs a handler. -/
def handling (s : State) (cause : Cause) (parked : Option Place) (supervisor : Bool) : State :=
  onWave s fun th => { th with saved := savedTrap s (trapOf cause) parked supervisor :: th.saved }
/-- A supervisor handler of an illegal word. -/
def supervisor (s : State) : State := handling s .illegal (some (.slot false)) true

/-! ### Checking a statement's hypotheses and its conclusion -/

/-- The word runs from an agent of which `p` holds. -/
def runs (i : Instr) (s : State) (p : Ctx → Bool) : Bool :=
  match gate i s with
  | .go c => (unitOf i c.ty = 0 || !c.thread.armed (unitOf i c.ty)) && c.sourcePoison i = 0 && p c
  | _ => false

/-- Nothing has changed but one thread, and issue numbers. -/
def onlyThread (r : ThreadRef) (s t : State) : Bool :=
  match s.threadAt r with
  | some th => { t with seq := s.seq }.modThread r (fun _ => th) = s
  | none => false

/-- The word runs and completes, `q` holds of the state and the thread it leaves, and `keeps` of the states before and after. -/
def leads (i : Instr) (s : State) (keeps : ThreadRef → State → State → Bool) (p : Ctx → Bool)
    (q : Ctx → State → Thread → Bool) : Bool :=
  runs i s fun c => p c &&
    match exec i s with
    | .next t =>
      match t.threadAt c.ref with
      | some th => keeps c.ref s t && q c t th
      | none => false
    | _ => false

/-- The word runs and leaves its thread so, and nothing else changed. -/
def leaves (i : Instr) (s : State) (p : Ctx → Bool) (q : Ctx → Thread) : Bool :=
  leads i s onlyThread p fun c _ th => th = q c

/-- The word after it lies below the end of the window. -/
def below (i : Instr) (c : Ctx) : Bool := c.cur.pc.toNat + (wordLength i).toNat < 2 ^ 32

/-- The word runs below the end of the window, and writes one register word of one lane. -/
def writes (i : Instr) (s : State) (r : Reg) (lane : Nat) (x : Nat) : Bool :=
  leads i s onlyThread (fun c => below i c) fun c t _ => t.register c.ref c.slot r lane = some x

/-- The word runs below the end of the window and goes on, having changed its thread alone. -/
def goesOn (i : Instr) (s : State) (p : Ctx → Bool) : Bool :=
  leads i s onlyThread (fun c => below i c && p c) fun c _ th => (th.paths.slot c.slot).pc = c.cur.pc + wordLength i

/-- The word runs and stays at its place, held so. -/
def waits (i : Instr) (s : State) (h : Hold) (p : Ctx → Bool) : Bool :=
  leaves i s (fun c => below i c && p c) fun c => c.heldAt h

/-- A wave's word runs and parks its whole slot with a cause, SYND and address. -/
def traps (i : Instr) (s : State) (cause : Cause) (synd va : Nat) (p : Ctx → Bool) : Bool :=
  leads i s (fun r s t => onlyThread r (cancelWalks s r) t) (fun c => c.thread.ccp = false && c.eff = c.cur.mask && p c)
    fun c _ th => th = c.parkedWhole
    { cause := cause, lanes := c.cur.mask, synd := BitVec.ofNat 32 synd, unit := 0, tile := 0, va := va, pc := c.cur.pc,
      seq := c.seq }

/-- The step completes and `q` holds of the state it leaves. -/
def takes (i : Instr) (s : State) (q : State → Bool) : Bool :=
  match exec i s with
  | .next t => q t
  | _ => false

/-- The state after a word. -/
def after (i : Instr) (s : State) : State := match exec i s with | .next t => t | _ => s

/-- The machine steps and `q` holds of the state it then has. -/
def steps (s : State) (q : State → Bool) : Bool :=
  match step s with
  | .next t => q t
  | _ => false

/-- The thread is there and `q` holds of it. -/
def thread (s : State) (r : ThreadRef) (q : Thread → Bool) : Bool := (s.threadAt r).any q

/-- The block is there and `q` holds of it. -/
def block (s : State) (q : Block → Bool) : Bool := (s.blockAt 0 0).any q

/-- Each check holds. -/
def allOf (xs : List Bool) : Bool := xs.all id

/-- The word is rejected: its slot parks with the cause (R34). -/
def leadsTrap (i : Instr) (s : State) (cause : Cause) : Bool :=
  s.issuer.any fun c => !c.thread.ccp &&
    (match wordOpcode i with | some op => decodeTrap c (s.partAt c.part).testen i op = some cause | none => true) &&
    takes i s fun t => onlyThread c.ref (cancelWalks s c.ref) t && t.threadAt c.ref = some (c.parkedWhole
    { cause := cause, lanes := c.cur.mask, synd := 0, unit := 0, tile := 0, va := 0, pc := c.cur.pc, seq := c.seq })

/-- Any agent. -/
def any : Ctx → Bool := fun _ => true

/-- What `runs` finds is an agent of the statements. -/
theorem runs_agent (i : Instr) (s : State) (p : Ctx → Bool) (h : runs i s p = true) : ∃ c, Runs i s c ∧ p c = true := by
  unfold runs at h
  split at h
  · rename_i c hc
    simp only [Bool.and_eq_true, Bool.or_eq_true, decide_eq_true_eq, Bool.not_eq_eq_eq_not, Bool.not_true] at h
    exact ⟨c, ⟨hc, fun hu => h.1.1.resolve_left hu, h.1.2⟩, h.2⟩
  · cases h

/-! ### Decoding

Each word is one of the specification's own examples, or is written out from the opcode map of R30 and the formats of R22. -/

/-- The word is the instruction's. -/
def is (w : Nat) (i : Instr) : Bool := decodeTableWord 32 w = some i

/-- The words of R22, R30, R150, R158. -/
theorem decode_control : allOf [
    is 0x01000000 .nop, is 0x02000003 (.bra 3), is 0x035FFFFD (.brp 2 true 0xFFFFD), is 0x04000007 (.joinat 7),
    is 0x05000010 (.call 0x10), is 0x0600C400 (.callx (.s 4)), is 0x07000000 .ret, is 0x08000000 .exit,
    is 0x09C3FFFC (.loop (.s 3) 0xFFFC), is 0x0A00CA00 (.brx (.s 10)), is 0x0B000000 .yield, is 0x0C0000C8 (.sleep 200),
    is 0x0D000005 (.bkpt 5), is 0x0E00002A (.trap 0x2A)] = true := by
  decide +kernel

/-- The words of R79. -/
theorem decode_integer : allOf [
    is 0x10040203 (.iadd (.v 4) (.v 2) (.v 3)), is 0x1104C203 (.isub (.v 4) (.s 2) (.v 3)),
    is 0x1207E102 (.imul (.v 7) (.sp .lane) (.v 2)), is 0x13C1C2C3 (.imulh (.s 1) (.s 2) (.s 3)),
    is 0x140702C1 (.imad (.v 7) (.v 2) (.s 1)), is 0x15BFBFBE (.imin (.v 191) (.v 191) (.v 190)),
    is 0x16DFC0E7 (.imax (.s 31) (.s 0) (.sp .one)), is 0x17020900 (.iabs (.v 2) (.v 9)), is 0x18020900 (.ineg (.v 2) (.v 9)),
    is 0x19C50010 (.iaddi (.s 5) 0x10), is 0x1AC389AB (.movi (.s 3) 0x89AB), is 0x1BC31234 (.movhi (.s 3) 0x1234)] = true := by
  decide +kernel

/-- The words of R84. -/
theorem decode_logic : allOf [
    is 0x20010203 (.and (.v 1) (.v 2) (.v 3)), is 0x21C1C2C3 (.or (.s 1) (.s 2) (.s 3)),
    is 0x220102E0 (.xor (.v 1) (.v 2) (.sp .zero)), is 0x23080400 (.not (.v 8) (.v 4)),
    is 0x2403E102 (.shl (.v 3) (.sp .lane) (.v 2)), is 0x2503E202 (.shr (.v 3) (.sp .wave) (.v 2)),
    is 0x2603E302 (.sar (.v 3) (.sp .blkx) (.v 2)), is 0x2703E402 (.rol (.v 3) (.sp .blky) (.v 2)),
    is 0x2803E500 (.popc (.v 3) (.sp .blkz)), is 0x2903E600 (.clz (.v 3) (.sp .glid)), is 0x2A050600 (.brev (.v 5) (.v 6)),
    is 0x2B0506C0 (.bfe (.v 5) (.v 6) (.s 0)), is 0x2C0506C0 (.bfi (.v 5) (.v 6) (.s 0)),
    is 0x2D010203 (.prmt (.v 1) (.v 2) (.v 3))] = true := by
  decide +kernel

/-- The words of R22, R100. -/
theorem decode_float : allOf [
    is 0x30040203 (.fadd (.v 4) (.v 2) (.v 3)), is 0x31040203 (.fsub (.v 4) (.v 2) (.v 3)),
    is 0x32040203 (.fmul (.v 4) (.v 2) (.v 3)), is 0x33060203 (.fma (.v 6) (.v 2) (.v 3)),
    is 0x34C2C3E0 (.fmin (.s 2) (.s 3) (.sp .zero)), is 0x35C2C3E0 (.fmax (.s 2) (.s 3) (.sp .zero)),
    is 0x36080700 (.fabs (.v 8) (.v 7)), is 0x37080700 (.fneg (.v 8) (.v 7)), is 0x38080700 (.rcp (.v 8) (.v 7)),
    is 0x39080700 (.rsq (.v 8) (.v 7)), is 0x3A080700 (.sqrt (.v 8) (.v 7)), is 0x3B090800 (.ex2 (.v 9) (.v 8)),
    is 0x3C090800 (.lg2 (.v 9) (.v 8)), is 0x3D090800 (.sin (.v 9) (.v 8)), is 0x3E090800 (.cos (.v 9) (.v 8)),
    is 0x3F090800 (.frnd (.v 9) (.v 8))] = true := by
  decide +kernel

/-- The words of R106 to R118. -/
theorem decode_convert : allOf [
    is 0x40050605 (.cvt (.v 5) (.v 6) 5), is 0x41130405 (.cmp 2 3 (.v 4) (.v 5)), is 0x42050607 (.sel (.v 5) (.v 6) (.v 7)),
    is 0x43050607 (.pk2 (.v 5) (.v 6) (.v 7)), is 0x44050608 (.pk4 (.v 5) (.v 6) (.v 8)),
    is 0x45030A02 (.upk (.v 3) (.v 10) 2), is 0x460B0CE0 (.bscl (.v 11) (.v 12) (.sp .zero)),
    is 0x500102C3 (.shfl (.v 1) (.v 2) (.s 3)), is 0x510102C3 (.shflu (.v 1) (.v 2) (.s 3)),
    is 0x520102C3 (.shfld (.v 1) (.v 2) (.s 3)), is 0x530102C3 (.shflx (.v 1) (.v 2) (.s 3)),
    is 0x54C402C5 (.rdlane (.s 4) (.v 2) (.s 5)), is 0x5504C2C5 (.wrlane (.v 4) (.s 2) (.s 5)),
    is 0x56C20302 (.vote (.s 2) 3 2), is 0x57C60700 (.redadd (.s 6) (.v 7)), is 0x58C60700 (.redmin (.s 6) (.v 7)),
    is 0x59C60700 (.redmax (.s 6) (.v 7)), is 0x5A080704 (.scan (.v 8) (.v 7) true 0),
    is 0x5B02C901 (.pmovToPredicate 2 (.s 9)), is 0x5BC10400 (.pmovToScalar (.s 1) 4)] = true := by
  decide +kernel

/-- The words of R90 to R97, R74, R75, R169, R300, R303, R320. -/
theorem decode_state : allOf [
    is 0x60090400 (.mov (.v 9) (.v 4)), is 0x62050003 (.ldk (.v 5) 3), is 0x630004D0 (.mode 0x04D0),
    is 0x6400C400 (.setf (.s 4)), is 0x65C20002 (.mfs (.s 2) 2), is 0x66C7001D (.mts (.s 7) 0x1D),
    is 0x67C60400 (.tagof (.s 6) (.v 4)), is 0x68030000 (.vsdrop (.v 3)), is 0x6901C0C2 (.xlat 1 (.s 0) (.s 2)),
    is 0x6AC4C500 (.graise (.s 4) (.s 5)), is 0x6B000003 (.phase 3), is 0x6CC0C100 (.gear (.s 0) (.s 1)), is 0x6D000000 .rgn,
    is 0x6E000000 .rgnend] = true := by
  decide +kernel

/-- The words of R162, R183. -/
theorem decode_memory : allOf [
    is 0x70070528 (.ldg (.v 7) (.v 5) 1 2 0), is 0x71C3C428 (.stg (.s 3) (.s 4) 1 2 0),
    is 0x720A016A (.ldgk (.v 10) (.v 1) 3 2 2), is 0x7302090C (.lds (.v 2) (.v 9) 3), is 0x7402090C (.sts (.v 2) (.v 9) 3),
    is 0x75070328 (.ldb (.v 7) (.v 3) 1 2), is 0x76020328 (.stb (.v 2) (.v 3) 1 2), is 0x77000521 (.prf (.v 5) 1 1),
    is 0x78060141 (.atomg (.v 6) (.v 1) 2 0 1), is 0x79060145 (.atomg64 (.v 6) (.v 1) 2 1 1),
    is 0x7A08010A (.casg (.v 8) (.v 1) 0 2), is 0x7B030408 (.atoms (.v 3) (.v 4) 2), is 0x7C020408 (.cass (.v 2) (.v 4))] = true := by
  decide +kernel

/-- The words of R189, R207. -/
theorem decode_sync : allOf [
    is 0x80226000 (.fence 2 2 3), is 0x80116000 (.fence 1 1 3), is 0x80210000 (.fence 2 1 0), is 0x80282000 (.fence 2 8 1),
    is 0x80778000 (.fence 7 7 4), is 0x81000003 (.bar 3), is 0x82C40000 (.arrive (.s 4) 0), is 0x8300C400 (.waitb 0 (.s 4)),
    is 0x84C5C400 (.testb (.s 5) (.s 4) 0), is 0x8502C000 (.waitc 2 (.s 0)), is 0x8600C200 (.gang (.s 2)),
    is 0x87C40002 (.rawait (.s 4) 2), is 0x88000002 (.rrel 2), is 0x8900C601 (.rpost (.s 6) 1), is 0x8A02C800 (.rinit 2 (.s 8))] = true := by
  decide +kernel

/-- The words of R130, R240. -/
theorem decode_matrix : allOf [
    is 0x9000C800 (.mma (.s 8)), is 0x9100CC00 (.mmaz (.s 12)), is 0x9200C800 (.mmas (.s 8)), is 0x9300D000 (.epi (.s 16)),
    is 0x9400C400 (.rowsum (.s 4)), is 0x9500C400 (.cmpr (.s 4)), is 0x9600C200 (.cbld (.s 2)), is 0x9700C800 (.qacc (.s 8)),
    is 0x9800C800 (.clrt (.s 8)), is 0x9900C600 (.mtrn (.s 6)), is 0xA000C801 (.ldef (.s 8) 1),
    is 0xA100D300 (.lpush (.s 19) 0), is 0xA200D301 (.lread (.s 19) 1), is 0xA3C6C802 (.lrung (.s 6) (.s 8) 2),
    is 0xA400C802 (.lsetr (.s 8) 2), is 0xA5C70000 (.lstep (.s 7) 0), is 0xA600C700 (.lstepw (.s 7) 0), is 0xA7000003 (.lclr 3)] = true := by
  decide +kernel

/-- The words of R223, R231. -/
theorem decode_copy : allOf [
    is 0xB0D4C802 (.cpy (.s 20) (.s 8) ⟨false, false, false, 0, true, false⟩),
    is 0xB1D4C88F (.cpy2 (.s 20) (.s 8) ⟨true, false, false, 3, true, true⟩),
    is 0xB2D4C872 (.cpyx (.s 20) (.s 8) ⟨false, true, true, 4, true, false⟩),
    is 0xB3D4C884 (.cpym (.s 20) (.s 8) ⟨true, false, false, 1, false, false⟩),
    is 0xB4D4C800 (.cpye (.s 20) (.s 8) ⟨false, false, false, 0, false, false⟩),
    is 0xB5D4C801 (.cpyg (.s 20) (.s 8) ⟨false, false, false, 0, false, true⟩),
    is 0xB6D4C810 (.redx (.s 20) (.s 8) ⟨false, false, false, 4, false, false⟩), is 0xB7D5CC00 (.cwait (.s 21) (.s 12)),
    is 0xB8D6CC00 (.cstat (.s 22) (.s 12)), is 0xB900CC00 (.ccan (.s 12)), is 0xBA00C300 (.rfill (.s 3))] = true := by
  decide +kernel

/-- The words of R270, R360. -/
theorem decode_system : allOf [
    is 0xC0000000 .rft, is 0xC1C80000 (.fltq (.s 8)), is 0xC2C4C800 (.mapft (.s 4) (.s 8)), is 0xC3000000 .replay,
    is 0xC400C500 (.cancel (.s 5)), is 0xC500C200 (.haltb (.s 2)), is 0xC6000000 .drain, is 0xC700C4C6 (.tlbinv (.s 4) (.s 6)),
    is 0xC8C30105 (.mfsv (.s 3) 0x105), is 0xC9C30103 (.mtsv (.s 3) 0x103), is 0xCA00C600 (.errinj (.s 6)),
    is 0xCB000000 .vsflush, is 0xCC00C200 (.resumeb (.s 2))] = true := by
  decide +kernel

/-- The bytes decode to the instruction, and leave the rest. -/
def reads (bytes : List Byte) (i : Instr) (rest : List Byte) : Bool :=
  match decode bytes with
  | .ok x => x = (i, rest)
  | .error _ => false
/-- The bytes are no instruction, for this reason. -/
def refuses (bytes : List Byte) (e : DecodeError) : Bool :=
  match decode bytes with
  | .ok _ => false
  | .error x => x = e

/-- LIW and its literal (R91), the byte of bits [7:0] first; and the statements' hypotheses on words. -/
theorem witness_DecodeEncode_EncodeDecode : allOf [
    reads [0x00, 0x00, 0x07, 0x61, 0x00, 0x00, 0x10, 0x40] (.liw (.v 7) 0x40100000) [],
    (Instr.liw (.v 7) 0x40100000).isWord && (Instr.brp 2 true 0xFFFFD).isWord,
    reads (encode (.brp 2 true 0xFFFFD) ++ [7]) (.brp 2 true 0xFFFFD) [7]] = true := by
  decide +kernel

/-- What is no word: too few bytes, no opcode, an MBZ field that is not 0, a reserved operand code, a W code (R21, R24, R30). -/
theorem decode_refuses : allOf [
    refuses [0, 0, 1] .truncated, refuses [0, 0, 7, 0x61, 0, 0, 0] .truncated,
    refuses [0, 0, 0, 0] .opcode, refuses [0, 0, 0, 0x0F] .opcode,
    refuses [0, 0, 0, 0xFF] .opcode, refuses [1, 0, 0, 0x01] .mbz,
    refuses [1, 2, 8, 0x23] .mbz, refuses [0x00, 0xE8, 0x04, 0x60] .operandCode,
    refuses [0x06, 0x01, 0x08, 0x7A] .field] = true := by
  decide +kernel

/-- A term for each check that the word alone decides (R26, R30, R223). -/
theorem illFormed : allOf ((([
    -- the kinds of operand: a scalar, a scalar or %zero or %one, a vector, a uniform source
    .callx (.v 4), .gang (.sp .wave), .shfl (.s 1) (.v 2) (.s 3), .rdlane (.s 4) (.v 2) (.v 5), .mts (.v 7) 0x1D,
    -- a special as a destination; an odd code of a pair; a quad out of line; a run past s31
    .movi (.sp .lane) 1, .pk4 (.v 5) (.v 7) (.v 8), .lds (.v 3) (.v 9) 3, .lds (.v 2) (.v 9) 4, .mma (.s 29),
    .xlat 1 (.s 1) (.s 2), .cpy (.s 20) (.s 27) ⟨false, false, false, 0, false, false⟩,
    -- a scalar destination of a source that is not uniform
    .iadd (.s 1) (.v 2) (.s 3), .iadd (.s 1) (.sp .lane) (.s 3), .ldg (.s 1) (.v 5) 1 2 0,
    -- reserved codes
    .cvt (.v 1) (.v 2) 15, .cmp 8 1 (.v 2) (.v 3), .vote (.s 2) 3 3, .scan (.v 8) (.v 7) false 3, .mode 0xF0, .mode 0x1000,
    .mfs (.s 2) 0x1E, .mts (.s 2) 0x100, .mfsv (.s 2) 0x10A, .mtsv (.s 2) 0xFF, .ldg (.v 7) (.v 5) 1 5 0,
    .ldb (.v 7) (.v 3) 2 2, .atomg (.v 6) (.v 1) 2 0 3, .atomg64 (.v 6) (.v 1) 2 7 1, .casg (.v 8) (.v 1) 0 3,
    .fence 0 1 0, .fence 1 0 0, .fence 1 1 5, .waitc 6 (.s 0),
    -- FLAGS
    .cpy (.s 20) (.s 8) ⟨false, false, false, 5, false, false⟩, .cpy (.s 20) (.s 8) ⟨false, true, false, 0, false, false⟩,
    .cpyg (.s 20) (.s 8) ⟨true, false, false, 0, false, false⟩, .cpym (.s 20) (.s 8) ⟨false, false, false, 1, false, false⟩,
    .cpym (.s 20) (.s 8) ⟨true, false, false, 0, false, false⟩, .redx (.s 20) (.s 8) ⟨false, false, false, 3, false, false⟩,
    .redx (.s 20) (.s 8) ⟨false, false, true, 4, false, false⟩] : List Instr).map fun i => !i.wellFormed) ++ [
    -- and their neighbours, which are well formed
    (Instr.gang (.sp .one)).wellFormed, (Instr.mma (.s 28)).wellFormed, (Instr.lds (.v 4) (.v 9) 4).wellFormed,
    (Instr.rdlane (.s 4) (.v 2) (.s 5)).wellFormed, (Instr.iadd (.s 1) (.sp .wave) (.s 3)).wellFormed,
    (Instr.cpym (.s 20) (.s 8) ⟨true, false, false, 1, false, false⟩).wellFormed]) = true := by
  decide +kernel

/-- The checks that read MODE.T and the allocation (R26, R30): a type, a pair and its second half. -/
theorem operandsFit_refuses : allOf [
    !operandsFit (.fadd (.v 4) (.v 2) (.v 3)) 0 16 && operandsFit (.fadd (.v 4) (.v 2) (.v 3)) 0x40 16,
    !operandsFit (.iadd (.v 3) (.v 2) (.v 4)) 0x20 16 && operandsFit (.iadd (.v 6) (.v 2) (.v 4)) 0x20 16,
    !operandsFit (.mov (.v 16) (.v 2)) 0 16 && operandsFit (.mov (.v 15) (.v 2)) 0 16,
    !operandsFit (.mov (.v 1) (.v 2)) 0xF0 16 && operandsFit (.mode 0) 0xF0 16] = true := by
  decide +kernel

/-! ### Reset, traps and their entry -/

theorem witness_StepRunsWord : allOf [
    -- NOP at home: a word of four bytes, with nothing due before it
    home.agenda.isEmpty, Machine.runs home, (promptStep home).isNone, slotReady home home.who false,
    (fetchFour home 0 0x20000).toOption = some [0, 0, 0, 1],
    steps home fun t => thread t wave fun th => th.paths.slot0.pc = 0x20004,
    -- LIW: eight bytes
    steps (oneWord State.reset 0 [0, 0, 0xC0, 0x61, 1, 2, 3, 4]) fun t => thread t wave fun th =>
      findD th.paths.slot0.sregs 0 0 = 0x04030201 && th.paths.slot0.pc = 0x20008,
    -- bytes that decode to nothing
    steps (oneWord State.reset 0 [0, 0, 0, 0, 0, 0, 0, 0]) fun t => thread t wave fun th =>
      (th.paths.slot0.park.map (·.cause)) = some .illegal && th.paths.slot0.pc = 0x20000] = true := by
  decide +kernel

theorem witness_PlacedWordIsFetched : allOf [
    decodeTableWord 32 0x01000000 = some .nop, decodeTableWord 64 0x1122334461C00000 = some (.liw (.s 0) 0x11223344)] = true := by
  decide +kernel

theorem witness_MemoryStaysCanonical : allOf [
    Memory.wf home.mem, steps home fun t => Memory.wf t.mem && !t.mem.isEmpty] = true := by
  decide +kernel

theorem witness_IllegalWordsTrap : allOf [
    -- NOP with a bit that must be 0 has no constructor, so the illegal words are a reserved SCAN operation, a special as D,
    -- an odd pair and a predicate kind out of range; and words without the privilege
    leadsTrap (.scan (.v 0) (.v 1) false 3) home .illegal,
    leadsTrap (.iadd (.sp .lane) (.v 1) (.v 2)) (mode home 0) .illegal,
    leadsTrap (.iadd (.v 1) (.v 2) (.v 4)) (mode home 0x0020) .illegal,
    leadsTrap (.vote (.s 0) 1 3) home .illegal,
    leadsTrap .replay home .privileged,
    leadsTrap (.cpy (.s 0) (.s 6) ⟨false, false, false, 0, false, false⟩) home .privileged] = true := by
  decide +kernel

theorem witness_CcpTrapAborts : allOf [
    (homeCcp.issuer.any fun c => decodeTrap c 0 (.scan (.s 0) (.s 1) false 3) 0x5B = some .illegal && c.thread.ccp &&
      c.ref.thread = ccpThread && !c.block.aborted),
    takes (.scan (.s 0) (.s 1) false 3) homeCcp fun t => block t (·.aborted) && thread t ccp fun th =>
      th.stopped && th.exc.exc = 0x00 + BitVec.ofNat 32 (causeCode .illegal) && th.trappc = 0x20000] = true := by
  decide +kernel

theorem witness_PrivilegedWords : allOf [
    home.issuer.any fun c => isListedOpcode 0 = false && decodeTrap c 0 .nop 0 = some .illegal,
    home.issuer.any fun c => isListedOpcode 0xB0 && decodeTrap c 0 (.ccan (.s 0)) 0xBA = some .privileged,
    home.issuer.any fun c => c.thread.supervisor = false && decodeTrap c 0 .drain 0xC0 = some .privileged &&
      decodeTrap c 0 .rft 0xC0 = some .privileged,
    (handling home .address (some (.slot false)) false).issuer.any fun c => c.thread.depth = 1 && decodeTrap c 0 .rft 0xC0 = none,
    homeCcp.issuer.any fun c => c.thread.ccp && decodeTrap c 0 .rft 0xC0 = some .privileged &&
      decodeTrap c 16 (.errinj (.s 0)) 0xCA = none,
    (supervisor home).issuer.any fun c => c.thread.supervisor && decodeTrap c 0 .replay 0xC2 = none] = true := by
  decide +kernel

theorem witness_EmptyMaskPasses : allOf [
    -- the guard p1 selects no lane
    match gate (.iadd (.v 0) (.v 1) (.v 2)) (mode home 0x0001) with
    | .empty c => below (.iadd (.v 0) (.v 1) (.v 2)) c && takes (.iadd (.v 0) (.v 1) (.v 2)) (mode home 0x0001) fun t =>
        onlyThread c.ref (mode home 0x0001) t && t.threadAt c.ref = some (c.passed .nop)
    | _ => false,
    -- LIW passes its literal too
    match gate (.liw (.v 0) 7) (mode home 0x0001) with
    | .empty c => below (.liw (.v 0) 7) c && (c.passed (.liw (.v 0) 7)).paths.slot0.pc = 0x20008
    | _ => false] = true := by
  decide +kernel

/-- Wave 0 stands at the last word of the window. -/
def atEnd : State := onSlot home fun x => { x with pc := 0xFFFFFFFC }

theorem witness_EndOfWindowFaults : allOf [
    traps .nop atEnd .address 0 0xFFFFFFFC fun c => c.cur.pc = 0xFFFFFFFC,
    leaves (.bra 0) atEnd (fun c => c.cur.pc = 0xFFFFFFFC) fun c => c.after fun x => { x with pc := 0 }] = true := by
  decide +kernel

theorem witness_TrapWords : allOf [
    traps (.trap 0xFFFF) home .trap 0xFFFF 0 any,
    traps (.bkpt 7) home .breakpoint 7 0 fun _ => !(home.partAt 0).armed,
    leadsTrap (.illegalInstruction 0xC0000001) (supervisor home) .illegal,
    leadsTrap (.illegalInstruction 0xFFFFFFFF) home .illegal,
    -- half of the lanes: p1 holds lanes 0 to 15, and the slot splits
    leads (.trap 5) (onWave (mode home 0x0041) fun th => { th with preds := [(1, 0xFFFF)] }) onlyThread
      (fun c => c.eff = 0xFFFF && below (.trap 5) c && c.thread.paths.frame.isNone)
      fun c _ th => th.paths.slot0.mask = 0xFFFF0000 && th.paths.slot1.mask = 0xFFFF && th.paths.slot1.pc = c.cur.pc &&
        (th.paths.slot1.park.map (·.lanes)) = some 0xFFFF] = true := by
  decide +kernel

theorem witness_BreakpointHalts : allOf [
    leads (.bkpt 7) (home.modPart 0 fun p => { p with armed := true }) (fun _ _ _ => true) any
      fun _ t _ => block t (·.halted)] = true := by
  decide +kernel

/-- Wave 0's slot 0 is parked. -/
def parkedAt (s : State) (info : TrapInfo) : State := onSlot s fun x => { x with park := some info }
/-- The partition's handlers are at 0x3_0000. -/
def handlers (s : State) : State := s.modPart 0 fun p => { p with trapbase := 0x30000 }
/-- A load of lane 0 that faulted on the page at 0x5_0000, with its record already queued. -/
def logged : LogEntry where
  number := 0
  seq := 0
  pc := 0x20000
  word := .ldg (.v 4) (.v 8) 0 2 0
  kind := .load
  mode := 0x0040
  slot := false
  depth := 0
  base := 0
  lanes := [{ lane := 0, offset := 0x50000, vas := [(0x50000, 16)], bytes := [], poison := false }]
  shared := 0
  queued := [(5, 16)]
/-- The log of wave 0. -/
def withLog (s : State) (es : List LogEntry) : State := onWave s fun th => { th with log := es }

theorem witness_TrapEntrySaves : allOf [
    -- a precise trap, at depth 0 and at depth 1
    let s := parkedAt (handlers home) (trapOf .illegal)
    dueOf s wave = some (.precise (.slot false) (trapOf .illegal)) && thread s wave (fun th => decide (th.depth < 2) &&
      vectorOf (s.partAt 0) th .illegal = some (0x30000, true)) &&
      takes (.trapEntry wave) s fun t => thread t wave fun th => th.paths.slot0.pc = 0x30000 && th.depth = 1 &&
        th.exc.exc = 0x01 && th.trappc = 0x20000,
    let s := parkedAt (handling (handlers home) .illegal (some (.slot false)) true) (trapOf .format)
    takes (.trapEntry wave) s fun t => thread t wave fun th => th.paths.slot0.pc = 0x30400 && th.depth = 2 &&
      th.strappc = 0x20000,
    -- a page fault
    let s := withLog (handlers home) [logged]
    dueOf s wave = some (.page logged) && thread s wave (fun th =>
        vectorOf (s.partAt 0) th (pageInfo logged).cause = some (0x30000, true)) &&
      takes (.trapEntry wave) s fun t => thread t wave fun th => th.exc.exc = 0x04 && th.exc.faultva = 0x50000] = true := by
  decide +kernel

theorem witness_HandlerVector : allOf [
    let th := freshThread false 0 0 192 0 0
    th.depth = 0 && userCause .trap && vectorOf (handlers home |>.partAt 0) { th with utrapbase := 0x40 } .trap = some (0x40, false),
    let th := freshThread false 0 0 192 0 0
    vectorOf (handlers home |>.partAt 0) { th with utrapbase := 0x40 } .page = some (0x30000, true) &&
      vectorOf (home.partAt 0) th .trap = none,
    thread (handling (handlers home) .page none true) wave fun th => th.depth = 1 &&
      vectorOf (handlers home |>.partAt 0) th .trap = some (0x30400, true)] = true := by
  decide +kernel

theorem witness_NestedTrapAborts : allOf [
    -- no handler is set
    let s := parkedAt home (trapOf .trap)
    dueOf s wave = some (.precise (.slot false) (trapOf .trap)) && thread s wave (fun th => vectorOf (s.partAt 0) th .trap = none) &&
      takes (.trapEntry wave) s fun t => block t fun b => b.aborted && b.threads.all (·.2.ended),
    -- and in a deterministic launch
    let s := lflags (parkedAt home (trapOf .trap)) 1
    dueOf s wave = some (.precise (.slot false) (trapOf .trap)) && takes (.trapEntry wave) s fun t =>
      t.host.sent.isEmpty && block t fun b => b.report = some (0x0F, 0, 0x20000),
    -- depth 2
    let s := parkedAt (handling (handling (handlers home) .trap (some (.slot false)) true) .trap (some (.slot false)) true) (trapOf .trap)
    dueOf s wave = some (.precise (.slot false) (trapOf .trap)) && thread s wave (fun th => th.depth = 2) &&
      takes (.trapEntry wave) s fun t => block t (·.aborted)] = true := by
  decide +kernel

theorem witness_RftReturns : allOf [
    -- from depth 1 of a user handler: the trap is a TRAP, whose return is to the word after it
    leads .rft (onWave (handling home .trap (some (.slot false)) false) fun th => { th with trappc := 0x20040 }) onlyThread
      (fun c => c.thread.depth = 1 && (c.thread.saved.any fun sv => sv.parked = some (.slot false) && sv.paths.slot0.mask ≠ 0))
      fun _ _ th => th.depth = 0 && th.paths.slot0.pc = 0x20044,
    -- from depth 2
    leads .rft (onWave (handling (supervisor home) .illegal (some (.slot false)) true) fun th => { th with strappc := 0x20080 })
      onlyThread (fun c => c.thread.depth = 2) fun _ _ th => th.depth = 1 && th.paths.slot0.pc = 0x20080] = true := by
  decide +kernel

theorem witness_PageFaultReturns : allOf [
    leads .rft (withLog (handling home .page none true) [logged]) onlyThread
      (fun c => c.thread.saved.any fun sv => sv.parked = none && sv.paths.slot0.mask ≠ 0)
      fun _ _ th => th.depth = 0 && th.log = [logged]] = true := by
  decide +kernel

/-! ### Results -/

/-- Only lane 0 is active: no result has a lineage (R63). -/
def lane0 (s : State) : State := onSlot s fun x => { x with mask := 1 }
/-- Five active lanes of i32: v0 is 100 + lane, v1 is 7 + lane, v2 is 3 + lane, v3 is −16 + lane; s1 is 3, s2 is 0x3210, s3 is 0x0301. -/
def ints : State :=
  onSlot (scalars (mode (nolin (vectors home [100, 7, 3, 0xFFFFFFF0])) 0x0000) [(1, 3), (2, 0x3210), (3, 0x0301)]) fun x =>
    { x with mask := 0x1F }
/-- f32 lane 0: v0 is 2, v1 is 1, v2 is 3, v3 is 4. -/
def floats : State := lane0 (vectors home [0x40000000, 0x3F800000, 0x40400000, 0x40800000])

/-- The word has a result that runs privately, and one word of it in a lane is as computed by hand. -/
def privately (i : Instr) (s : State) (r : Reg) (lane x : Nat) : Bool :=
  computes i && (runs i s fun c => !hasLineage i c && (resultsOf i (c.args i (c.outs i))).isSome) && writes i s r lane x

theorem witness_PrivateResult_IntegerWords : allOf [
    privately (.iadd (.v 4) (.v 0) (.v 1)) ints (.v 4) 2 111,
    privately (.isub (.v 4) (.v 1) (.v 0)) ints (.v 4) 2 0xFFFFFFA3,
    privately (.imul (.v 4) (.v 0) (.v 1)) ints (.v 4) 2 918,
    privately (.imulh (.v 4) (.v 3) (.v 0)) ints (.v 4) 2 0xFFFFFFFF,
    privately (.imad (.v 2) (.v 0) (.v 1)) ints (.v 2) 2 923,
    privately (.imin (.v 4) (.v 3) (.v 0)) ints (.v 4) 2 0xFFFFFFF2,
    privately (.imax (.v 4) (.v 3) (.v 0)) ints (.v 4) 2 102,
    privately (.iabs (.v 4) (.v 3)) ints (.v 4) 2 14,
    privately (.ineg (.v 4) (.v 0)) ints (.v 4) 2 0xFFFFFF9A,
    privately (.iaddi (.v 0) 0xFFFF) ints (.v 0) 2 101,
    privately (.movi (.v 4) 0xFFFE) ints (.v 4) 2 0xFFFFFFFE,
    privately (.movhi (.v 0) 0x1234) ints (.v 0) 2 0x12340066,
    -- a scalar destination is written once
    privately (.iadd (.s 4) (.s 1) (.s 2)) ints (.s 4) 0 0x3213,
    -- an i64 pair: −16 has no sign in v3's lower half alone
    privately (.iadd (.v 4) (.v 2) (.v 2)) (mode ints 0x0020) (.v 5) 2 0xFFFFFFE4] = true := by
  decide +kernel

theorem witness_PrivateResult_LogicWords : allOf [
    privately (.and (.v 4) (.v 0) (.v 3)) ints (.v 4) 2 0x62,
    privately (.or (.v 4) (.v 0) (.v 1)) ints (.v 4) 2 0x6F,
    privately (.xor (.v 4) (.v 0) (.v 1)) ints (.v 4) 2 0x6F,
    privately (.not (.v 4) (.v 0)) ints (.v 4) 2 0xFFFFFF99,
    privately (.brev (.v 4) (.v 0)) ints (.v 4) 2 0x66000000,
    privately (.shl (.v 4) (.v 0) (.v 2)) ints (.v 4) 2 0xCC0,
    privately (.shr (.v 4) (.v 3) (.v 2)) ints (.v 4) 2 0x07FFFFFF,
    privately (.sar (.v 4) (.v 3) (.v 2)) ints (.v 4) 2 0xFFFFFFFF,
    privately (.rol (.v 4) (.v 3) (.v 2)) ints (.v 4) 2 0xFFFFFE5F,
    privately (.bfe (.v 4) (.v 0) (.s 3)) ints (.v 4) 2 3,
    privately (.bfi (.v 2) (.v 0) (.s 3)) ints (.v 2) 2 13,
    privately (.popc (.v 4) (.v 0)) ints (.v 4) 2 4,
    privately (.clz (.v 4) (.v 0)) ints (.v 4) 2 25,
    privately (.prmt (.v 4) (.v 0) (.s 2)) ints (.v 4) 2 102] = true := by
  decide +kernel

theorem witness_PrivateResult_FloatWords : allOf [
    privately (.fadd (.v 4) (.v 0) (.v 1)) floats (.v 4) 0 0x40400000,
    privately (.fsub (.v 4) (.v 1) (.v 0)) floats (.v 4) 0 0xBF800000,
    privately (.fmul (.v 4) (.v 0) (.v 2)) floats (.v 4) 0 0x40C00000,
    privately (.fma (.v 1) (.v 0) (.v 2)) floats (.v 1) 0 0x40E00000,
    privately (.fmin (.v 4) (.v 0) (.v 2)) floats (.v 4) 0 0x40000000,
    privately (.fmax (.v 4) (.v 0) (.v 2)) floats (.v 4) 0 0x40400000,
    privately (.fabs (.v 4) (.v 0)) floats (.v 4) 0 0x40000000,
    privately (.fneg (.v 4) (.v 0)) floats (.v 4) 0 0xC0000000,
    privately (.rcp (.v 4) (.v 0)) floats (.v 4) 0 0x3F000000,
    privately (.rsq (.v 4) (.v 3)) floats (.v 4) 0 0x3F000000,
    privately (.sqrt (.v 4) (.v 3)) floats (.v 4) 0 0x40000000,
    privately (.ex2 (.v 4) (.v 1)) floats (.v 4) 0 0x40000000,
    privately (.lg2 (.v 4) (.v 3)) floats (.v 4) 0 0x40000000,
    privately (.sin (.v 4) (.v 1)) floats (.v 4) 0 0,
    privately (.cos (.v 4) (.v 1)) floats (.v 4) 0 0x3F800000,
    -- R104's own case: FRND of 2.5 is 2 under RND = 0
    privately (.frnd (.v 4) (.v 0)) (lane0 (vectors home [0x40200000])) (.v 4) 0 0x40000000,
    -- 2^30 as i32
    privately (.cvt (.v 4) (.v 0) 0) floats (.v 4) 0 0x4E800000,
    privately (.pk2 (.v 4) (.v 0) (.v 1)) (lane0 (mode ints 0x00B0)) (.v 4) 0 0x00070064,
    privately (.pk4 (.v 4) (.v 0) (.v 2)) (lane0 (mode ints 0x00D0)) (.v 4) 0 0xF0030764,
    privately (.upk (.v 4) (.v 3) 0) (lane0 (mode ints 0x00D0)) (.v 4) 0 0xFFFFFFF0,
    -- R111's own rows: 100 as e4m3 and 9 as e2m1
    privately (.bscl (.v 4) (.v 0) (.sp .zero)) (lane0 (mode (vectors home [0x42C80000]) 0x0080)) (.v 4) 0 0xFA,
    privately (.bscl (.v 4) (.v 0) (.sp .zero)) (lane0 (mode (vectors home [0x41100000]) 0x00A0)) (.v 4) 0 0xFF] = true := by
  decide +kernel

theorem witness_LaneMoves_LaneTotals : allOf [
    privately (.shfl (.v 4) (.v 0) (.v 1)) ints (.v 4) 2 109,
    privately (.shflu (.v 4) (.v 0) (.v 2)) ints (.v 4) 2 102,
    privately (.shfld (.v 4) (.v 0) (.v 2)) ints (.v 4) 2 107,
    privately (.shflx (.v 4) (.v 0) (.v 2)) ints (.v 4) 2 107,
    privately (.rdlane (.s 4) (.v 0) (.s 1)) ints (.s 4) 0 103,
    privately (.wrlane (.v 0) (.s 2) (.s 1)) ints (.v 0) 3 0x3210,
    privately (.wrlane (.v 0) (.s 2) (.s 1)) ints (.v 0) 4 0,
    -- 5 × 100 + 10
    privately (.redadd (.s 4) (.v 0)) ints (.s 4) 0 510,
    privately (.redmin (.s 4) (.v 3)) ints (.s 4) 0 0xFFFFFFF0,
    privately (.redmax (.s 4) (.v 3)) ints (.s 4) 0 0xFFFFFFF4,
    privately (.scan (.v 4) (.v 0) false 0) ints (.v 4) 2 303,
    privately (.scan (.v 4) (.v 0) true 0) ints (.v 4) 2 201,
    privately (.scan (.v 4) (.v 0) true 1) ints (.v 4) 0 0x7FFFFFFF,
    (runs (.redadd (.s 4) (.v 0)) ints fun c => tyInt c.ty && !modeSat c.cur.mode),
    -- the words of R91 and R92
    privately (.liw (.v 4) 0xDEADBEEF) ints (.v 4) 2 0xDEADBEEF,
    privately (.ldk (.v 4) 5) (ints.modLaunch 0 fun l => { l with consts := [(5, 77)] }) (.v 4) 2 77] = true := by
  decide +kernel

theorem witness_ReduceAndFill : allOf [
    tyInt .i8, tyInt .n64, intMin .i8 = -128 && intMax .i8 = 127, reduceInt .i8 true 300 = 127 && reduceInt .i8 false 300 = 44,
    intMin .n8 ≤ 255 && (255 : Int) ≤ intMax .n8 && fill .n8 255 = 255, fill .i8 (-1) = 0xFFFFFFFF] = true := by
  decide +kernel

/-- The operands of a float word in lane 0. -/
def pair (m : Half) (x y : Nat) : Args :=
  { mode := m, mask := 1, outs := [0], a := fun _ => x, b := fun _ => y, d := fun _ => 0 }

theorem witness_FloatWords : allOf [
    tyFl (pair 0x0040 0 0).ty,
    -- −0 is less than +0; a quiet NaN gives way to a number; two NaNs give the canonical one, invalid if one signals
    resultsOf (.fmin (.v 4) (.v 0) (.v 1)) (pair 0x0040 0 0x80000000) = some [(0, 0x80000000, 0)],
    resultsOf (.fmax (.v 4) (.v 0) (.v 1)) (pair 0x0040 0x7FC00000 0x40000000) = some [(0, 0x40000000, 0)],
    resultsOf (.fmax (.v 4) (.v 0) (.v 1)) (pair 0x0040 0x7F800001 0x7FC00000) = some [(0, 0x7FC00000, flagInvalid)],
    resultsOf (.fabs (.v 4) (.v 0)) (pair 0x0040 0x80000000 0) = some [(0, 0, 0)],
    -- a subnormal under FTZ
    resultsOf (.fneg (.v 4) (.v 0)) (pair 0x0840 0x00000001 0) = some [(0, 0x80000000, 0)]] = true := by
  decide +kernel

theorem witness_FloatRounding : allOf [
    -- 2^24 + 1 lies halfway between two values of f32; even, toward zero, down and up
    (roundFin .f32 ⟨0, false, false⟩ false 16777217 0 false) = (0x4B800000, flagInexact),
    (roundFin .f32 ⟨1, false, false⟩ false 16777217 0 false).1 = 0x4B800000,
    (roundFin .f32 ⟨2, false, false⟩ true 16777217 0 false).1 = 0xCB800001,
    (roundFin .f32 ⟨3, false, false⟩ false 16777217 0 false).1 = 0x4B800001,
    Machine.decodeFloat .f32 0x4B800000 = FVal.fin false 8388608 1] = true := by
  decide +kernel

theorem witness_PredicateWords : allOf [
    -- lanes 0 to 3 of v0 (100 + lane) against s1 = 103 by "lt"
    leads (.cmp 2 1 (.v 0) (.s 1)) (scalars ints [(1, 103)]) onlyThread (below (.cmp 2 1 (.v 0) (.s 1)))
      fun _ _ th => th.pred 1 = 7,
    leads (.cmp 2 0 (.v 0) (.s 1)) (scalars ints [(1, 103)]) onlyThread any fun _ _ th => th.pred 0 = 0xFFFFFFFF,
    (compareLane 2 .i32 false 0xFFFFFFFF 0).1 && !(compareLane 2 .n32 false 0xFFFFFFFF 0).1,
    -- SEL takes A where the guard's predicate holds
    writes (.sel (.v 4) (.v 0) (.v 1)) (onWave (mode ints 0x0001) fun th => { th with preds := [(1, 4)] }) (.v 4) 2 102,
    writes (.sel (.v 4) (.v 0) (.v 1)) (onWave (mode ints 0x0001) fun th => { th with preds := [(1, 4)] }) (.v 4) 3 10,
    writes (.vote (.s 4) 1 0) (onWave ints fun th => { th with preds := [(1, 0xF0)] }) (.s 4) 0 0x10,
    writes (.vote (.s 4) 1 1) (onWave ints fun th => { th with preds := [(1, 0xF0)] }) (.s 4) 0 0,
    writes (.vote (.s 4) 1 2) (onWave ints fun th => { th with preds := [(1, 0xF0)] }) (.s 4) 0 1,
    writes (.pmovToScalar (.s 4) 0) ints (.s 4) 0 0xFFFFFFFF,
    writes (.pmovToScalar (.s 4) 1) (onWave ints fun th => { th with preds := [(1, 0xF0)] }) (.s 4) 0 0xF0,
    leads (.pmovToPredicate 2 (.s 2)) ints onlyThread (below (.pmovToPredicate 2 (.s 2))) fun _ _ th => th.pred 2 = 0x10,
    leads (.mov (.v 4) (.v 0)) ints onlyThread (fun c => below (.mov (.v 4) (.v 0)) c && !c.moveJoins (.v 4) (.v 0))
      fun c t _ => t.register c.ref c.slot (.v 4) 2 = some 102] = true := by
  decide +kernel

/-- v0 is bound to entry 3, a published leaf of the value store that holds 5 in every lane. -/
def bound (s : State) : State :=
  (s.modCore 0 fun k => { k with
    entries := [(3, { state := .published, key := [0, 0, 0, 0, 0, 0], bytes := List.replicate 32 5, flags := 0, recency := 0,
                      sources := [], launch := none, ldgk := false, comp := none, traps := false, lost := 0, spoiled := false })] }).modThread wave
    fun th => { th with bound := [(0, 3)] }

/-- What issuing a word in a state does to the value store, for a word of one source register. -/
def names (i : Instr) (s : State) (n : Nat) (q : State → Bool) : Bool :=
  match gateNaming (hasLineage i) i s with
  | .go c => hasLineage i c && below i c && (unitOf i c.ty = 0 || !c.thread.armed (unitOf i c.ty)) && c.destRegs i = [.v (Fin.ofNat 192 n)] &&
      (match resolveTags c s.tick ((c.begun s).coreAt c.ref.core) [] (flatten ((sourcesOf i).map fun u => tagRegs u c.ty)) with
       | (k1, some tags) => ((resolveKey k1 (keyOf i c.cur.mode c.part c.block.launch 0 false tags) tags s.tick
           (c.pending i false false) (c.waiter n)).parts).isSome
       | _ => false) && takes i s q
  | _ => false

/-- The entry that MOVI v4, #7 allocates, before its computation has run. -/
def pending : State := match exec (.movi (.v 4) 7) (mode home 0) with | .next t => t | _ => home

theorem witness_NamedResult : allOf [
    -- IADD of two lineages misses and gets a new entry
    names (.iadd (.v 4) (.v 0) (.v 0)) (mode (bound home) 0) 4 fun t => thread t wave fun th =>
      (find th.bound 4).any fun e => (find (t.coreAt 0).entries e).any fun x => x.state == .pending,
    -- a source is PENDING: the word has issued, and its slot waits
    names (.iadd (.v 5) (.v 4) (.v 4)) pending 5 fun t => thread t wave fun th =>
      (find th.bound 5).any fun e => th.paths.slot0.hold = .sources e && th.paths.slot0.pc = 0x20008,
    -- a leaf of no source
    names (.movi (.v 4) 7) (mode home 0) 4 fun t => thread t wave fun th => (find th.bound 4).isSome] = true := by
  decide +kernel

theorem witness_ValuePublished : allOf [
    ((pending.coreAt 0).entries.any fun x => ((publishDue pending 0 x.1).any fun y => !y.2.fails) &&
      takes (.valuePublish 0 ⟨x.1, .clean⟩) pending fun t => (find (t.coreAt 0).entries x.1).any fun z =>
        z.state == .published && z.bytes = List.replicate 32 7)] = true := by
  decide +kernel

/-! ### Control flow, waves and slot settings -/

theorem witness_BranchWords : allOf [
    leaves .nop home any (fun c => c.after fun x => { x with pc := c.cur.pc + 4 }),
    -- the offsets −1 and the least one
    leaves (.bra 0xFFFFF) home any (fun c => c.after fun x => { x with pc := 0x20000 }),
    leaves (.bra 0x80000) home any (fun c => c.after fun x => { x with pc := 0x20004 - 0x200000 }),
    leaves (.joinat 3) home any (fun c => c.after fun x => { x with pc := 0x20004, jpc := 0x20010 }),
    leaves (.loop (.s 1) 0xFFFE) (scalars home [(1, 2)]) any
      (fun c => c.after fun x => { x with pc := 0x1FFFC, sregs := [(1, 1)] }),
    leaves (.loop (.s 1) 0xFFFE) (scalars home [(1, 1)]) any (fun c => c.after fun x => { x with pc := 0x20004, sregs := [] }),
    leaves (.call 2) home any (fun c => c.after fun x => { x with pc := 0x2000C, sregs := [(31, 0x20004)] }),
    leaves (.callx (.s 2)) (scalars home [(2, 0x30000)]) (fun c => c.pair (.s 2) = 0x30000)
      (fun c => c.after fun x => { x with pc := 0x30000, sregs := [(2, 0x30000), (31, 0x20004)] }),
    leaves (.brx (.s 2)) (scalars home [(2, 0x30000)]) any (fun c => c.after fun x => { x with pc := 0x30000 }),
    -- outside the window, and at no word
    traps (.callx (.s 2)) (scalars home [(3, 1)]) .address 0 0x100000000 any,
    traps (.brx (.s 2)) (scalars home [(2, 0x30002)]) .address 0 0x30002 any,
    leaves .ret (scalars home [(31, 0x30000)]) any (fun c => c.after fun x => { x with pc := 0x30000 }),
    traps .ret (scalars home [(31, 1)]) .address 0 1 any] = true := by
  decide +kernel

/-- p1 holds lanes 0 to 15. -/
def half (s : State) : State := onWave s fun th => { th with preds := [(1, 0xFFFF)] }
/-- Wave 0 after BRP p1 over three words, with J at 0x2_0010. -/
def split : State :=
  match exec (.brp 1 false 3) (onSlot (half home) fun x => { x with jpc := 0x20010 }) with | .next t => t | _ => home

theorem witness_SplitAndMerge : allOf [
    -- a handler does not split
    leaves (.brp 1 false 3) (supervisor (half home)) (fun c => c.thread.depth ≠ 0)
      (fun c => c.after fun x => { x with pc := 0x20010 }),
    leaves (.brp 2 false 3) home (fun c => c.thread.depth = 0) (fun c => c.after fun x => { x with pc := 0x20004 }),
    leaves (.brp 2 true 3) home any (fun c => c.after fun x => { x with pc := 0x20010 }),
    leads (.brp 1 false 3) (half home) onlyThread (fun c => c.thread.paths.frame.isNone)
      fun _ _ th => th.paths.slot0.mask = 0xFFFF0000 && th.paths.slot0.pc = 0x20004 && th.paths.slot1.mask = 0xFFFF &&
        th.paths.slot1.pc = 0x20010 && th.paths.frame.isSome,
    -- inside a frame: slot 0 of a split, whose own lanes 16 to 23 satisfy p2, pushes slot 1
    leads (.brp 2 false 3) (onWave split fun th => { th with preds := [(2, 0xFF0000)] }) onlyThread
      (fun c => c.thread.paths.frame.isSome && c.thread.paths.stack.length = 0)
      fun _ _ th => th.paths.stack.length = 1 && th.paths.slot0.mask = 0xFF000000 && th.paths.slot1.mask = 0xFF0000,
    -- both slots at J
    let s := onSlot split fun x => { x with pc := 0x20010 }
    thread s wave (fun th => mergeDue th && th.paths.stack.isEmpty) && takes (.joinMerge wave) s fun t => thread t wave fun th =>
      th.paths.slot0.mask = 0xFFFFFFFF && th.paths.slot0.pc = 0x20010 && th.paths.frame.isNone] = true := by
  decide +kernel

theorem witness_ExitAndWaveEnd : allOf [
    leaves .exit (half (mode home 0x0041)) (fun c => !c.thread.supervisor && c.thread.depth = 0 && c.eff ≠ c.cur.mask)
      (fun c => c.after fun x => { x with mask := 0xFFFF0000, pc := 0x20004 }),
    leaves .exit split (fun c => c.eff = c.cur.mask && (c.thread.paths.slot (!c.slot)).mask ≠ 0)
      (fun c => c.after fun x => { x with mask := 0 }),
    leads .exit home onlyThread (fun c => c.eff = c.cur.mask && c.thread.paths.stack.isEmpty) fun _ _ th => th.ended,
    leads .exit (supervisor home) (fun _ _ _ => true) (fun c => c.thread.supervisor && !c.block.aborted)
      fun _ t _ => block t (·.aborted),
    let s := onWave home fun th => { th with ended := true }
    thread s wave (fun th => endDue s wave th) && takes (.waveEnd wave) s fun t => (t.threadAt wave).isNone] = true := by
  decide +kernel

/-- Wave 1 of the block is pending behind wave 0. -/
def twoWaves : State :=
  (onBlock home fun b => { b with waves := 2, threads := insert b.threads 1 (freshThread false 1 0 192 0x20000 0x40000) }).modCore 0
    fun k => { k with quads := [(0, { freshQuadrant with active := [0], pending := [1] })] }

/-- Every slot of the block waits at a barrier that cannot come, or is empty. -/
def stuck : State :=
  onBlock (onSlot home fun x => { x with hold := .bar 1 }) fun b =>
    { b with threads := adjust b.threads 32 fun th => { th with ended := true } }

theorem witness_SchedulerSteps : allOf [
    leaves (.sleep 0xFFFF) home (fun c => c.cur.park.isNone)
      (fun c => c.after fun x => { x with pc := 0x20004, hold := .sleep 0xFFFF }),
    leaves (.sleep 0) home any (fun c => c.after fun x => { x with pc := 0x20004 }),
    takes (.sleepExpiry wave false) (onSlot home fun x => { x with hold := .sleep 5 }) fun t => thread t wave fun th =>
      th.paths.slot0.hold = .free,
    leads .yield twoWaves (fun _ _ _ => true) (fun c => c.thread.quad = 0)
      fun _ t _ => (findD (t.coreAt 0).quads 0 freshQuadrant).active = [1],
    leads .yield home onlyThread any fun _ _ th => th.paths.slot0.pc = 0x20004,
    let s := onSlot twoWaves fun x => { x with hold := .bar 0 }
    exchangeOut s 0 (findD (s.coreAt 0).quads 0 freshQuadrant) = some 0 &&
      takes (.activeSetExchange 0 0) s fun t => (findD (t.coreAt 0).quads 0 freshQuadrant).pending = [0],
    staleWave (findD (twoWaves.coreAt 0).quads 0 freshQuadrant) = some 0 &&
      takes (.pendingPromotion 0 0) twoWaves fun t => (findD (t.coreAt 0).quads 0 freshQuadrant).active = [1],
    block stuck (deadlocked stuck 0 0) && takes (.blockDeadlock 0 0) stuck fun t => thread t wave fun th =>
      (th.paths.slot0.park.map (·.cause)) = some .deadlock] = true := by
  decide +kernel

theorem witness_SlotSettings : allOf [
    leaves (.mode 0x0FEF) home any (fun c => c.after fun x => { x with pc := 0x20004, mode := 0x0FEF }),
    leaves (.setf (.s 1)) (scalars home [(1, 0xFFFFFFFF)]) any
      (fun c => c.after fun x => { x with pc := 0x20004, fmt := 0x00FFFFFF }),
    writes (.tagof (.s 4) (.v 0)) home (.s 4) 0 0xFFFFFFFF,
    writes (.tagof (.s 4) (.v 0)) (bound home) (.s 4) 0 3,
    thread pending wave fun th => (find th.bound 4).any fun e => writes (.tagof (.s 4) (.v 4)) pending (.s 4) 0 (e + 65536),
    leads (.vsdrop (.v 0)) (bound home) onlyThread (fun c => !boundPending c.core c.thread (.v 0))
      fun c t th => th.bound.isEmpty && t.register c.ref c.slot (.v 0) 9 = some 5] = true := by
  decide +kernel

theorem witness_SpecialMoves : allOf [
    -- MODE, FMT, J, FLAGS, GANG and UTRAPBASE, read and written
    writes (.mfs (.s 4) 0x00B) home (.s 4) 0 0x0040,
    leaves (.mts (.s 1) 0x00B) (scalars home [(1, 0xFFFF)]) any
      (fun c => c.after fun x => { x with pc := 0x20004, mode := 0x0FFF }),
    leaves (.mts (.s 1) 0x00C) (scalars home [(1, 0xFFFFFFFF)]) any
      (fun c => c.after fun x => { x with pc := 0x20004, fmt := 0x00FFFFFF }),
    leaves (.mts (.s 1) 0x00D) (scalars home [(1, 0x30003)]) any
      (fun c => c.after fun x => { x with pc := 0x20004, jpc := 0x30000 }),
    leaves (.mts (.s 1) 0x00E) (onWave (scalars home [(1, 3)]) fun th => { th with flags := 31 })
      (fun c => !c.flagsWait 0x00E home) (fun c => { c.passed .nop with flags := 28 }),
    leaves (.mts (.s 1) 0x00F) (scalars home [(1, 3)]) any (fun c => { c.passed .nop with gang := 3 }),
    traps (.mts (.s 1) 0x00F) (scalars home [(1, 1)]) .gang 0 0 any,
    leaves (.mts (.s 1) 0x01D) (scalars home [(1, 0x30001)]) any (fun c => { c.passed .nop with utrapbase := 0x30000 }),
    -- a register that MTS does not write
    leaves (.mts (.s 1) 0x002) home any (fun c => c.passed .nop),
    -- CYCLE is order-dependent in a deterministic launch
    traps (.mfs (.s 4) 0x000) (lflags home 1) .orderDependent 0 0 fun c => c.launch.det,
    leads (.mtsv (.s 1) 0x100) (supervisor (scalars home [(1, 0x30001)])) (fun _ _ _ => true) any
      fun _ t _ => (t.partAt 0).trapbase = 0x30000,
    leads (.mtsv (.s 1) 0x104) (supervisor (scalars home [(1, 9)])) (fun _ _ _ => true) any
      fun _ t _ => (t.coreAt 0).fltcnt = 9,
    leads (.mtsv (.s 1) 0x109) (supervisor (scalars home [(1, 0xFF)])) (fun _ _ _ => true) any
      fun _ t _ => (t.partAt 0).testen = 0x1F,
    writes (.mfsv (.s 4) 0x100) (supervisor (handlers home)) (.s 4) 0 0x30000,
    -- CYCLE itself: its value is free, so only its completion is seen
    goesOn (.mfs (.s 4) 0x000) home any] = true := by
  decide +kernel

/-- A walk of wave 0 for t6, of the page at 0x5_0000. -/
def walkOf (xlat : Option Nat) : Walk where
  id := 1
  thread := wave
  slot := false
  va := 0x50000
  xlat := xlat
  limit := 0x1000
  depth := 0
  result := none
/-- The walk is under way, and t6 is busy. -/
def walking (s : State) (xlat : Option Nat) : State :=
  (s.modCore 0 fun k => { k with walks := [walkOf xlat] }).modThread wave fun th =>
    { th with tregs := [(6, { freshTReg with base := 0x50000, busy := true })] }
/-- And a trap has been entered since: the copy that it saved is busy, while the handler has given t6 another base. -/
def walkingBelow (s : State) : State := (walking s (some 6)).modThread wave fun th =>
  { th with
    tregs := [(6, { freshTReg with base := 0x60000, busy := true })]
    saved := [{ savedTrap s (trapOf .illegal) (some (.slot false)) true with t6 := { freshTReg with base := 0x50000, busy := true } }] }

theorem witness_TranslationWords : allOf [
    leads (.xlat 3 (.s 2) (.s 1)) (scalars home [(1, 0x1000), (2, 0x50000)]) (fun _ _ _ => true)
      (fun c => c.pair (.s 2) < 2 ^ 56 && walksInFlight home 0 < 32)
      fun _ t th => (th.treg 3).busy && (th.treg 3).base = 0x50000 && (t.coreAt 0).walks.length = 1,
    traps (.xlat 3 (.s 2) (.s 1)) (scalars home [(3, 0x1000000)]) .address 0x40 0 fun c => decide (2 ^ 56 ≤ c.pair (.s 2)),
    (walkOpen (walking home (some 6)) 0 1).isSome && takes (.pageWalkComplete 0 1) (walking home (some 6)) fun t =>
      thread t wave fun th => !(th.treg 6).busy && (th.treg 6).limit = 0x1000 && (th.treg 6).r,
    takes (.pageWalkComplete 0 1) (walkingBelow home) fun t => thread t wave fun th => (th.treg 6).busy &&
      th.saved.all fun v => !v.t6.busy && v.t6.limit = 0x1000,
    takes (.pageWalkComplete 0 1) (walking home none) fun t => (t.coreAt 0).walks.any fun w => w.result.isSome,
    leads (.tlbinv (.s 2) (.s 1)) (supervisor (scalars (onWave home fun th =>
        { th with tregs := [(3, { freshTReg with base := 0x50000, limit := 0x1000 })] }) [(2, 0x50000), (1, 0)]))
      (fun _ _ _ => true) (fun c => storesDrained c.thread) fun _ _ th => th.paths.slot0.pc = 0x20004] = true := by
  decide +kernel

/-- The launch, of the kernel named. -/
def kernel (s : State) (n : Nat) : State :=
  s.modLaunch 0 fun l => { l with desc := l.desc.take 66 ++ leBytes 2 n ++ l.desc.drop 68 }

/-! ### Memory -/

/-- t3 of wave 0 is translated over a page at 0x5_0000 that it may read and write. -/
def mapped (s : State) : State := onWave s fun th => { th with
  tregs := [(3, { freshTReg with base := 0x50000, frame := 0x50000, r := true, w := true, limit := 0x10000 })] }
/-- v0 holds the offsets 0, 4, 8, … -/
def offsets (s : State) : State :=
  onWave s fun th => { th with vregs := ((List.range 32).map fun l => (l, BitVec.ofNat 32 (4 * l))).filter fun e => e.2 ≠ 0 }
/-- i32 lanes, with offsets in v0 and t3 mapped. -/
def access : State := mapped (offsets (mode home 0))

theorem witness_GridAndRegionWords : allOf [
    traps (.graise (.s 4) (.s 1)) (lflags home 1) .orderDependent 0 0 fun c => c.launch.det,
    writes (.graise (.s 4) (.s 1)) (scalars home [(1, 0xFFFFFFFF)]) (.s 4) 0 0xFFFFFFFF,
    leads (.graise (.s 4) (.s 1)) (scalars home [(1, 5)]) (fun _ _ _ => true) (fun c => home.launchAt c.block.launch = some c.launch)
      fun c t _ => (t.launchAt 0).any (fun l => l.nblk = 6) && (t.partAt 0).raised = [(0, 1, 5)] &&
        t.register c.ref c.slot (.s 4) 0 = some 1,
    -- an older load is in flight
    waits (.graise (.s 4) (.s 1)) (after (.ldg (.v 8) (.v 0) 3 2 0) access) .queue fun c => !c.launch.det && !c.released,
    leads (.phase 0xFFFF) home (fun _ _ _ => true) any fun _ t _ => block t fun b => b.marker = 0xFFFF,
    traps (.gear (.s 4) (.s 1)) (scalars home [(1, 0x200)]) .illegal 0 0 any,
    traps (.gear (.s 4) (.s 1)) (scalars home [(1, 0x30)]) .illegal 0 0 any,
    writes (.gear (.s 4) (.s 1)) (lflags (scalars home [(1, 1)]) 1) (.s 4) 0 4,
    writes (.gear (.s 4) (.s 1)) ((scalars home [(1, 1)]).modCore 0 fun k => { k with gear := { k.gear with cap := 1 } }) (.s 4) 0 3,
    -- proof 0 lies below the floor of 520 mV
    writes (.gear (.s 4) (.s 1)) ((scalars home [(1, 0x20)]).modCore 0 fun k => { k with gear := { k.gear with floor := 900 } })
      (.s 4) 0 2,
    leads (.gear (.s 4) (.s 1)) (scalars home [(1, 1)]) (fun _ _ _ => true) any
      fun c t _ => block t (fun b => b.request = 1) && t.register c.ref c.slot (.s 4) 0 = some 1,
    leaves .rgn home (fun c => c.thread.paths.frame.isNone && !c.closeWaits) (fun c => { c.passed .nop with rgnpc := 0x20001 }),
    traps .rgn split .illegal 0 0 fun c => c.thread.paths.frame.isSome,
    traps .rgn (supervisor home) .illegal 0 0 fun c => c.thread.depth ≠ 0,
    leaves .rgnend (onWave home fun th => { th with rgnpc := 0x20001 }) (fun c => !c.closeWaits)
      (fun c => { c.passed .nop with rgnpc := 0x20000 })] = true := by
  decide +kernel

/-- What the statements of a global access assume of its translation. -/
def resolves (s : State) (c : Ctx) (a : Access) : Bool :=
  let r := c.resolve (c.begun s) a
  !c.accessWaits a && r.walks.isEmpty && r.fails.isEmpty && r.ok.all (fun y => !y.isRemote s)

/-- A load enters its queue. -/
def loads (i : Instr) (s : State) (p : Ctx → Bool) : Bool :=
  leads i s (fun _ _ _ => true) (fun c => below i c && p c) fun _ _ th => th.loads.length = 1
/-- A store or an atomic enters its queue. -/
def stores (i : Instr) (s : State) (p : Ctx → Bool) : Bool :=
  leads i s (fun _ _ _ => true) (fun c => below i c && p c) fun _ _ th => th.stores.length = 1

theorem witness_LoadWords : allOf [
    loads (.ldg (.v 4) (.v 0) 3 2 0) access fun c => resolves access c (c.loadAccess .global (c.thread.treg 3) (.v 4) (.v 0) 2),
    loads (.ldg (.s 4) (.s 1) 3 2 0) access fun c => resolves access c (c.loadAccess .global (c.thread.treg 3) (.s 4) (.s 1) 2),
    -- LDGK of four registers is private
    loads (.ldgk (.v 4) (.v 1) 3 4 0) access fun c =>
      let a := c.loadAccess .global (c.thread.treg 3) (.v 4) (.v 1) 4
      resolves access c a && !c.keyedLoad (dropWalks (c.begun access) c.ref) a (.v 4) (.v 1) (c.resolve (c.begun access) a),
    loads (.lds (.v 4) (.v 0) 2) access fun c => !c.accessWaits (c.loadAccess .sm freshTReg (.v 4) (.v 0) 2) &&
      (List.range 32).all fun l => decide (c.reg (.v 0) l + 4 ≤ c.launch.regionSize (spaceCode .sm)),
    loads (.ldb (.v 4) (.v 0) 0 2) access any,
    loads (.ldb (.v 4) (.v 0) 1 2) access any,
    -- every lane out of the region, whose last byte is 0x3_FFFF
    traps (.lds (.v 4) (.s 1) 2) (scalars access [(1, 0x40000)]) .address 3 0x40000 fun c =>
      (List.range 32).all fun l => 0x40000 < c.reg (.s 1) l + 4,
    -- a named LDGK of a bound offset
    let s := onWave (mapped (mode (bound home) 0)) fun th => { th with
      tregs := th.tregs.map fun e => (e.1, { e.2 with sealed := true, w := false }) }
    let i := Instr.ldgk (.v 4) (.v 0) 3 2 0
    let s' := s.modCore 0 fun k => { k with entries := k.entries.map fun e => (e.1, { e.2 with bytes := List.replicate 32 4 }) }
    let t := after i s'
    (loads i s' fun c =>
      let a := c.loadAccess .global (c.thread.treg 3) (.v 4) (.v 0) 2
      resolves s' c a && c.keyedLoad (dropWalks (c.begun s') c.ref) a (.v 4) (.v 0) (c.resolve (c.begun s') a)) &&
    -- and the same again, whose key hits
    runs (.ldgk (.v 5) (.v 0) 3 2 0) t fun c =>
      let a := c.loadAccess .global (c.thread.treg 3) (.v 5) (.v 0) 2
      c.keysHit (.ldgk (.v 5) (.v 0) 3 2 0) a (.v 0) (c.begun t) && c.keyedLoad (c.begun t) a (.v 5) (.v 0) (c.resolve (c.begun t) a) &&
        takes (.ldgk (.v 5) (.v 0) 3 2 0) t fun u => thread u wave fun th => th.loads.length = 1 && find th.bound 5 = find th.bound 4] = true := by
  decide +kernel

/-- What a PRF through t3 resolves. -/
def prefetchesAt (s : State) (c : Ctx) (o : Reg) : Resolved := c.resolve (c.begun s) (c.fillAccess (c.thread.treg 3) o 0)
/-- And of the offsets in v0. -/
def prefetches (s : State) (c : Ctx) : Resolved := prefetchesAt s c (.v 0)
/-- s1 is an offset on the page after the one that t3 holds. -/
def farPage (s : State) : State := scalars s [(1, 0x10000)]

theorem witness_StoreAndAtomicWords : allOf [
    stores (.stg (.v 4) (.v 0) 3 2 0) access fun c => resolves access c (c.storeAccess .global (c.thread.treg 3) (.v 4) (.v 0) 2),
    stores (.sts (.v 4) (.v 0) 2) access fun c => !c.accessWaits (c.storeAccess .sm freshTReg (.v 4) (.v 0) 2) &&
      (c.accessLanes (c.storeAccess .sm freshTReg (.v 4) (.v 0) 2)).all fun l => decide (c.reg (.v 0) l + 4 ≤ 0x40000),
    stores (.stb (.v 4) (.v 0) 0 2) access any,
    stores (.stb (.v 4) (.v 0) 1 2) access any,
    leads (.prf (.v 0) 3 0) access (fun _ _ _ => true) (fun c => below .nop c && (prefetches access c).walks.isEmpty)
      fun c _ th => th = c.passed .nop,
    -- a page that t3 does not hold: the word waits for its walk
    leads (.prf (.s 1) 3 0) (farPage access) (fun _ _ _ => true) (fun c => below .nop c && !(prefetchesAt (farPage access) c (.s 1)).walks.isEmpty)
      fun c _ th => th = c.heldAt .walk,
    stores (.atomg (.v 4) (.v 0) 3 0 0) access fun c =>
      resolves access c (c.atomicAccess ⟨.global, c.thread.treg 3, .v 4, .v 0, AtomicOp.mk 0 false 0 4 (.v 4) false 0, false⟩),
    stores (.atomg64 (.v 4) (.s 1) 3 0 0) (mode access 0x0020) any,
    stores (.casg (.v 4) (.v 0) 3 0) access any,
    stores (.atoms (.v 4) (.v 0) 0) access any,
    stores (.cass (.v 4) (.v 0)) access any,
    -- an exchange in a deterministic launch is order-dependent
    traps (.atomg (.v 4) (.v 0) 3 6 0) (lflags access 1) .orderDependent 0 0 fun c => c.launch.det && orderedOp 6 c.ty,
    traps (.cass (.v 4) (.v 0)) (lflags access 1) .orderDependent 0 0 any] = true := by
  decide +kernel

/-- Global memory holds these bytes at 0x5_0000. -/
def holding (s : State) (bs : List Byte) : State := s.writeMem (s.partAt 0).key 0x50000 bs false

theorem witness_LoadsComplete : allOf [
    -- an i32 load of global memory, of lane 1
    let s := after (.ldg (.v 4) (.v 0) 3 2 0) (holding access [1, 2, 3, 4, 5, 6, 7, 8])
    thread s wave (fun th => (loadNext th 0).any fun x => x.entries.isEmpty && x.tainted = 0 && x.accesses.length = 32 &&
        x.accesses.all fun a => a.remote.isEmpty && !a.isRemote s) &&
      takes (.loadComplete wave .clean) s fun t => t.register wave false (.v 4) 1 = some 0x08070605,
    -- a signed byte
    let s := after (.lds (.v 4) (.v 0) 0) (onBlock access fun b => { b with regions := [(regionKey 3 4, 0x80)] })
    takes (.loadComplete wave .clean) s fun t => t.register wave false (.v 4) 1 = some 0xFFFFFF80,
    -- a scalar
    let s := after (.ldg (.s 4) (.s 1) 3 3 0) (holding access [1, 2, 3, 4, 5, 6, 7, 8])
    takes (.loadComplete wave .clean) s fun t => t.register wave false (.s 5) 0 = some 0x08070605] = true := by
  decide +kernel

theorem witness_StoresPerform : allOf [
    let s := after (.stg (.v 0) (.v 0) 3 2 0) access
    thread s wave (fun th => (storeNext th).any fun x => x.atomic.isNone && x.lanes.length = 32 &&
        x.lanes.all fun y => y.access.remote.isEmpty && !y.access.isRemote s && !laneSealed s y.access &&
          y.access.parts = [(0x50000 + 4 * y.access.lane, 4)]) &&
      takes (.storePerformed wave) s fun t => t.readMem (t.partAt 0).key 0x50004 4 = [4, 0, 0, 0],
    let s := after (.sts (.v 0) (.v 0) 2) access
    thread s wave (fun th => (storeNext th).any fun x => x.space ≠ .global) &&
      takes (.storePerformed wave) s fun t => t.regionByte 0 0 3 8 = some 8] = true := by
  decide +kernel

/-- Lane 0's ATOMG has been sent to module 1 as message 5, and the old value 9 has come. -/
def remoteAtomics : State :=
  ((after (.atomg (.v 4) (.s 1) 3 0 0) (onSlot access fun x => { x with mask := 1 })).modThread wave fun th =>
    { th with stores := th.stores.map fun x => { x with
        lanes := x.lanes.map fun y => { y with access := { y.access with parts := [(2 ^ 52 + 0x50000, 4)], remote := [(1, 5)] } } } }).modToward 1
    fun y => { y with replies := [{ home := 1, number := 5, refused := false, sealed := false, poison := false, bytes := [9, 0, 0, 0] }] }

theorem witness_AtomicsComplete : allOf [
    -- lane 0 adds v4 = 5 to a word of SM that holds 7
    let s := after (.atoms (.v 4) (.v 0) 0) (onSlot (onBlock (onWave access fun th => { th with vregs := [(128, 5)] })
      fun b => { b with regions := [(regionKey 3 0, 7)] }) fun x => { x with mask := 1 })
    thread s wave (fun th => (storeNext th).any fun x => x.space = .sm && x.atomic.isSome &&
        x.lanes.all (fun y => y.access.parts.isEmpty && y.access.remote.isEmpty) && x.lanes.length = 1) &&
      takes (.atomicComplete wave .clean) s fun t => t.regionByte 0 0 3 0 = some 12 &&
        t.register wave false (.v 4) 0 = some 7,
    -- two lanes add 5 and 6 to one word of global memory that holds 7: the second finds what the first left
    let s := after (.atomg (.v 4) (.s 1) 3 0 0) (onSlot (onWave (holding access [7]) fun th =>
      { th with vregs := [(128, 5), (129, 6)] }) fun x => { x with mask := 3 })
    thread s wave (fun th => (storeNext th).any fun x => x.space = .global && x.lanes.length = 2 && !unsent s x) &&
      takes (.atomicComplete wave .clean) s fun t => t.readMem (t.partAt 0).key 0x50000 4 = [18, 0, 0, 0] &&
        t.register wave false (.v 4) 0 = some 7 && t.register wave false (.v 4) 1 = some 12,
    -- a lane at module 1, which has answered
    let s := remoteAtomics
    thread s wave (fun th => (storeNext th).any fun x => !unsent s x && x.lanes.all fun y => y.access.remote = [(1, 5)] &&
        answerOf s 1 5 = .reply { home := 1, number := 5, refused := false, sealed := false, poison := false, bytes := [9, 0, 0, 0] }) &&
      takes (.atomicComplete wave .clean) s fun t => t.register wave false (.v 4) 0 = some 9,
    atomicValue 1 .n32 32 0xFFFFFFFF 5 = 5 && atomicValue 1 .i32 32 0xFFFFFFFF 5 = 0xFFFFFFFF && atomicValue 0 .n64 64 0xFFFFFFFFFFFFFFFF 1 = 0,
    atomicStores (AtomicOp.mk 0 true 0 4 (.v 4) false 0) 7 (7 + 2 ^ 32 * 9) = some 9,
    -- a post of 0x01020304 to ring 2
    let s := onBlock (onWave home fun th => { th with posts := [{ seq := 0, ring := 2, word := 0x01020304 }] })
      fun b => { b with rings := [(2, { base := 0x100, size := 4, count := 1, buffer := 0, post := true, wp := 0, rp := 0, cp := 0,
                                        fp := 0, filled := [], waiting := [], senders := [] })] }
    thread s wave (fun th => block s fun b => (postNext (s.coreAt 0) b wave th).isSome) &&
      takes (.postWrite wave) s fun t => t.regionByte 0 0 3 0x100 = some 4 && block t fun b =>
        (find b.rings 2).any fun r => r.cp = 1 && r.wp = 1] = true := by
  decide +kernel

/-! ### Barriers, rings, the matrix engine and the ladders -/

theorem witness_SyncWords : allOf [
    leaves (.fence 15 15 0) home (fun c => !loadsBefore c.thread c.seq && !storesBefore c.thread c.seq false)
      (fun c => c.passed .nop),
    -- an older load is in flight
    waits (.fence 1 12 0) (after (.ldg (.v 4) (.v 0) 3 2 0) access) (.fence 1 1 12) fun c => c.seq = 1 && loadsBefore c.thread c.seq,
    -- a store that a load of the predecessors has returned is queued
    waits (.fence 1 12 0) (onWave (after (.stg (.v 4) (.v 0) 3 2 0) access) fun th =>
      { th with stores := th.stores.map fun x => { x with returned := some 0 } }) (.fence 1 1 12) fun c =>
        !loadsBefore c.thread c.seq && returnedBefore c.thread c.seq,
    leaves (.bar 15) home any (fun c => c.after fun x => { x with hold := .bar 15 }),
    leads (.arrive (.s 4) 7) home (fun _ _ _ => true) (fun c => c.released && (find home.clusters c.block.cluster).any fun x =>
        !(findD x.arrived 7 []).contains (c.memberName x))
      fun c t _ => t.register c.ref c.slot (.s 4) 0 = some 1 && (find t.clusters 0).any fun x => (findD x.arrived 7 []) = [0],
    -- the wave has arrived in this phase already
    let s := after (.arrive (.s 4) 7) twoWaves
    waits (.arrive (.s 4) 7) s (.arrive 7) fun c => (find s.clusters c.block.cluster).any fun x => c.hasArrived x 7,
    -- an older load is in flight: the arrival counts once it is performed
    leads (.arrive (.s 4) 7) (after (.ldg (.v 8) (.v 0) 3 2 0) access) onlyThread (fun c => !c.released)
      fun c t th => th.arriving = [(7, c.seq)] && t.register c.ref c.slot (.s 4) 0 = some 1,
    leaves (.waitb 0 (.s 0)) home any (fun c => c.passed .nop),
    waits (.waitb 0 (.s 1)) (scalars home [(1, 1)]) (.waitb 0 1) any,
    writes (.testb (.s 4) (.s 1) 0) (scalars home [(1, 1)]) (.s 4) 0 0,
    writes (.testb (.s 4) (.s 0) 0) home (.s 4) 0 1,
    traps (.testb (.s 4) (.s 0) 0) (lflags home 1) .orderDependent 0 0 any,
    leaves (.waitc 0 (.sp .zero)) home (fun c => pathCount c.core c.ref c.thread 0 = 0) (fun c => c.passed .nop),
    waits (.waitc 0 (.sp .zero)) (after (.ldg (.v 4) (.v 0) 3 2 0) access) (.waitc 0) fun c =>
      pathCount c.core c.ref c.thread 0 = 1,
    leaves (.gang (.s 1)) (scalars home [(1, 3)]) any (fun c => { c.passed .nop with gang := 3 }),
    leaves (.gang (.sp .zero)) home any (fun c => c.passed .nop),
    traps (.gang (.sp .one)) home .gang 0 0 any,
    traps (.gang (.s 1)) (scalars home [(1, 0x7F)]) .gang 0 0 any,
    -- one wave stands at the barrier and the CCP does not count
    let s := onSlot home fun x => { x with hold := .bar 3 }
    (block s fun b => barDone b 3 && (List.range 16).all fun m => m = 3 || !barDone b m) &&
      thread (settleBlock s 0 0) wave fun th => th.paths.slot0.hold = .free && th.paths.slot0.pc = 0x20004] = true := by
  decide +kernel

/-- Ring 2 of the block. -/
def ringed (s : State) (r : Ring) : State := onBlock s fun b => { b with rings := [(2, r)] }
/-- A ring of two slots of 64 bytes at 0x100 of WB. -/
def aRing : Ring where
  base := 0x100
  size := 64
  count := 2
  buffer := 3
  post := false
  wp := 0
  rp := 0
  cp := 0
  fp := 0
  filled := []
  waiting := []
  senders := []

/-- The flags of a plain command. -/
def plain : CopyFlags := ⟨false, false, false, 0, false, false⟩
/-- A descriptor in s0 to s5 of the CCP: 128 bytes from SM to AB, of tag 7. -/
def toAb : State := scalars homeCcp [(1, 0x100), (2, 128), (3, 0x98), (4, 7)]

theorem witness_RingWords : allOf [
    -- ring 15 exists; RINIT of two slots of 64 bytes in SM at 0x100
    leads (.rinit 15 (.s 4)) (scalars home [(4, 0x100), (5, 64), (6, 0x002)]) (fun _ _ _ => true)
      (fun c => c.launch.rings = 16) fun _ t _ => block t fun b => (find b.rings 15).isSome,
    leads (.rinit 2 (.s 4)) (scalars home [(4, 0x100), (5, 64), (6, 0x002)]) (fun _ _ _ => true)
      (fun c => (c.field (.s 4) 0).toNat = 0x100 && !ringClaimed home 0 0 2) fun _ t _ => block t fun b =>
        (find b.rings 2).any fun r => r.count = 2 && r.size = 64 && r.buffer = 0,
    traps (.rinit 2 (.s 4)) (scalars home [(4, 0x101), (5, 64), (6, 0x002)]) .address (0x50 + 0x200 + 0x2000) 0 any,
    -- two slots that reach past the end of SM; and a command that has claimed a slot of the ring
    traps (.rinit 2 (.s 4)) (scalars home [(4, 0x3FFC0), (5, 64), (6, 0x002)]) .address (0x50 + 0x300 + 0x2000) 0x40000 any,
    let s := (after (.cpy (.s 8) (.s 0) plain) toAb).modThread ccp fun th =>
      { th with cmds := th.cmds.map fun x => { x with claims := [(0, 0, 2, 0)] } }
    waits (.rinit 2 (.s 4)) (scalars { s with who := wave } [(4, 0x100), (5, 64), (6, 0x002)]) .claim any,
    -- a launch with no ring
    traps (.rrel 2) (home.modLaunch 0 fun l => { l with desc := l.desc.take 40 ++ leBytes 4 0x08001801 ++ l.desc.drop 44 }) .address
      0x2150 0 fun c => c.launch.rings = 0,
    traps (.rawait (.s 4) 2) home .address 0x2450 0 any,
    writes (.rawait (.s 4) 2) (ringed home { aRing with wp := 1, cp := 1 }) (.s 4) 0 0x100,
    waits (.rawait (.s 4) 2) (ringed home aRing) (.rawait 2) any,
    traps (.rrel 2) (ringed home aRing) .address 0x2650 0 any,
    leads (.rrel 2) (ringed home { aRing with wp := 1, cp := 1 }) (fun _ _ _ => true)
      (fun c => (readersOf c.core c.block c.ref.block (aRing.span 0)).isEmpty) fun _ t _ => block t fun b =>
        (find b.rings 2).any fun r => r.rp = 1 && r.fp = 1,
    -- a slot that a load still reads, and one that a CPYM filled
    waits (.rrel 2) (ringed (onWave home fun th => { th with loads := [
        { seq := 0, space := .wb, dest := .v 4, tainted := 0, slot := false, size := 4, signed := false, shared := 0, logged := 0, missed := false, hint := 0,
          accesses := [⟨0, 0x104, [], []⟩], counted := false, entries := [], pc := 0x20000, depth := 0, order := 0 }] })
      { aRing with wp := 1, cp := 1 }) .queue any,
    leads (.rrel 2) (ringed home { aRing with wp := 1, cp := 1, senders := [(0, 0, 0, 7)] }) (fun _ _ _ => true) any
      fun _ t _ => block t fun b => (find b.rings 2).any fun r => r.fp = 1 && r.senders.isEmpty,
    traps (.rpost (.s 1) 2) (ringed home aRing) .address 0x2550 0 any,
    leaves (.rpost (.s 1) 2) (ringed (scalars home [(1, 9)]) { aRing with post := true })
      (fun c => c.thread.posts.length < 255 && !c.thread.fenced c.slot setE)
      (fun c => { c.passed .nop with posts := [{ seq := c.seq, ring := 2, word := 9 }] }),
    leads (.rfill (.s 1)) (ringed (scalars homeCcp [(1, 2)]) aRing) (fun _ _ _ => true) (fun c => c.released && aRing.claimable)
      fun _ t _ => block t fun b => (find b.rings 2).any fun r => r.cp = 1 && r.wp = 1,
    consumedDue (ringed home { aRing with wp := 1, cp := 1, rp := 1, waiting := [[]] }) 0 0 2 &&
      takes (.operandsConsumed 0 0 2) (ringed home { aRing with wp := 1, cp := 1, rp := 1, waiting := [[]] }) fun t => block t fun b =>
        (find b.rings 2).any fun r => r.fp = 1 && r.waiting.isEmpty] = true := by
  decide +kernel

/-- FMT of i8 weights and i8 activations into i32 (R27, R50). -/
def i8Fmt (s : State) : State := onSlot s fun x => { x with fmt := 0x199 }
/-- A descriptor in s0 to s3. -/
def described (s : State) (a b c d : Word) : State :=
  scalars s (([(0, a), (1, b), (2, c), (3, d)] : List (Nat × Word)).filter fun x => x.2 ≠ 0)

/-- The matrix word enters the engine's queue. -/
def queues (i : Instr) (s : State) : Bool :=
  leads i s (fun _ _ _ => true) (fun c => below i c &&
      let op := (opcodeOf i).getD 0
      let m := c.member op i
      formatReason c.core c.thread.regs op c.cur.fmt m.rowsum = none && !fieldsBad op m && placeBad c.launch op m = none &&
        !c.matrixWaits op m)
    fun _ t _ => (t.coreAt 0).engine.length = 1

theorem witness_MatrixWords : allOf [
    queues (.mma (.s 0)) (i8Fmt (described home 0 0 0 1)),
    queues (.mmaz (.s 0)) (i8Fmt (described home 0 0 0 255)),
    queues (.mmas (.s 0)) (i8Fmt (described home 0 0 0 1)),
    queues (.epi (.s 0)) (described home 0 0x2000 0x3000 0x4000),
    queues (.rowsum (.s 0)) (described home 0 0 1 0),
    queues (.cmpr (.s 0)) (described home 0 0x4000 1 0),
    queues (.cbld (.s 0)) home,
    queues (.qacc (.s 0)) (described home 0 0x4000 0 0),
    queues (.clrt (.s 0)) home,
    queues (.mtrn (.s 0)) (mode (described home 0 0x4000 0 0) 0x00D0),
    -- the codebook of lut16 weights is read at issue
    leads (.mma (.s 0)) (onSlot (described home 0 0 0 1) fun x => { x with fmt := 0x004006 }) (fun _ _ _ => true)
      (fun c => readsLut 0x90 c.cur.fmt && c.lutReg.any fun r => !c.lutWaits r && !c.lutDead r && c.poison r = 0)
      fun _ t _ => (t.coreAt 0).engine.length = 1,
    traps (.mma (.s 0)) (onSlot (described home 0 0 0 1) fun x => { x with fmt := 0x00F }) .format 1 0 any,
    traps (.mma (.s 0)) (i8Fmt (described home 0 0 0 0)) .format 5 0 any,
    traps (.mma (.s 0)) (i8Fmt (described home 1 0 0 1)) .address 0 1 any,
    traps (.clrt (.s 0)) (described home 0x3F080 0 0 0) .address 1 0x3F080 any,
    -- two waves of a gang
    leads (.mma (.s 0)) (onWave (i8Fmt (described twoWaves 0 0 0 1)) fun th => { th with gang := 3 }) (fun _ _ _ => true)
      (fun c => c.thread.gang ≠ 0 && !waveGone c.block 1 && c.core.arrivals.isEmpty)
      fun _ t th => (t.coreAt 0).arrivals.length = 1 && th.paths.slot0.hold = .latch] = true := by
  decide +kernel

/-- What the statement assumes of the engine's oldest operation. -/
def matrixReady (s : State) : Bool :=
  match matrixDue s 0 with
  | some (op, n, b) => n = 0 && op.members.length = 1 && b.rpois.isEmpty && b.threads.all (·.2.arms.isEmpty) &&
      op.members.all fun m => !m.failEngine && !m.failWeights && m.thread = wave
  | none => false

/-- Bytes of the regions. -/
def regions (s : State) (xs : List (Nat × Byte)) : State := onBlock s fun b => { b with regions := xs }

theorem witness_MatrixCompletes : allOf [
    -- A row 0 holds 2 at k = 0, B row 1 holds −3, and 10 stands where their product is added
    let s := regions (i8Fmt (described home 0 0 0 1))
      [(regionKey 0 0, 2), (regionKey 1 4, 10), (regionKey 2 32, 0xFD)]
    matrixReady (after (.mma (.s 0)) s) && matrixReady (after (.mmaz (.s 0)) s),
    matrixReady (after (.clrt (.s 0)) (regions home [(regionKey 1 5, 9)])),
    matrixReady (after (.mtrn (.s 0)) (regions (mode (described home 0 0x4000 0 0) 0x00D0) [(regionKey 0 1, 9)])),
    let t := after (.cbld (.s 0)) (regions home [(regionKey 3 2, 7)])
    matrixReady t && takes (.matrixComplete 0) t (fun v => (v.coreAt 0).cb2Loaded && findD (v.coreAt 0).cb2 1 0 = 7)] = true := by
  decide +kernel

/-- Ladder 1 has four rungs at 0x0, with weights at 0x8000 and decays at 0x8100. -/
def laddered (s : State) (n : Nat) : State := onBlock s fun b => { b with
  ladders := [(1, { defined := true, rung0 := 0, nr := 4, dec := 0x8000, wgt := 0x8100, n := n })] }

/-- The ladder word enters its queue. -/
def climbs (i : Instr) (s : State) : Bool :=
  leads i s (fun _ _ _ => true) (fun c => below i c &&
      let o := c.ladderOp i 1
      let x := ladderAfter c.block c.ref.block 1 c.core.ladderQ
      ladderReason c.launch x o = none && !c.ladderWaits (ladderFootprint x o))
    fun _ t _ => (t.coreAt 0).ladderQ.length = 1

/-- The ladder word enters its queue, and is then the oldest there and can complete. -/
def ready (i : Instr) (s : State) : Bool :=
  climbs i s && (ladderDue (after i s) 0).any (fun x => !x.1.fails && x.1.thread = wave)
/-- The ladder word, then its completion. -/
def climbed (i : Instr) (s : State) (q : State → Bool) : Bool := ready i s && takes (.ladderComplete 0) (after i s) q

/-- The count n of ladder 1. -/
def steps1 (t : State) : Option Nat := (t.blockAt 0 0).map fun b => (findD b.ladders 1 freshLadder).n

theorem witness_LadderWords : allOf [
    climbed (.ldef (.s 0) 1) (described home 0 4 0x8000 0x8100) fun t => block t fun b => (findD b.ladders 1 freshLadder).nr = 4,
    climbed (.lpush (.s 0) 1) (laddered home 0) fun t => steps1 t = some 1,
    climbed (.lpush (.s 0) 1) (laddered home 0xFFFFFFFF) fun t => steps1 t = some 0x80000000,
    climbed (.lread (.s 0) 1) (described (laddered home 1) 0x10000 0 0 0) fun t => steps1 t = some 1,
    ready (.lrung (.s 8) (.s 0) 1) (regions (described (laddered home 2) 0x10000 1 0 0) [(regionKey 1 0x1005, 7)]),
    ready (.lsetr (.s 0) 1) (regions (described (laddered home 2) 0x10000 1 0 0) [(regionKey 1 0x10005, 7)]),
    climbed (.lstep (.s 8) 1) (laddered home 5) fun t => t.register wave false (.s 8) 0 = some 5,
    climbed (.lstepw (.s 0) 1) (described (laddered home 5) 9 0 0 0) fun t => steps1 t = some 9,
    climbed (.lclr 1) (laddered home 5) fun t => steps1 t = some 0,
    -- undefined, and a rung beyond the ladder's four
    traps (.lclr 1) home .address 0x1461 0 any,
    traps (.lsetr (.s 0) 1) (described (laddered home 2) 0x10000 4 0 0) .address 0x1261 0 any] = true := by
  decide +kernel

/-! ### Copy commands and the words of the system -/

/-- The flags of a command into rings, at cluster scope. -/
def ringOne : CopyFlags := { plain with ring := true, scope := 1 }
/-- The command issues, with what the statement assumes. -/
def commands (i : Instr) (f : CopyFlags) (op : Nat) (s : State) (bad : Bool) (q : Thread → Bool) : Bool :=
  leads i s (fun _ _ _ => true) (fun c =>
      let y := c.command op (.s 8) (.s 0) f
      below i c && decide (c.thread.outstanding.length < 16) && !c.thread.fenced c.slot setE && !c.sideBusy y &&
        badDescriptor (c.begun s) c y = bad &&
        (bad || (claimAll (c.begun s) y.ringNumber ((ringBlocks (c.begun s) c y).getD [])).isSome))
    fun _ _ th => q th

/-- One command is outstanding. -/
def oneOut (th : Thread) : Bool := th.outstanding.length = 1

/-- t1 of the CCP reaches a frame of module 1. -/
def farSide (s : State) : State := s.modThread ccp fun th => { th with
  tregs := [(0, { freshTReg with base := 0x50000, frame := 0x50000, r := true, w := true, limit := 0x10000 }),
            (1, { freshTReg with base := 0x60000, frame := 2 ^ 52 + 0x60000, r := true, w := true, limit := 0x10000 })] }

theorem witness_CopyWords : allOf [
    commands (.cpy (.s 8) (.s 0) plain) plain 0xB0 toAb false oneOut,
    commands (.cpy2 (.s 8) (.s 0) plain) plain 0xB1 (scalars homeCcp [(1, 0x100), (2, 0x00020040), (3, 0x00400198)]) false oneOut,
    commands (.cpyx (.s 8) (.s 0) plain) plain 0xB2 (farSide (scalars homeCcp [(2, 64), (3, 0x10)])) false oneOut,
    -- CPYM to rank 0 of the cluster, into its ring 2
    commands (.cpym (.s 8) (.s 0) ringOne) ringOne 0xB3
      (ringed (scalars homeCcp [(2, 64), (3, 0xB8), (4, 0x10200)]) aRing) false oneOut,
    commands (.cpye (.s 8) (.s 0) plain) plain 0xB4 (scalars homeCcp [(2, 64), (3, 0x198)]) false oneOut,
    commands (.cpyg (.s 8) (.s 0) plain) plain 0xB5 (farSide (scalars homeCcp [(2, 1), (3, 0xB0)])) false oneOut,
    commands (.redx (.s 8) (.s 0) { plain with scope := 4 }) { plain with scope := 4 } 0xB6 (scalars homeCcp [(1, 0x100), (2, 64), (3, 0x1198)]) false oneOut,
    -- a descriptor of no length
    commands (.cpy (.s 8) (.s 0) plain) plain 0xB0 (scalars homeCcp [(3, 0x98)]) true fun th =>
      th.cmds.any fun x => x.status = some (statusWord 0 false 0 10),
    -- into a ring of the block: a slot is claimed, or the word waits
    commands (.cpy (.s 8) (.s 0) { plain with ring := true }) { plain with ring := true } 0xB0
      (ringed (scalars homeCcp [(2, 64), (3, 0xB8), (4, 0x200)]) aRing) false fun th =>
        th.cmds.any fun x => x.claims = [(0, 0, 2, 0)],
    let s := ringed (scalars homeCcp [(2, 64), (3, 0xB8), (4, 0x200)]) { aRing with wp := 2, cp := 2 }
    waits (.cpy (.s 8) (.s 0) { plain with ring := true }) s .claim fun c =>
      !badDescriptor (c.begun s) c (c.command 0xB0 (.s 8) (.s 0) { plain with ring := true }),
    -- sixteen commands are outstanding
    let s := (after (.cpy (.s 8) (.s 0) plain) toAb).modThread ccp fun th =>
      { th with cmds := flatten (th.cmds.map fun x => (List.range 16).map fun n => { x with seq := n }) }
    waits (.cpy (.s 24) (.s 0) plain) s .queue fun c => decide (16 ≤ c.thread.outstanding.length),
    -- CWAIT and CSTAT of a tag no command bears, and of one outstanding
    writes (.cwait (.s 8) (.s 0)) (scalars homeCcp [(0, 9)]) (.s 8) 0 codeNotag,
    waits (.cwait (.s 9) (.s 4)) (after (.cpy (.s 8) (.s 0) plain) toAb) (.cwait [0]) fun c =>
      (c.thread.covered 7).any fun x => x.status.isNone,
    writes (.cstat (.s 9) (.s 4)) (after (.cpy (.s 8) (.s 0) plain) toAb) (.s 9) 0 codePending,
    leads (.cstat (.s 8) (.s 4)) (lflags homeCcp 1) (fun _ _ _ => true) (fun c => c.launch.det) fun _ t th =>
      block t (·.aborted) && th.stopped && th.exc.exc = 0x0A,
    -- CCAN of it: how far the command came is a free value
    runs (.ccan (.s 4)) (after (.cpy (.s 8) (.s 0) plain) toAb) fun c => (c.thread.covered 7).length = 1] = true := by
  decide +kernel

/-- The CCP's oldest command. -/
def first (s : State) : Option Command := (s.threadAt ccp).bind fun th => th.cmds.head?

theorem witness_CopyCommandsEnd : allOf [
    let s := after (.cpy (.s 8) (.s 0) plain) (regions toAb [(regionKey 3 5, 9)])
    ((first s).any fun x => x.seq = 0 && x.status.isNone && !x.moved && x.beats = 0 && x.claims.isEmpty &&
        sideRegion x.sourceCode = some 3 && sideRegion x.destCode = some 0) && coreFree (s.coreAt 0) &&
      takes (.copyComplete 0 0 0) s fun t => t.regionByte 0 0 0 0x105 = some 9 &&
        (first t).any fun x => x.status = some (statusWord 2 false 0 0),
    -- a source on a page that is not mapped
    let s := after (.cpy (.s 8) (.s 0) plain) ((scalars homeCcp [(2, 64), (3, 0x97)]).modThread ccp fun th =>
      { th with tregs := [(7, { freshTReg with base := 2 ^ 40, limit := 0 })] })
    ((first s).any fun x => match copyParts s 0 0 x.source false false (x.field 0) 64 with
      | .error (code, _) => decide (4 ≤ code) && takes (.copyStop 0 0 0 false) s fun t => (first t).any fun y =>
          y.status = some (statusWord 0 false 0 code)
      | .ok _ => false),
    -- the acknowledgements of a CPYM have come
    let s := (after (.cpym (.s 8) (.s 0) ringOne)
      (ringed (scalars homeCcp [(2, 64), (3, 0xB8), (4, 0x10200)]) aRing)).modThread ccp fun th =>
        { th with cmds := th.cmds.map fun x => { x with moved := true, claims := [], acks := [] } }
    takes (.copyComplete 0 0 0) s fun t => (first t).any fun y => y.status = some (statusWord 0 false 0 0)] = true := by
  decide +kernel

/-- A handler of the page fault of `logged` runs, of a store where asked. -/
def paging (s : State) (e : LogEntry) : State := withLog (handling s .page none true) [e]
/-- The page pool at 0x8_0000 offers the frame at 0x9_0000. -/
def pooled (s : State) : State :=
  let s := s.modPart 0 fun p => { p with pool := 0x80 }
  (s.writeMem s.boot.moduleKey 0x80000 (leBytes 4 1) false).writeMem s.boot.moduleKey 0x80010 (leBytes 4 9) false

theorem witness_FaultHandlerWords : allOf [
    -- no record; one due; one queued
    writes (.fltq (.s 4)) (supervisor home) (.s 4) 0 0,
    waits (.fltq (.s 4)) (paging home { logged with queued := [] }) .records fun c => recordsDue c.thread = 1,
    leads (.fltq (.s 4)) ((paging home logged).modCore 0 fun k => { k with faultQ := [⟨0, 0, 0x50000, .load, 0, 1, 0⟩] })
      (fun _ _ _ => true) (fun c => (recordsHere c.core c.ref).length = 1)
      fun c t _ => t.register c.ref c.slot (.s 4) 0 = some 0x50000 && (t.coreAt 0).faultQ.isEmpty,
    -- an address beyond the space, no pool frame, and a page that the pool fills: the leaf entry of 2^36 stands in the table
    writes (.mapft (.s 8) (.s 0)) (scalars (supervisor home) [(1, 0x1000000)]) (.s 8) 0 2,
    (runs (.mapft (.s 8) (.s 0)) (scalars (supervisor home) [(0, 0x50000)]) fun c =>
      match findEntry (supervisor home) (home.partAt 0).key (c.pair (.s 0)) [3, 2, 1] (rootOf (home.partAt 0)) with
      | .error n => writes (.mapft (.s 8) (.s 0)) (scalars (supervisor home) [(0, 0x50000)]) (.s 8) 0 n
      | .ok _ => false),
    runs .replay (supervisor home) fun c => !c.pageHandler && takes .replay (supervisor home) fun t =>
      thread t wave fun th => (th.paths.slot0.park.map (·.cause)) = some .illegal,
    leaves .replay (paging home { logged with depth := 1 }) (fun c => c.pageHandler && storesDrained c.thread && c.entriesBelow.isEmpty)
      (fun c => c.passed .nop),
    runs (.cancel (.s 1)) (supervisor home) fun c => !c.pageHandler,
    leads (.cancel (.s 1)) (paging (scalars home [(1, 0xFFFFFFFF)]) logged) onlyThread
      (fun c => c.pageHandler && c.entriesBelow = [logged] && logged.mask ≠ 0)
      fun _ _ th => th.log.isEmpty && th.late.length = 1] = true := by
  decide +kernel

theorem witness_HaltsAndSideSteps : allOf [
    leads (.haltb (.s 1)) (supervisor (scalars home [(1, 1)])) (fun _ _ _ => true) any
      fun _ t _ => block t fun b => b.halted && b.exempt = some 0,
    leads (.resumeb (.s 1)) (onBlock (supervisor (scalars home [(1, 1)])) fun b => { b with halted := true }) (fun _ _ _ => true)
      (fun c => c.block.breaks.isEmpty && c.block.edits.isEmpty) fun _ t _ => block t fun b => !b.halted,
    leaves .drain (supervisor home) any (fun c => c.passed .nop),
    leads .vsflush (supervisor (bound home)) (fun _ _ _ => true) (fun c => c.core.entries.all fun x => x.2.state != .pending)
      fun _ t _ => (t.coreAt 0).entries.all fun x => x.2.state == .dead && x.2.traps,
    waits .vsflush (onWave pending fun th => { th with
        saved := [savedTrap home (trapOf .illegal) (some (.slot false)) true] }) .system fun c =>
      c.core.entries.any fun x => x.2.state == .pending,
    -- a residue check of unit 4, where TESTEN allows it, and kinds that there are not or that it does not allow
    leaves (.errinj (.s 0)) ((supervisor (scalars home [(1, 4)])).modPart 0 fun p => { p with testen := 0x1F }) any
      (fun c => { c.passed .nop with arms := [.residue 4] }),
    traps (.errinj (.s 0)) ((supervisor (scalars home [(0, 4)])).modPart 0 fun p => { p with testen := 0x1F }) .illegal 0 0 any,
    traps (.errinj (.s 0)) (supervisor (scalars home [(1, 4)])) .privileged 0 0 any,
    let s := onWave home fun th => { th with faulted := [{ logged with queued := [] }] }
    takes (.pageFaultLog wave) s fun t => thread t wave fun th => th.log.length = 1 && th.faulted.isEmpty,
    let s := withLog home [{ logged with queued := [] }]
    thread s wave (fun th => (nextRecord th).isSome) && takes (.faultRecordEnqueue wave) s fun t => (t.coreAt 0).faultQ.length = 1,
    let s := onWave (parkedAt split (trapOf .trap)) fun th => th.modSlot true fun x => { x with since := 4096 }
    thread s wave (fun th => overLimit th = some true) && takes (.trapWaitLimit wave) s fun t => thread t wave fun th =>
      th.paths.slot1.stopped,
    let s := onWave home fun th => { th with restarting := true, rgnpc := 0x20041 }
    takes (.regionRestart wave) s fun t => thread t wave fun th => th.paths.slot0.pc = 0x20044 && !th.restarting] = true := by
  decide +kernel

/-! ### Pre-emption, launches, power -/

/-- Partition 0 is funded and has a context area at 0x10_0000. -/
def funding (s : State) : State := s.modPart 0 fun p => { p with balance := 10, areaBase := 0x100000, areaSize := 0x100000 }
/-- A launch descriptor of one block of one wave that uses no region, ring or ladder. -/
def smallDesc : List Byte :=
  leBytes 8 0x20000 ++ zeros 24 ++ leBytes 4 1 ++ leBytes 2 1 ++ leBytes 2 1 ++ leBytes 4 0x00001801 ++ zeros 16 ++ leBytes 4 1 ++
    leBytes 2 1 ++ zeros 62
/-- Launch 0 uses no region. -/
def small : State := home.modLaunch 0 fun l => { l with desc := smallDesc }
/-- Launch 1 waits for a core. -/
def another (s : State) : State :=
  { s with launches := insert s.launches 1 { noLaunch with desc := smallDesc, nblk := 1, state := .dispatching }, nextLaunch := 2 }
/-- A launch of one block of 21 waves, with a slice of 100 µs. -/
def crowdedDesc : List Byte :=
  leBytes 8 0x20000 ++ zeros 24 ++ leBytes 4 1 ++ leBytes 2 1 ++ leBytes 2 1 ++ leBytes 4 0x00001815 ++ zeros 16 ++ leBytes 4 1 ++
    leBytes 2 1 ++ zeros 46 ++ leBytes 4 100 ++ zeros 12
/-- Core 0's block holds 21 waves of launch 0, its slice over, and launch 1 waits. -/
def crowding : State :=
  let s := another (funding home)
  let s := s.modLaunch 0 fun l => { l with desc := crowdedDesc }
  onBlock s fun b =>
    { b with
      waves := 21
      expired := true
      threads := (List.range 21).map fun n => (n, freshThread false n (n % 4) 192 0x20000 0x40000) }
/-- And every other core is closed by a maintenance window. -/
def crowded : State :=
  { crowding with cores := crowding.cores ++ (List.range 1151).map fun n => (n + 1, { freshCore with maint := [1] }) }

/-- The launch of `another`. -/
def second : Launch := { noLaunch with desc := smallDesc, nblk := 1, state := .dispatching }
/-- Its one block, waiting. -/
def itsBlock : Waiting := ⟨1, [(0, 0, 0)], false⟩

/-- A list of equal entries under rising keys, read at one of them. -/
theorem find_filled {α : Type} (v : α) (c : Nat) : ∀ xs : List Nat, c ∈ xs → find (xs.map fun n => (n + 1, v)) (c + 1) = some v
  | [], h => by cases h
  | x :: xs, h => by
    simp only [List.map_cons, find]
    split
    · rfl
    · exact find_filled v c xs (by simpa [show c ≠ x by omega] using h)

/-- Every core of `crowded` but core 0 is empty and closed. -/
theorem crowded_core (c : Nat) (h : c < 1151) : crowded.coreAt (c + 1) = { freshCore with maint := [1] } := by
  have hk : crowding.cores.map (·.1) = [0] := by decide +kernel
  obtain ⟨⟨j, k⟩, hx, rfl⟩ := List.map_eq_singleton_iff.1 hk
  show findD (crowding.cores ++ _) _ _ = _
  rw [hx, findD, List.singleton_append, find, if_neg (by omega), find_filled _ _ _ (List.mem_range.2 h)]
  rfl

/-- No core of `crowded` but core 0 takes a block. -/
theorem crowded_closed (c : Nat) (h : c < 1151) (l : Launch) : restFits crowded (c + 1) l = false := by
  simp [restFits, crowded_core c h, partitionFits, Core.windowOpen, freshCore]

/-- A search that skips every element leaves what it had. -/
theorem foldl_skip {α β : Type} (f : Option β → α → Option β) (xs : List α) (m : Option β)
    (h : ∀ x ∈ xs, ∀ m, f m x = m) : xs.foldl f m = m := by
  induction xs generalizing m with
  | nil => rfl
  | cons x xs ih =>
    rw [List.foldl_cons, h x (by simp)]
    exact ih m fun y hy => h y (by simp [hy])

/-- Launch 1 fits on no core. -/
theorem crowded_full : fitsSomewhere crowded itsBlock = false := by
  have h0 : startAt crowded itsBlock 0 = none := by decide +kernel
  unfold fitsSomewhere
  rw [List.any_eq_false]
  intro c hc
  have hc' : c < 1152 := List.mem_range.1 hc
  rcases c with _ | c
  · simp [h0]
  · unfold startAt
    split
    · simp
    · split
      · simp
      · simp [placesFrom, itsBlock, rectCore]
        split <;> simp [coreFits, crowded_closed c (by omega)]

/-- A launch's one waiting cluster that fits nowhere. -/
theorem stuck_of {s : State} {l : Launch} {w : Waiting} (h1 : s.launchAt w.launch = some l) (h2 : waitingOf s l.partition = [w])
    (h3 : fitsSomewhere s w = false) : stuckWaiting s w.launch = some (w, l) := by
  simp [stuckWaiting, h1, h2, h3]

/-- Launch 1 waits for a core. -/
theorem witness_ContextSteps_waits : stuckWaiting crowded 1 = some (itsBlock, second) :=
  stuck_of (w := itsBlock) (by decide +kernel) (by decide +kernel) crowded_full

/-- The one waiting cluster of partition 0, which has tokens, fits nowhere. -/
theorem nowhere_of {s : State} {w : Waiting} (h1 : funded s 0 = true) (h2 : waitingOf s 0 = [w])
    (h3 : fitsSomewhere s w = false) : waitingNowhere s = some w := by
  have hp : List.range partitionCount = 0 :: (List.range 15).map (· + 1) := List.range_succ_eq_map
  simp [waitingNowhere, hp, h1, h2, h3]

/-- Launch 1 waits for core 0, whose block is over its slice. -/
theorem witness_ContextSteps_someone : waitingNowhere crowded = some itsBlock :=
  nowhere_of (by decide +kernel) (by decide +kernel) crowded_full

/-- The youngest wave of core 0 is chosen to leave. -/
theorem witness_ContextSteps_choice : leavers crowded 0 = [] ∧ bestCore crowded itsBlock second = some (0, [⟨0, 0, 20⟩]) ∧
    funded crowded second.partition = true ∧ noneLeaving crowded itsBlock 0 = true ∧
    areaHolds crowded second.partition (imageSizes crowded [⟨0, 0, 20⟩]) = true := by
  have h0 : leaversFrom crowded itsBlock second 0 = some [⟨0, 0, 20⟩] := by decide +kernel
  have hs : ∀ c, c < 1151 → leaversFrom crowded itsBlock second (c + 1) = none := by
    intro c hc
    unfold leaversFrom
    by_cases hr : colOf (c + 1) < 12 ∧ rowOf (c + 1) < 12 <;> simp [itsBlock, rectCore, hr, crowded_closed c hc]
  have room : ∀ c ∈ List.range coreCount, (!(roomFor crowded itsBlock c).any (·.given)) = true := by
    intro c hc
    rcases c with _ | c
    · decide +kernel
    · have hc : c + 1 < 1152 := List.mem_range.1 hc
      simp [roomFor, crowded_core c (by omega), freshCore]
  have cores : List.range coreCount = 0 :: (List.range 1151).map (· + 1) := List.range_succ_eq_map
  refine ⟨by decide +kernel, ?_, by decide +kernel, by decide +kernel, by decide +kernel⟩
  have h : attemptAt crowded itsBlock = none := by decide +kernel
  rw [bestCore, h, List.filter_eq_self.2 room, cores, List.foldl_cons, List.foldl_map, foldl_skip]
  · rw [h0]
  · intro c hc m
    rw [hs c (List.mem_range.1 hc)]

/-- Wave 0 has begun to leave. -/
def leaving (s : State) : State := onWave s fun th => { th with evict := .leaving 0 }

/-- Wave 0 has been evicted to the start of the context area. -/
def evicted : State :=
  let s := onBlock (funding home) fun b => { b with threads := b.threads.filter fun x => x.1 ≠ 0, out := [0] }
  s.modPart 0 fun p =>
    { p with
      evicted := [{ launch := 0, blklin := 0, core := 0, wave := some 0, places := [(0, 0, waveSize 192)], beside := [],
                    rpois := [], rank := 0, cb2Loaded := false, cb2 := [], cluster := 0 }] }

theorem witness_ContextSteps_waves : allOf [
    let s := leaving (vectors (funding home) [5])
    ((leavers s 0).find? fun x => savable s x.1 x.2).isSome && areaRoom 0x100000 (usedRanges (s.partAt 0)) (waveSize 192) = some 0 &&
      !badPlace s 0 [(0, waveSize 192)],
    -- a sector of its place holds an error
    let s := poisonSector (leaving (funding home)) (physKey 0x100000 / 32)
    badPlace s 0 [(0, waveSize 192)] && takes (.waveEviction 1 0) s fun t => block t (·.aborted),
    -- it may come back
    serveNext evicted = some 0 && (heldRoom evicted 0).isNone && !movesTo evicted 0 && (restorable evicted 0).any (fun m => m.wave = some 0 && m.places = [(0, 0, waveSize 192)]) &&
      (slotOn evicted 0 0 0).isSome && (evicted.launchAt 0).any (fun l => wavesFit (evicted.coreAt 0) l 1) &&
      !anyPoison evicted.poison (physKey 0x100000) (waveSize 192),
    -- a load in flight keeps it, and the eviction is abandoned
    let s := (leaving (after (.ldg (.v 4) (.v 0) 3 2 0) access)).modCore 0 fun k =>
      { k with room := some { launch := 1, first := 0, start := 0, passed := [], given := false } }
    thread s wave (fun th => !drained s wave th) && takes (.evictionAbandon wave) s fun t => thread t wave fun th =>
      th.evict = .here && (t.coreAt 0).room.any fun r => r.passed = [waveKey wave],
    let s := onBlock (leaving (after (.ldg (.v 4) (.v 0) 3 2 0) access)) fun b => { b with leaving := some none }
    takes (.evictionAbandon wave) s fun t => block t fun b => b.leaving.isNone] = true := by
  decide +kernel

/-- Core 0 is above 95 °C. -/
def warm (s : State) : State := s.modCore 0 fun k => { k with gear := { k.gear with celsius := 96, offered := true } }

theorem witness_ContextSteps_blocks : allOf [
    -- a slice of 100 µs ends
    let s := onBlock crowding fun b => { b with expired := false }
    block s (fun b => b.threads.any fun x => !x.2.expired) && takes (.timeSliceExpiry 0 0) s fun t => block t fun b =>
      b.threads.all (·.2.expired),
    -- a launch that waits (`witness_ContextSteps_someone`) for an expired block
    block crowded fun b => b.leaving.isNone && b.expired && leavesFor crowded itsBlock 0 0 b = [(0, 0)] && mayLeave crowded 0 0 &&
      areaHolds crowded 0 (blockSizes crowded b),
    -- the block drains and is saved, or has no room
    let s := onBlock (funding small) fun b => { b with leaving := some none }
    blockDrained s 0 0 && !blockPlaceBad s 0 0 && block s (fun b => leavesWith s 0 0 b = [(0, 0)]) && (saveBlock s 0 0).isSome,
    let s := onBlock home fun b => { b with leaving := some none }
    (saveBlock s 0 0).isNone && takes (.blockEviction 0 0) s fun t => block t fun b => b.leaving.isNone,
    -- migration to core 1
    let s := warm (funding small)
    block s (fun b => !barred s b && moveFits s 0 1 b && areaHolds s 0 (blockSizes s b)) && takes (.migration 0 0 1) s fun t =>
      block t fun b => b.leaving = some (some 1),
    -- the area has no room; the block has been halted meanwhile
    let s := warm small
    block s (fun b => !barred s b && !areaHolds s 0 (blockSizes s b)) && takes (.migration 0 0 1) s fun t => t = s,
    let s := onBlock (warm (funding small)) fun b => { b with leaving := some (some 1), halted := true }
    takes (.migration 0 0 1) s fun t => block t fun b => b.leaving.isNone,
    let s := onBlock (warm home) fun b => { b with halted := true }
    block s (fun b => barred s b) && takes (.migration 0 0 1) s fun t => t = s,
    let s := onBlock (warm (funding small)) fun b => { b with leaving := some (some 1), threads := [] }
    let shut := s.modCore 1 fun k => { k with maint := [1] }
    (block shut (fun b => !targetTakes shut 0 1 b) && blockDrained shut 0 0 && takes (.migration 0 0 1) shut fun t => block t fun b =>
      b.leaving.isNone) && block s (fun b => !barred s b && targetTakes s 0 1 b) && blockDrained s 0 0 && !blockPlaceBad s 0 0 &&
      (saveBlock s 0 0).any (fun x => (restoreAt x.1 0 x.2 1).isSome)] = true := by
  decide +kernel

theorem witness_LaunchSteps : allOf [
    (placeDue (another (funding home)) 1 1).any (fun x => x.2 = [(1, 0, 0)]) && !detResident (another (funding home)) 1 &&
      takes (.blockPlacement 1 1) (another (funding home)) fun t => (t.blockAt 1 0).any fun b => b.launch = 1 && b.threads.length = 1,
    -- launch 0 waits at the head of its queue: its constants are at 0x3_0000
    let s := home.modLaunch 0 fun l => { l with state := .waiting }
    (snapshotDue s 0).any (fun x => (bankParts s x.partition x.kbank).any fun ps =>
        let a : LaneAccess := { lane := 0, va := x.kbank, parts := ps, remote := x.asked }
        !a.isRemote s && remoteEnd s a = .data && !(readAll s x.partition a).2) && rising s.launches &&
      takes (.constantSnapshot 0) s fun t => (t.launchAt 0).any fun l => l.state = .dispatching,
    let s := (home.modLaunch 0 fun l => { l with state := .waiting }).modPart 0 fun p => { p with ptroot := 0x40000 }
    (snapshotDue s 0).any (fun x => (bankParts s x.partition x.kbank).isNone) && takes (.constantSnapshot 0) s fun t =>
      (t.launchAt 0).any fun l => l.state = .failed && l.reason = 1,
    let s := (home.modCore 0 fun k => { k with blocks := [] }).modLaunch 0 fun l => { l with ended := [0] }
    (retireDue s 0).any (fun x => x.doneCounters.Nodup) && takes (.launchRetire 0) s fun t => (t.launchAt 0).any fun l =>
      l.state = .done,
    -- the partition pays; it borrows when it has nothing
    takes .tokenCharge (funding home) fun t => (t.partAt 0).balance = 9,
    takes .tokenCharge (home.modPart 1 fun p => { p with balance := 5 }) fun t => (t.partAt 1).balance = 4 &&
      findD (t.partAt 0).debts 1 0 = 1,
    takes .tokenRefill (funding home) fun t => (t.partAt 0).balance = 115210,
    takes .tokenRefill (home.modPart 0 fun p => { p with debts := [(1, 7)] }) fun t => (t.partAt 0).balance = 115193 &&
      (t.partAt 0).debts.isEmpty && (t.partAt 1).balance = 7] = true := by
  decide +kernel

/-- A sample of core 0. -/
def sample : CoreSample := { core := 0, cap := 0, stalled := 1, cycles := 4, celsius := 50 }

theorem witness_PowerSteps : allOf [
    (home.cores.map (·.1)).Nodup && takes .lifetimeSave home fun t => (find t.boot.saved 0).isSome,
    takes .rackcapLeaseExpiry { home with rack := { seq := 1, watts := 5000, lease := some 3 } } fun t => t.rack.watts = 3080,
    -- every core at cap level 2 is always allowed
    samplesFit home [sample] = decide (budgetOf ((List.range coreCount).map (capAfter home [sample])) ≤ 44000),
    samplesFit { home with rack := { home.rack with watts := 100000 } } [sample] && pointFits ⟨0, 1, 0xFFFF, 2⟩ &&
      takes (.powerInterval [sample] [⟨0, 1, 0xFFFF, 2⟩]) { home with rack := { home.rack with watts := 100000 } } fun t =>
        (t.coreAt 0).gear.celsius = 50 && (t.coreAt 0).gear.stallr = 0x4000,
    takes (.ldoDroop 1151) home fun t => (t.coreAt 1151).life.droops = 1,
    let s := onBlock home fun b => { b with request := 1 }
    shiftDue s 0 && takes (.gearShiftStart 0) s fun t => (t.coreAt 0).gear.shift = some ⟨true, 0⟩,
    takes (.gearShiftEnd 0) (home.modCore 0 fun k => { k with gear := { k.gear with shift := some ⟨true, 0⟩ }, fifo := [(.waveEnd wave, 1)] })
      fun t => (t.coreAt 0).gear.point = ⟨true, 0⟩ && t.agenda = [.waveEnd wave],
    -- the one wave of an AUTOP launch waits
    let s := onBlock (after (.waitb 0 (.s 1)) (lflags (scalars home [(1, 1)]) 32)) fun b =>
      { b with threads := b.threads.filter fun x => x.1 ≠ 32 }
    autoHolds s 0 && !detResident s 0 && takes (.autoProof 0) s fun t => (t.coreAt 0).gear.auto,
    takes (.thermalLimit 0 105) home fun t => (t.coreAt 0).gear.offered && !(t.coreAt 0).gear.hot,
    detResident (lflags home 1) 0 && takes (.thermalLimit 0 106) (lflags home 1) fun t => (t.launchAt 0).any fun l =>
      l.state = .failed && l.reason = 3] = true := by
  decide +kernel

/-! ### The fabric, the hosts and boot -/

/-- A read of one flit toward module 1, message 9. -/
def asked : Sending := { vl := 0, home := 1, number := 9, count := 1 }
/-- Port 3 of the module, and what the module keeps toward module 1: message 9 waits for its response. -/
def linking (s : State) (x : Port) : State := { s with fabric := { s.fabric with
  ports := [(3, x)]
  toward := [(1, { freshToward with next := 10, waiting := [{ msg := ⟨0, 1, 9, 0, 0x50000, false, .read 4⟩, part := 0 }] })]
  windows := [(0, { r := true, w := true, tenancy := 0, base := 0x50000, size := 1 })] } }
/-- A port that is up, with flits of SEQ 5 and 6 unacknowledged, two credits of lane 0 used and SEQ 0 expected. -/
def busyPort : Port := { freshPort with up := true, unacked := [⟨5, 4, asked⟩, ⟨6, 4, asked⟩], credits := [(0, 2)] }
/-- Port 3 is that port. -/
def linked : State := linking home busyPort
/-- A request of module 1 for this module's memory. -/
def asks (op : RemoteOp) : RemoteMsg :=
  { source := 1, home := 0, number := 4, tenancy := 0, addr := 0x50000, poison := false, op := op }
/-- A message of some flits on a lane, as the next that come on port 3. -/
def comes (vl count : Nat) : Landing := ⟨3, ((flitKinds count).zip (List.range count)).map fun x => flitHeader x.1 vl x.2⟩
/-- The message lands whole. -/
def lands (s : State) (vl count : Nat) : Bool := match s.land (comes vl count) [vl] count with
  | .whole _ => true
  | _ => false

/-- A contribution to group 2 of partition 0, whose root is module 5. -/
def share (m : Nat) (x : Int) : Contribution where
  modules := [m]
  partition := 0
  group := 2
  round := 0
  contributors := 3
  root := 5
  count := 1
  types := 0x1100
  sums := [some x]
  status := 0
  poison := false
/-- The contribution as it comes: two flits on lane 3. -/
def shareIn (m : Nat) (x : Int) : ContributionIn := { via := comes 3 2, source := m, number := 1, sum := share m x }

/-- It lands whole at a hop that has room, for the first time. -/
def gathers (s : State) (c : ContributionIn) : Bool :=
  (match s.land c.via [3] (sumFlits c.sum) with
    | .whole v => !hopFull v c.sum
    | _ => false) && s.boot.stage = 7 && c.sum.root ≠ s.fabric.module &&
    notApplied (findD s.fabric.hopDups (c.source * 2048 + c.sum.root) freshDup) c.number

/-- The CCP's REDX of 64 bytes has left with round 0. -/
def reducing : State :=
  (after (.redx (.s 8) (.s 0) { plain with scope := 4 }) (scalars homeCcp [(1, 0x100), (2, 64), (3, 0x1198), (5, 2)])).modThread ccp
    fun th => { th with cmds := th.cmds.map fun x => { x with round := some 0 } }
/-- A result of group 2. -/
def result (status : Nat) (bytes : List Byte) : ReductionResult :=
  { partition := 0, group := 2, round := 0, status := status, poison := false, bytes := bytes }

theorem witness_FabricSteps_flits : allOf [
    -- an ack of SEQ 5 that returns a credit of lane 0, an ack of no flit that waits, an idle flit, and a reserved kind
    takes (.flitAck 3 0xA0058040) linked fun t => (t.portAt 3).unacked = [⟨6, 4, asked⟩] && findD (t.portAt 3).credits 0 0 = 1,
    takes (.flitAck 3 0xA0070000) linked fun t => (t.portAt 3).unacked.length = 2,
    takes (.flitAck 3 0x00008080) linked fun t => findD (t.portAt 3).credits 0 0 = 0,
    takes (.flitAck 3 0xE0000000) linked fun t => (t.portAt 3).discarding && (t.portAt 3).wire = [flitHeader 6 0 0],
    -- a credit lets a flit go that has waited for it
    takes (.flitAck 3 0x00008040) (linking home { busyPort with outbox := [(4, asked)], credits := [(0, 64)] }) fun t =>
      (t.portAt 3).outbox.isEmpty && (t.portAt 3).unacked.length = 3,
    -- a nak of SEQ 6; the eighth takes the link down
    takes (.flitNak 3 0xC0060000) linked fun t => (t.portAt 3).replaySeq = 6 && (t.portAt 3).replays = 1 &&
      (t.portAt 3).wire = [flitHeader 4 0 6],
    takes (.flitNak 3 0xC0060000) (linking home { busyPort with replaySeq := 6, replays := 7 }) fun t => t.agenda = [.linkDown 3],
    -- flits are discarded; the first unacknowledged flit was made bad, so that nothing acknowledges it
    let s := linking home { busyPort with discarding := true }
    takes (.flitAck 3 0xA0058040) s (fun t => t.portAt 3 = s.portAt 3) && takes (.flitNak 3 0xC0060000) s fun t => t.portAt 3 = s.portAt 3,
    takes (.flitAck 3 0xA0058040) (linking home { busyPort with injected := some 5 }) fun t => (t.portAt 3).unacked.length = 2,
    takes (.uncorrectableCodeword 3) linked fun t => (t.portAt 3).discarding && (t.portAt 3).wire = [flitHeader 6 0 0],
    -- the link goes down: no route is left, or port 4 takes the message
    let s := linking home { freshPort with up := true, unacked := [⟨5, 4, asked⟩] }
    takes (.linkDown 3) s fun t => (t.towardAt 1).failed = [9] && !(t.portAt 3).up,
    let s := (linking home { freshPort with up := true, unacked := [⟨5, 4, asked⟩] }).modPort 4 fun x => { x with up := true }
    takes (.linkDown 3) { s with fabric := { s.fabric with routes := [(1, 0x18)] } } fun t =>
      (t.portAt 4).unacked = [⟨0, 4, asked⟩] && (t.towardAt 1).failed.isEmpty,
    takes (.linkTrainingComplete 35) { linked with fabric := { linked.fabric with named := true } } fun t => (t.portAt 35).up &&
      t.fabric.trained,
    -- a message of one flit: the next in order, and one that is not
    (match linked.land (comes 0 1) [0] 1 with
      | .whole u => (u.portAt 3).expected = 1 && (u.portAt 3).wire = [withCredits (flitHeader 5 0 0) 0 1]
      | _ => false),
    (match linked.land ⟨3, [flitHeader 4 0 9]⟩ [0] 1 with
      | .dropped u => u.portAt 3 = linked.portAt 3
      | _ => false)] = true := by
  decide +kernel

theorem witness_FabricSteps_accesses : allOf [
    -- a request whose flit is discarded
    takes (.remoteRequest ⟨3, [flitHeader 4 0 9]⟩ (asks (.read 4))) linked fun t => t.fabric.sent.isEmpty,
    -- requests: refused by no window, read, written, and to a sealed frame
    lands linked 0 1 && takes (.remoteRequest (comes 0 1) (asks (.read 4))) { linked with fabric := { linked.fabric with windows := [] } } fun t =>
      t.fabric.sent.any (·.refused),
    windowTakes linked (asks (.read 4)) && notApplied (findD linked.fabric.dups 1 freshDup) 4 &&
      takes (.remoteRequest (comes 0 1) (asks (.read 4))) (linked.writeMem linked.boot.moduleKey 0x50000 [1, 2, 3, 4] false) fun t =>
        (t.fabric.sent.any fun r => r.bytes.length = 4 && !r.refused),
    lands linked 2 2 && !meetsSeal linked (asks (.write [7])) && takes (.remoteRequest (comes 2 2) (asks (.write [7]))) linked fun t =>
      t.readByte (tenancyKey linked 0) 0x50000 = 7,
    takes (.remoteRequest (comes 2 2) (asks (.write [7]))) { linked with seals := [(5, 1)] } fun t => t.fabric.sent.any (·.sealed),
    -- a response to message 9, and one to no message
    takes (.remoteResponse (comes 1 2) ⟨1, 9, false, false, false, [1, 2, 3, 4]⟩) linked fun t => (t.towardAt 1).replies.length = 1 &&
      (t.towardAt 1).waiting.isEmpty,
    takes (.remoteResponse (comes 1 2) ⟨1, 8, false, false, false, [1, 2, 3, 4]⟩) linked fun t => t.towardAt 1 = linked.towardAt 1,
    takes (.remoteTimeout 1 9) linked fun t => (t.towardAt 1).failed = [9] && t.host.sent.length = 1] = true := by
  decide +kernel

theorem witness_FabricSteps_reductions : allOf [
    -- contributions on their way to module 5: a first, one taken before, and one of a round of which the hop holds a sum
    gathers linked (shareIn 1 3),
    let s := { linked with fabric := { linked.fabric with hopDups := [(2053, { freshDup with highest := 1, applied := [1] })] } }
    lands s 3 2 && takes (.reductionContribution (shareIn 1 3)) s fun t => t.fabric.gathered.isEmpty,
    let s := { linked with fabric := { linked.fabric with gathered := [share 1 3], routes := [(5, 8)] } }
    gathers s (shareIn 2 4) && sameRound (share 2 4) (share 1 3) && !(livePorts s 5).isEmpty &&
      addContribution (share 1 3) (share 2 4) = { share 1 7 with modules := [1, 2], count := 2 },
    -- a result of 64 bytes from another root, and a status of RMIS from this one
    let s := linking reducing { freshPort with up := true }
    (participants s (result 0 (List.replicate 64 5))).length = 1 && lands s 4 3 &&
      takes (.reductionResult { via := some (comes 4 3), result := result 0 (List.replicate 64 5) }) s fun t =>
        t.regionByte 0 0 0 0x13F = some 5 && (first t).any fun x => x.status = some (statusWord 1 false 0 0),
    takes (.reductionResult { via := none, result := result 13 [] }) reducing fun t =>
      (first t).any fun x => x.status = some (statusWord 0 false 0 13)] = true := by
  decide +kernel

/-- A record of the hypervisor on queue 128 or 129, or of job 7 of partition 0, with its header (R337). -/
def record (type queue part hseq : Nat) (payload : List Byte) : HostRecord where
  hypervisor := 128 ≤ queue && queue ≠ 255
  job := 7
  granted := false
  secured := true
  bytes := leBytes 1 1 ++ zeros 1 ++ leBytes 2 type ++ leBytes 2 queue ++ leBytes 2 part ++ leBytes 4 (32 + payload.length) ++ zeros 4 ++
    leBytes 8 hseq ++ zeros 8 ++ payload
/-- Job 7 is partition 0's, and no block is resident. -/
def hosted : State := (home.modPart 0 fun p => { p with jobs := [7] }).modCore 0 fun k => { k with blocks := [] }
/-- Job 7 is partition 0's, and its block is halted. -/
def haltedHost : State := onBlock (home.modPart 0 fun p => { p with jobs := [7] }) fun b => { b with halted := true }

/-- A response to an SPDM request is being formed. -/
def forming (request : List Byte) (ready : Nat) : State :=
  let x : Exchange :=
    { queue := 128, part := 0xFFFF, stream := 16, hseq := 1, request := request, meas := [], number := 0, ready := ready }
  { hosted with boot := { hosted.boot with forming := some x } }

/-- The record is well formed, reachable and the next of its queue. -/
def acceptable (r : HostRecord) (s : State) : Bool :=
  (senderOf s r).any (fun x => portsTake s r.type && !malformedRecord r && reachable r x) &&
    r.hseq = (findD s.host.queues r.queue freshQueue).accepted + 1
/-- And the step takes it. -/
def accepted (i : HostRecord → Instr) (r : HostRecord) (s : State) (q : State → Bool) : Bool :=
  acceptable r s && takes (i r) s fun t => (findD t.host.queues r.queue freshQueue).accepted = r.hseq && q t

/-- The STATUS of the last event sent. -/
def lastStatus (t : State) : Option Nat := t.host.sent.getLast?.map fun e => leAt e.2 12 2

theorem witness_HostRecords_order : allOf [
    -- malformed: LEN is not that of the layout; out of reach: another partition's queue; a repeat and a gap
    (senderOf hosted (record 3 0 0 1 (zeros 16))).isSome && malformedRecord (record 3 0 0 1 (zeros 16)) &&
      takes (.ctrread (record 3 0 0 1 (zeros 16))) hosted fun t => lastStatus t = some 5,
    let r := record 3 8 1 1 (leBytes 8 1)
    !malformedRecord r && (senderOf hosted r).any (fun x => !reachable r x) && takes (.ctrread r) hosted fun t => lastStatus t = some 4,
    let r := record 3 0 0 0 (leBytes 8 1)
    !malformedRecord r && takes (.ctrread r) hosted fun t => t.host.sent.isEmpty,
    takes (.ctrread (record 3 0 0 2 (leBytes 8 1))) hosted fun t => lastStatus t = some 2] = true := by
  decide +kernel

theorem witness_HostRecords_queues : allOf [
    accepted .launch (record 1 0 0 1 smallDesc) hosted fun t => (t.launchAt 1).any fun l => l.nblk = 1,
    accepted .launch (record 1 0 0 1 (zeros 128)) hosted fun t => lastStatus t = some 1,
    accepted .mbasinCancel (record 2 0 0 1 (leBytes 4 0 ++ leBytes 4 4095)) hosted fun t => ((t.partAt 0).counter 4095).canc,
    accepted .ctrread (record 3 0 0 1 (leBytes 8 4095)) hosted fun t => lastStatus t = some 0,
    accepted .ctrwrite (record 4 0 0 1 (leBytes 8 1 ++ leBytes 8 (2 ^ 63 + 5))) hosted fun t => (t.partAt 0).counter 1 = ⟨true, 5⟩,
    accepted .statsread (record 7 0 0 1 (zeros 8)) hosted fun t => lastStatus t = some 0,
    accepted .redgrp (record 8 0 0 1 (leBytes 4 2 ++ leBytes 4 3 ++ leBytes 8 5)) hosted fun t =>
      find (t.partAt 0).groups 2 = some ⟨3, 5⟩,
    accepted .redgrp (record 8 0 0 1 (leBytes 4 2 ++ zeros 12)) (hosted.modPart 0 fun p => { p with groups := [(2, ⟨3, 5⟩)] }) fun t =>
      (t.partAt 0).groups.isEmpty,
    accepted .spdm (record 9 128 0xFFFF 1 (leBytes 8 0x0013)) hosted fun t => t.boot.exchanges = 1,
    accepted .spdm (record 9 128 0xFFFF 1 (leBytes 8 0x0013)) (forming [0x10, 0x84, 0, 0] 5) fun t => t.boot.exchanges = 0 &&
      t.host.sent.length = 1,
    -- GET_VERSION is being answered: the response is ready at tick 5
    settleSecurity (forming [0x10, 0x84, 0, 0] 5) = forming [0x10, 0x84, 0, 0] 5,
    (settleSecurity { (forming [0x10, 0x84, 0, 0] 5) with tick := 5 }).host.sent.length = 1,
    accepted .extend (record 0x1C 128 0xFFFF 1 (leBytes 8 7 ++ zeros 48)) (forming [0x13, 0xE0, 1, 0] 5) fun t =>
      t.boot.waiting.length = 1 && t.host.sent.isEmpty,
    -- a seal of the one page that holds 64 KiB at 0 is a seal of the whole leaf
    (leafEntry hosted 0 0 [3, 2, 1, 0] (rootOf (hosted.partAt 0))).isSome] = true := by
  decide +kernel

/-- Partition 0's tables map one page of 64 KiB at address 0 to the frame at 0x9_0000: root 0x1_0000, then 0x1_2000, 0x1_4000 and
0x1_6000. -/
def smallPage : State :=
  let k := (hosted.partAt 0).key
  let s := hosted.writeMem k 0x12000 (leBytes 8 0x14001) false
  let s := s.writeMem k 0x14000 (leBytes 8 0x16001) false
  { s.writeMem k 0x16000 (leBytes 8 0x90047) false with launches := [] }

theorem witness_HostRecords_seals : allOf [
    let r := record 5 0 0 1 (leBytes 8 0 ++ leBytes 8 65536)
    !partitionRuns smallPage 0 &&
      (match leafEntry smallPage (smallPage.partAt 0).key 0 [3, 2, 1, 0] (rootOf (smallPage.partAt 0)) with
       | some (_, e, level) => level = 0 && isLocal smallPage (entryAddr e) && e = 0x90047
       | none => false) &&
      accepted .sealSegment r smallPage fun t => findD t.seals 9 0 = 1 && t.readMem (t.partAt 0).key 0x16000 1 = [0x4F],
    accepted .unsealSegment (record 6 0 0 1 (leBytes 8 0 ++ leBytes 8 65536)) { smallPage with seals := [(9, 2)] } fun t =>
      findD t.seals 9 0 = 1] = true := by
  decide +kernel

theorem witness_HostRecords_module : allOf [
    let r := record 0x10 128 0 1 (leBytes 4 (2 ^ 31 + 7) ++ zeros 12 ++ leBytes 2 9 ++ leBytes 1 1 ++ zeros 5 ++ leBytes 8 0x2000 ++
      leBytes 8 0x1000 ++ leBytes 4 0x40 ++ zeros 4)
    !badPartition r && !partitionResident hosted 0 && accepted .partcfg r hosted fun t => (t.partAt 0).tenancy = 9 &&
      (t.partAt 0).key = hosted.nextKey && (t.partAt 0).tss && (t.partAt 0).pool = 1,
    acceptable (record 0x11 128 0xFFFF 1 (List.replicate 1152 3)) hosted,
    accepted .budget (record 0x12 128 0 1 (leBytes 8 5 ++ leBytes 8 6 ++ leBytes 8 7)) hosted fun t => (t.partAt 0).refill = 5 &&
      (t.partAt 0).allowance = 70,
    accepted .ctxarea (record 0x13 128 0 1 (leBytes 8 0x10000 ++ leBytes 8 0x20000)) hosted fun t => (t.partAt 0).areaSize = 0x20000,
    accepted .rackcap (record 0x14 128 0xFFFF 1 (leBytes 8 1 ++ leBytes 4 4000 ++ leBytes 4 9)) hosted fun t =>
      t.rack = ⟨1, 4000, some 9⟩,
    accepted .modid (record 0x15 128 0xFFFF 1 (leBytes 8 2047)) hosted fun t => t.fabric.module = 2047 && t.fabric.named,
    accepted .route (record 0x16 128 0xFFFF 1 (leBytes 8 1 ++ leBytes 8 (2 ^ 36 - 1))) hosted fun t =>
      findD t.fabric.routes 1 0 = 2 ^ 36 - 1,
    accepted .window (record 0x17 128 0xFFFF 1 (leBytes 1 63 ++ leBytes 1 3 ++ leBytes 2 9 ++ leBytes 4 2 ++ leBytes 8 0x10000)) hosted
      fun t => find t.fabric.windows 63 = some ⟨true, true, 9, 0x10000, 2⟩,
    accepted .liferead (record 0x18 128 0xFFFF 1 (leBytes 8 1151)) hosted fun t => lastStatus t = some 0,
    accepted .maint (record 0x19 128 0xFFFF 1 (leBytes 8 1151)) hosted fun t => (t.coreAt 1151).maint = [1],
    accepted .seccfg (record 0x1B 128 0xFFFF 1 (leBytes 4 0x02020202 ++ zeros 4)) hosted fun t => alarmLevel t 3 = 2,
    accepted .extend (record 0x1C 128 0xFFFF 1 (leBytes 8 7 ++ zeros 48)) hosted fun t => lastStatus t = some 0] = true := by
  decide +kernel

theorem witness_HostRecords_debug : allOf [
    accepted .darm (record 0x24 129 0 1 (leBytes 8 1)) hosted fun t => (t.partAt 0).armed,
    let names := zeros 8 ++ leBytes 4 1 ++ zeros 12
    let r := record 0x20 129 0 1 names
    let s := onBlock haltedHost fun b => { b with halted := false }
    debugLaunch s r && !badNames r 0 && placeOf s 0 0 = some (0, 0) && accepted .dhalt r s fun t => block t (·.halted),
    accepted .dresume (record 0x23 129 0 1 (zeros 8 ++ leBytes 4 1 ++ zeros 12)) haltedHost fun t => block t fun b => !b.halted,
    -- 8 bytes of slot 0's PC and mask in wave 0's image
    let r := record 0x21 129 0 1 (zeros 12 ++ leBytes 4 48 ++ leBytes 4 8 ++ zeros 4)
    debugLaunch haltedHost r && !badImage r && acceptable r haltedHost && placeOf haltedHost 0 0 = some (0, 0),
    let r := record 0x22 129 0 1 (zeros 12 ++ leBytes 4 48 ++ leBytes 4 4 ++ zeros 4 ++ leBytes 8 0x20004)
    (List.range 4).all (fun k => (haltedHost.launchAt 0).any fun l => writable l 0 (48 + k)) && !badImage r &&
      accepted .dwrite r haltedHost fun t => block t fun b => b.edits.length = 1] = true := by
  decide +kernel

/-- A module whose boot stands at a stage. -/
def stageOf (n : Nat) : State := { State.reset with boot := { State.reset.boot with stage := n } }

/-- Training ends stage 4 with the digests of the configuration and of the fuses as they are. -/
theorem witness_BootAndPackets_train : ∃ u, exec (.bootMemoryTrain true memoryMeasured (fusesMeasured (stageOf 4))) (stageOf 4) = .next u ∧
    u.boot.stage = 5 := by
  simp [exec, execBootMemoryTrain, event, inStage, stageOf, State.reset, extendMeas]

/-- An image of version 3 with a body of 64 bytes, signed for R370 by a key made for this test with another implementation of ECDSA. -/
def signedImage : List Byte :=
  leBytes 320 (0x64ed5354fafa54a7547f178a4b051e0226ffa697fdc8a88905382a5eb6670dd513353af4c7deff0a3e6cd63a3bd394cd10d1c8550356829a5fcb58336114aa3a1a341190846fc1381720791b8e7558d62fcc05348924244f79605c797bfa96568c6dc389a56b30a7
    * 2 ^ (4 * 208) +
    0x4bd35f8c3ec70e54690be92d723fc330eb8dc5788055ae7b12d761ce1e8f8255687b65a2904b24393f13432c6ef482fd1c05b80a77e3e4590c1dcf2750aa1f88e081bbdea90c80cd09eb1ebe9d515d51df18c92621caaa5d0000000000000040000000034e494b42)
/-- The fuses hold the SHA-384 digest of its public key. -/
def keyFuses : List Byte :=
  leBytes 48 0xf283c7f2e37a8cfca6f4758815684296b40f5786a4c202b548f5ef7e7d481d8ee011fa40dfab88b3f170c57cae6e4093

/-- The image is good; with another byte of its body, its digest is not the one signed; and a rollback count above 3 refuses it. -/
theorem witness_BootAndPackets_image : allOf [
    let b := { (stageOf 3).boot with keyDigest := keyFuses, slotA := signedImage }
    verifyImage b signedImage = .good && takes .bootImageLoad { (stageOf 3) with boot := b } fun t => t.boot.stage = 4 &&
      t.boot.rollback = 3,
    let b := { (stageOf 3).boot with keyDigest := keyFuses }
    verifyImage b (signedImage.take 319 ++ [7]) = .bad 2 && verifyImage { b with rollback := 4 } signedImage = .bad 3,
    let b := { (stageOf 3).boot with keyDigest := keyFuses, recovery := true }
    takes (.recoveryImage signedImage) { (stageOf 3) with boot := b } fun t => !t.boot.recovery && t.boot.slotA = signedImage] = true := by
  decide +kernel

/-- FIPS 180-4's own digest of "abc". -/
theorem test_sha384 : sha384 [0x61, 0x62, 0x63] =
    beBytes 48 0xcb00753f45a35e8bb5a03d699ac65007272c32ab0eded1631a8b605a43ff5bed8086072ba1e7cc2358baeca134c825a7 := by
  decide +kernel

/-- FIPS 197's example of AES-256, both ways. -/
theorem test_aes256 :
    let key := List.range 32
    let clear := (List.range 16).map (· * 17)
    let coded := [0x8e, 0xa2, 0xb7, 0xca, 0x51, 0x67, 0x45, 0xbf, 0xea, 0xfc, 0x49, 0x90, 0x4b, 0x49, 0x60, 0x89]
    aesEncrypt key clear = coded ∧ aesDecrypt key coded = clear := by
  decide +kernel

theorem witness_BootAndPackets : allOf [
    takes .powerOn (stageOf 0) fun t => t.boot.stage = 2 && t.management.running,
    takes .powerOn (stageOf 1) fun t => t.boot.stage = 2,
    takes .moduleReset home fun t => t.boot.stage = 1 && !t.management.running && t.launches.isEmpty && (t.coreAt 0).blocks.isEmpty,
    takes .powerLoss home fun t => t.boot.stage = 0 && t.mem.isEmpty,
    takes (.bootRom true) (stageOf 2) fun t => t.boot.stage = 3,
    takes (.bootRom false) (stageOf 2) fun t => t.boot.alarm = .erased,
    -- no image in either slot: its header is not one
    verifyImage (stageOf 3).boot [] = .bad 1 && takes .bootImageLoad (stageOf 3) fun t => t.boot.recovery,
    let s := { (stageOf 3) with boot := { (stageOf 3).boot with recovery := true } }
    takes (.recoveryImage []) s (fun t => t.boot.recoveryStatus = 1) && takes .recoveryStatusRead s fun t => t.boot.i3c = [0],
    takes (.bootMemoryTrain false (zeros 48) (zeros 48)) (stageOf 4) fun t => t.host.sent.length = 1,
    takes (.bootComputeRails 44) (stageOf 5) fun t => t.boot.stage = 6,
    takes (.bootTempAlarm 45) (stageOf 5) fun t => t.host.sent.length = 1,
    takes .bootPortsUp (stageOf 6) fun t => t.boot.stage = 7 && t.boot.epoch = 1,
    -- tamper erases, clock halts, and a sensor at level log does neither
    takes (.securityAlarm [.tamper, .clock] 0) home fun t => t.boot.alarm = .erased && t.boot.moduleKey = 0,
    takes (.securityAlarm [.clock] 0) home fun t => t.boot.alarm = .halted,
    takes (.securityAlarm [.clock] 0) { home with boot := { home.boot with levels := [(2, 0)] } } fun t => t.boot.alarm = .clear,
    -- RMA
    rmaJob hosted 7 true 4 = some 0 && hostParts hosted 0 .store 0x50000 4 = some [(0x50000, 4)] &&
      takes (.rmaPut 7 true 0x50000 [1, 2, 3, 4]) hosted fun t => t.readMem (t.partAt 0).key 0x50000 4 = [1, 2, 3, 4] &&
        t.host.rma = [⟨7, false, []⟩],
    takes (.rmaGet 7 true 0x50000 4) (holding hosted [1, 2, 3, 4]) fun t => t.host.rma = [⟨7, false, [1, 2, 3, 4]⟩],
    takes (.rmaGet 7 true 0x50000 4) { (holding hosted [1, 2, 3, 4]) with poison := [0x50000 / 32] } fun t =>
      t.host.rma = [⟨7, true, []⟩],
    hostParts hosted 0 .store (2 ^ 50) 4 = none && takes (.rmaPut 7 true (2 ^ 50) [1, 2, 3, 4]) hosted fun t =>
      t.host.rma = [⟨7, true, []⟩],
    takes (.rmaGet 7 true (2 ^ 50) 4) hosted fun t => t.host.rma = [⟨7, true, []⟩],
    -- SYNC, a type that is none, dropped packets, and a maintenance window
    takes (.sync (record 0xFF 255 0xFFFF 1 (zeros 16))) hosted fun t => t.host.sent.length = 1,
    (queueKind 0x30).isNone && takes (.unknownRecord (record 0x30 0 0 1 [])) hosted fun t => lastStatus t = some 5,
    takes (.droppedPacket 3 .unsupported) home fun t => findD t.host.dropped 3 0 = 1,
    (takenJob hosted 8 true).isNone && takes (.droppedPacket 0 (.job 8 true)) hosted fun t => findD t.host.dropped 0 0 = 1,
    takes (.maintWindowClose 5 9999) (home.modCore 5 fun k => { k with maint := [1] }) fun t => (t.coreAt 5).gear.offset = 4 &&
      (t.coreAt 5).maint.isEmpty] = true := by
  decide +kernel

end Sys2Proof.Tests
end

/-! ## Memory stays canonical

Memory is written in few places: by the stores and atomics of waves, by copies and the results of reductions, by saved
images, by the host's puts, by the seals and first-touch leaves of page tables, and for other modules. Each of those
goes through `State.writeBytes` or `State.zeroFrame`, which keep the form. Everything else leaves `State.mem` as it is,
said once for each operation as a `simp` lemma. An instruction then keeps the form because what it is made of does, and
a step because its instruction and what settles after it do. -/

namespace Sys2Proof.Machine
open Sys2Proof

/-! ### Operations that leave memory alone -/

theorem foldl_mem {α : Type} (f : State → α → State) (hf : ∀ s x, (f s x).mem = s.mem) (xs : List α) (s : State) :
    (xs.foldl f s).mem = s.mem :=
  List.foldlRecOn xs f (motive := fun u => u.mem = s.mem) rfl fun u hu x _ => (hf u x).trans hu

theorem foldl_fst_mem {α β : Type} (f : State × β → α → State × β) (hf : ∀ s b x, (f (s, b) x).1.mem = s.mem)
    (xs : List α) (s : State) (b : β) : (xs.foldl f (s, b)).1.mem = s.mem :=
  List.foldlRecOn xs f (motive := fun u => u.1.mem = s.mem) rfl fun u hu x _ => (hf u.1 u.2 x).trans hu

theorem mem_of_map_some {α β : Type} {o : Option (State × α)} {g : State × α → State × β} {s u : State} {b : β}
    (h : o.map g = some (u, b)) (hg : ∀ x, (g x).1 = x.1) (ho : ∀ {v a}, o = some (v, a) → v.mem = s.mem) :
    u.mem = s.mem := by
  obtain ⟨⟨v, a⟩, hv, he⟩ := Option.map_eq_some_iff.mp h
  have hu : u = v := (congrArg Prod.fst he).symm.trans (hg (v, a))
  rw [hu, ho hv]

@[simp] theorem ite_mem (p : Prop) [Decidable p] (s t : State) :
    (if p then s else t).mem = if p then s.mem else t.mem := apply_ite _ _ _ _

@[simp] theorem startWalks_mem (t : ThreadRef) (n : Bool) (vas : List Nat) (s : State) :
    (vas.foldl (fun s va => startWalk s t n va none 0) s).mem = s.mem := foldl_mem _ (by simp) _ _

theorem pushEntry_waits_mem {s u : State} {t : ThreadRef} {n : Bool} {e : StackEntry}
    (h : pushEntry s t n e = .waits u) : u.mem = s.mem := by
  unfold pushEntry at h
  split at h
  · split at h
    · dsimp only at h
      split at h
      · cases h
      · split at h <;> cases h
        simp
    · cases h
  · cases h

theorem splitSlot_waits_mem {s u : State} {t : ThreadRef} {n : Bool} {m a b : Word}
    (h : splitSlot s t n m a b = .waits u) : u.mem = s.mem := by
  unfold splitSlot at h
  split at h
  · cases h
  · dsimp only at h
    split at h
    · cases h
    · split at h
      · cases h
      · exact pushEntry_waits_mem h

/-! #### Caches, events and pages -/

@[simp] theorem State.fillCaches_mem (s : State) (core hint : Nat) (l1 : Bool) (parts : List (Nat × Nat)) :
    (s.fillCaches core hint l1 parts).mem = s.mem := by simp [State.fillCaches]

@[simp] theorem sendEvent_mem (s : State) (stream type queue part status : Nat) (payload : List Byte) :
    (sendEvent s stream type queue part status payload).mem = s.mem := rfl

@[simp] theorem completeLaunch_mem (s : State) (x : Launch) : (completeLaunch s x).mem = s.mem := rfl

@[simp] theorem sendLaunchDone_mem (s : State) (l : Nat) (terminal : Nat) :
    (sendLaunchDone s l terminal).mem = s.mem := by
  unfold sendLaunchDone
  split <;> simp

@[simp] theorem sendHalted_mem (s : State) (b : Block) (thread slot code pc : Nat) :
    (sendHalted s b thread slot code pc).mem = s.mem := rfl

@[simp] theorem tlbFill_mem (s : State) (core : Nat) (e : TlbEntry) : (tlbFill s core e).mem = s.mem := rfl

@[simp] theorem poisonSector_mem (s : State) (sector : Nat) : (poisonSector s sector).mem = s.mem := by
  unfold poisonSector
  dsimp only
  split
  · rfl
  · exact foldl_mem _ (by simp) _ _

@[simp] theorem State.orFlags_mem (s : State) (t : ThreadRef) (f : Flags) : (s.orFlags t f).mem = s.mem := rfl

/-! #### Execution of words -/

@[simp] theorem putScalar_mem (c : Ctx) (d : Reg) (v : Nat) (s : State) : (c.putScalar d v s).mem = s.mem := rfl

@[simp] theorem parkPoisoned_mem (c : Ctx) (bad : Word) (s : State) : (c.parkPoisoned bad s).mem = s.mem := by
  simp [Ctx.parkPoisoned]

@[simp] theorem State.killAll_mem (s : State) (p : Nat → Core → Nat → Entry → Bool) : (s.killAll p).mem = s.mem := rfl

@[simp] theorem State.killLaunch_mem (s : State) (l : Nat) : (s.killLaunch l).mem = s.mem := rfl

@[simp] theorem writePassed_mem (c : Ctx) (i : Instr) (r : Results) (s : State) : (c.writePassed i r s).mem = s.mem :=
  rfl

@[simp] theorem parkFailed_mem (c : Ctx) (i : Instr) (failed poisoned : Word) (s : State) :
    (c.parkFailed i failed poisoned s).mem = s.mem := by simp [Ctx.parkFailed]

@[simp] theorem finish_mem (c : Ctx) (i : Instr) (r : Results) (poisoned : Word) (s : State) :
    (c.finish i r poisoned s).mem = s.mem := by simp [Ctx.finish]

@[simp] theorem compute_mem (c : Ctx) (i : Instr) (s : State) : (c.compute i s).mem = s.mem := by
  unfold Ctx.compute
  dsimp only
  split <;> simp

@[simp] theorem computeUnbound_mem (c : Ctx) (i : Instr) (t s : State) :
    (c.computeUnbound i t s).mem = if c.sourcePending i then s.mem else t.mem := by simp [Ctx.computeUnbound]

@[simp] theorem bindTo_mem (c : Ctx) (k : Core) (binds : List (Nat × Nat)) (f : Flags) (s : State) :
    (c.bindTo k binds f s).mem = s.mem := rfl

@[simp] theorem awaitSources_mem (c : Ctx) (e : Nat) (s : State) : (c.awaitSources e s).mem = s.mem := by
  simp [Ctx.awaitSources]

@[simp] theorem boundOn_mem (c : Ctx) (i : Instr) (new : Option Nat) (fails : Bool) (s : State) :
    (c.boundOn i new fails s).mem = s.mem := by
  unfold Ctx.boundOn
  split <;> simp

@[simp] theorem bind_mem (c : Ctx) (i : Instr) (s : State) : (c.bind i s).mem = s.mem := by
  unfold Ctx.bind
  dsimp only
  split
  · simp
  · split
    · split <;> simp
    · split
      · simp
      · split <;> simp
    · simp

@[simp] theorem settleFences_mem (s : State) (t : ThreadRef) : (settleFences s t).mem = s.mem := by
  unfold settleFences
  split <;> simp

/-! #### Messages to other modules -/

@[simp] theorem sentOn_mem (s : State) (p : Nat) (y : Port) : (sentOn s p y).mem = s.mem := by
  unfold sentOn
  dsimp only
  split
  · rfl
  · exact foldl_mem _ (by simp) _ _

@[simp] theorem pushMessage_mem (s : State) (p : Nat) (m : Sending) : (pushMessage s p m).mem = s.mem := by
  simp [pushMessage]

@[simp] theorem sendFabric_mem (s : State) (part home : Nat) : (sendFabric s part home).mem = s.mem := rfl

@[simp] theorem failMessage_mem (s : State) (part home number : Nat) : (failMessage s part home number).mem = s.mem :=
  rfl

@[simp] theorem loseMessage_mem (s : State) (m : Sending) : (loseMessage s m).mem = s.mem := by
  unfold loseMessage
  split
  · rfl
  · split <;> simp
  · simp
  · split <;> simp

@[simp] theorem dispatchMessage_mem (s : State) (m : Sending) : (dispatchMessage s m).mem = s.mem := by
  unfold dispatchMessage
  split
  · simp
  · split <;> simp

theorem sendRemote_mem {s u : State} {vl part home addr n : Nat} {poison : Bool} {op : RemoteOp}
    (h : sendRemote s vl part home addr poison op = .done u n) : u.mem = s.mem := by
  unfold sendRemote at h
  dsimp only at h
  split at h
  · cases h; simp
  · split at h
    · cases h
    · split at h <;> cases h
      simp

@[simp] theorem forgetAnswers_mem (s : State) (ns : List (Nat × Nat)) : (forgetAnswers s ns).mem = s.mem :=
  foldl_mem _ (by simp) _ _

theorem sendParts_mem {part : Nat} {poison : Bool} {op : Nat → List Byte → RemoteOp} {xs : List (Nat × List Byte)}
    {s u : State} {ns : List (Nat × Nat)} (h : sendParts s part poison op xs = some (u, ns)) : u.mem = s.mem := by
  induction xs generalizing s u ns with
  | nil => cases h; rfl
  | cons x rest ih =>
    rw [sendParts] at h
    split at h
    · exact ih h
    · split at h
      · cases h
      next hs => exact mem_of_map_some h (fun _ => rfl) fun hv => (ih hv).trans (sendRemote_mem hs)

theorem sendReads_mem {part : Nat} {xs ys : List LaneAccess} {s u : State} (h : sendReads s part xs = some (u, ys)) :
    u.mem = s.mem := by
  induction xs generalizing s u ys with
  | nil => cases h; rfl
  | cons x rest ih =>
    rw [sendReads] at h
    split at h
    · cases h
    next hs => exact mem_of_map_some h (fun _ => rfl) fun hv => (ih hv).trans (sendParts_mem hs)

/-! #### Accesses -/

@[simp] theorem finishAccess_mem (c : Ctx) (i : Instr) (a : Access) (r : Resolved)
    {enter : List LaneAccess → Word → State → State} (he : ∀ ok m u, (enter ok m u).mem = u.mem) (s : State) :
    (c.finishAccess i a r enter s).mem = s.mem := by
  unfold Ctx.finishAccess
  split <;> simp [he]

@[simp] theorem access_mem (c : Ctx) (a : Access) {finish : Resolved → State → State}
    (hf : ∀ r u, (finish r u).mem = u.mem) (s : State) : (c.access a finish s).mem = s.mem := by simp [Ctx.access, hf]

@[simp] theorem enterLoad_mem (c : Ctx) (a : Access) (d : Reg) (ok : List LaneAccess) (logged : Word) (s : State) :
    (c.enterLoad a d ok logged s).mem = s.mem := rfl

@[simp] theorem load_mem (c : Ctx) (i : Instr) (a : Access) (d : Reg) (s : State) : (c.load i a d s).mem = s.mem :=
  access_mem _ _ (fun _ _ => finishAccess_mem _ _ _ _ (by simp) _) _

@[simp] theorem bindLoad_mem (c : Ctx) (i : Instr) (a : Access) (d o : Reg) (r : Resolved) (s : State) :
    (c.bindLoad i a d o r s).mem = s.mem := by
  unfold Ctx.bindLoad
  dsimp only
  split
  · simp
  · split
    · simp
    · split
      · split <;> simp
      · split
        · simp
        · split <;> simp

@[simp] theorem enterStore_mem (c : Ctx) (a : Access) (ok : List LaneAccess) (waiting : Word) (s : State) :
    (c.enterStore a ok waiting s).mem = s.mem := rfl

@[simp] theorem store_mem (c : Ctx) (i : Instr) (a : Access) (s : State) : (c.store i a s).mem = s.mem :=
  access_mem _ _ (fun _ _ => finishAccess_mem _ _ _ _ (by simp) _) _

@[simp] theorem enterAtomic_mem (c : Ctx) (x : AtomicWord) (a : Access) (ok : List LaneAccess) (waiting : Word) (s : State) :
    (c.enterAtomic x a ok waiting s).mem = s.mem := rfl

@[simp] theorem atomic_mem (c : Ctx) (i : Instr) (x : AtomicWord) (s : State) : (c.atomic i x s).mem = s.mem := by
  unfold Ctx.atomic
  split
  · simp
  · exact access_mem _ _ (fun _ _ => finishAccess_mem _ _ _ _ (by simp) _) _

/-! #### Armed errors, rings and gears -/

@[simp] theorem countEcc_mem (s : State) (core index : Nat) : (countEcc s core index).mem = s.mem := rfl

@[simp] theorem regionError_mem (s : State) (core block code offset : Nat) (unc : Bool) :
    (regionError s core block code offset unc).mem = s.mem := by simp [regionError]

@[simp] theorem fireEcc_mem (s : State) (core block : Nat) (spans : List Span) :
    (fireEcc s core block spans).mem = s.mem := by
  unfold fireEcc
  split
  · rfl
  · refine foldl_mem _ (fun u x => foldl_mem _ (fun v a => ?_) _ _) _ _
    split
    · split <;> simp
    · rfl

@[simp] theorem State.modRing_mem (s : State) (c b n : Nat) (f : Ring → Ring) : (s.modRing c b n f).mem = s.mem := rfl

@[simp] theorem acknowledge_mem (s : State) (sender : Nat × Nat × Nat) (receiver : Nat × Nat × Nat × Nat) :
    (acknowledge s sender receiver).mem = s.mem := rfl

@[simp] theorem fireConsumed_mem (s : State) (c b n : Nat) : (fireConsumed s c b n).mem = s.mem := by
  unfold fireConsumed
  split
  · rfl
  · dsimp only
    split <;> simp

@[simp] theorem markPhase_mem (s : State) (core block : Nat) : (markPhase s core block).mem = s.mem := by
  unfold markPhase
  split
  · rfl
  · dsimp only
    split
    · rfl
    · split <;> simp

/-! #### What settles at the end of a step -/

@[simp] theorem releaseSlot_mem (s : State) (t : ThreadRef) (d : Nat) (n : Bool) : (releaseSlot s t d n).mem = s.mem := by
  unfold releaseSlot
  split <;> simp

@[simp] theorem releaseBar_mem (n : Nat) (s : State) (t : ThreadRef) : (releaseBar n s t).mem = s.mem := by
  unfold releaseBar
  split <;> simp (disch := simp) [foldl_mem]

@[simp] theorem settleBlock_mem (s : State) (c b : Nat) : (settleBlock s c b).mem = s.mem := by
  refine foldl_mem _ (fun u n => ?_) _ _
  split
  · split
    · exact foldl_mem _ (by simp) _ _
    · rfl
  · rfl

@[simp] theorem settleArrivals_mem (s : State) (x : ThreadRef × Thread) : (settleArrivals s x).mem = s.mem := by
  unfold settleArrivals
  dsimp only
  split
  · rfl
  · split
    · rfl
    · refine foldl_mem _ (fun u y => ?_) _ _
      split <;> rfl

@[simp] theorem settleCluster_mem (s : State) (n : Nat) : (settleCluster s n).mem = s.mem := by
  unfold settleCluster
  split
  · rfl
  · refine foldl_mem _ (fun u k => ?_) _ _
    split
    · rfl
    · dsimp only
      split <;> rfl

@[simp] theorem releaseLatch_mem (s : State) (t : ThreadRef) (d : Nat) : (releaseLatch s t d).mem = s.mem := by
  unfold releaseLatch
  split <;> simp

@[simp] theorem trapArrival_mem (s : State) (a : Arrival) : (trapArrival s a).mem = s.mem := by
  unfold trapArrival
  dsimp only
  split <;> simp

@[simp] theorem settleLatch_mem (s : State) (c : Nat) : (settleLatch s c).mem = s.mem := foldl_mem _ (by simp) _ _

@[simp] theorem settleExpiry_mem (s : State) (c n : Nat) (b : Block) : (settleExpiry s c n b).mem = s.mem := by
  simp [settleExpiry]

@[simp] theorem settleSources_mem (s : State) (t : ThreadRef) : (settleSources s t).mem = s.mem := by
  unfold settleSources
  split <;> simp

@[simp] theorem settle_mem (s : State) : (settle s).mem = s.mem := by simp (disch := simp) [settle, foldl_mem]

@[simp] theorem reportStopped_mem (s : State) (l : Nat) : (reportStopped s l).mem = s.mem := by
  unfold reportStopped
  split
  · rfl
  · split
    · rfl
    · split <;> simp

@[simp] theorem forgetBlock_mem (s : State) (c b : Nat) : (forgetBlock s c b).mem = s.mem := foldl_mem _ (by simp) _ _

@[simp] theorem dropBlock_mem (s : State) (c b : Nat) : (dropBlock s c b).mem = s.mem := by
  unfold dropBlock
  split
  · rfl
  · dsimp only
    rw [reportStopped_mem]
    (repeat' split) <;> simp

@[simp] theorem dropThread_mem (s : State) (t : ThreadRef) : (dropThread s t).mem = s.mem := by
  unfold dropThread
  split
  · rfl
  · dsimp only
    split
    · split <;> simp
    · simp

/-! #### Special registers and synchronisation -/

@[simp] theorem latchCycle_mem (c : Ctx) (i : Nat) (s : State) : (c.latchCycle i s).mem = s.mem := by
  simp [Ctx.latchCycle]

@[simp] theorem writeGang_mem (c : Ctx) (x : Word) (s : State) : (c.writeGang x s).mem = s.mem := by
  simp [Ctx.writeGang]

@[simp] theorem writeUser_mem (c : Ctx) (i : Nat) (x : Word) (s : State) : (c.writeUser i x s).mem = s.mem := by
  unfold Ctx.writeUser
  split
  · simp
  · split <;> simp

@[simp] theorem writeSuper_mem (c : Ctx) (i : Nat) (x : Word) (s : State) : (c.writeSuper i x s).mem = s.mem := by
  unfold Ctx.writeSuper
  split <;> simp

@[simp] theorem writeSpecial_mem (c : Ctx) (i : Nat) (x : Word) (s : State) : (c.writeSpecial i x s).mem = s.mem := by
  simp [Ctx.writeSpecial]

@[simp] theorem moveFrom_mem (c : Ctx) (d : Reg) (i : Nat) (s : State) : (c.moveFrom d i s).mem = s.mem := by
  simp [Ctx.moveFrom]

@[simp] theorem moveTo_mem (c : Ctx) (d : Reg) (i : Nat) (s : State) : (c.moveTo d i s).mem = s.mem := by
  simp [Ctx.moveTo]

@[simp] theorem arriveAt_mem (c : Ctx) (x : Cluster) (n : Nat) (s : State) : (c.arriveAt x n s).mem = s.mem := by
  simp [Ctx.arriveAt]

@[simp] theorem ringFault_mem (c : Ctx) (reason ring va : Nat) (s : State) :
    (c.ringFault reason ring va s).mem = s.mem := by simp [Ctx.ringFault]

@[simp] theorem releaseHead_mem (s : State) (c b n : Nat) (r : Ring) : (releaseHead s c b n r).mem = s.mem := by
  unfold releaseHead
  split <;> simp

/-! #### Copies, ladders and the matrix engine: issue -/

theorem takeSide_mem {s u : State} {x : CopyAt} {offset n : Nat} {bs : List (Byte × Bool)}
    (h : takeSide s x offset n = .ok (u, bs)) : u.mem = s.mem := by
  unfold takeSide at h
  split at h
  · cases h
  · cases h
    split <;> simp

@[simp] theorem corrupt_mem (s : State) (x : CopyAt) (first : Nat) (bs : List (Byte × Bool)) :
    (corrupt s x first bs).1.mem = s.mem := by
  unfold corrupt
  split
  · rfl
  · split
    · dsimp only
      split <;> rfl
    · rfl

theorem sendAll_mem {part : Nat} {xs : List (Nat × Bool × RemoteOp)} {s u : State} {ns : List (Nat × Nat)}
    (h : sendAll s part xs = some (u, ns)) : u.mem = s.mem := by
  induction xs generalizing s u ns with
  | nil => cases h; rfl
  | cons x rest ih =>
    rw [sendAll] at h
    split at h
    · cases h
    next hs => exact mem_of_map_some h (fun _ => rfl) fun hv => (ih hv).trans (sendRemote_mem hs)

@[simp] theorem setCommand_mem (s : State) (t : ThreadRef) (c : Command) : (setCommand s t c).mem = s.mem := rfl

@[simp] theorem fillClaims_mem (s : State) (t : ThreadRef) (c : Command) (ack : Bool) :
    (fillClaims s t c ack).mem = s.mem := foldl_mem _ (by simp) _ _

@[simp] theorem endCommand_mem (s : State) (t : ThreadRef) (c : Command) (bits code : Nat) :
    (endCommand s t c bits code).mem = s.mem := rfl

@[simp] theorem stopCommand_mem (s : State) (t : ThreadRef) (c : Command) (code va : Nat) :
    (stopCommand s t c code va).mem = s.mem := by simp [stopCommand]

@[simp] theorem completeCommand_mem (s : State) (t : ThreadRef) (c : Command) : (completeCommand s t c).mem = s.mem := by
  simp [completeCommand]

theorem claimAll_mem {n : Nat} {xs : List (Nat × Nat)} {s u : State} {cs : List (Nat × Nat × Nat × Nat)}
    (h : claimAll s n xs = some (u, cs)) : u.mem = s.mem := by
  induction xs generalizing s u cs with
  | nil => cases h; rfl
  | cons x rest ih =>
    rw [claimAll] at h
    split at h
    · cases h
    · split at h
      · exact mem_of_map_some h (fun _ => rfl) fun hv => (ih hv).trans (State.modRing_mem ..)
      · cases h

@[simp] theorem copy_mem (c : Ctx) (opcode : Nat) (d a : Reg) (f : CopyFlags) (s : State) :
    (c.copy opcode d a f s).mem = s.mem := by
  unfold Ctx.copy
  dsimp only
  split
  · simp
  · split
    · simp
    · split
      · simp
      · split
        · simp
        · split
          · simp
          next hc => simpa using claimAll_mem hc

@[simp] theorem stopAtBeat_mem (s : State) (t : ThreadRef) (c : Command) : (stopAtBeat s t c).mem = s.mem := by
  simp [stopAtBeat]

@[simp] theorem ladder_mem (c : Ctx) (i : Instr) (l : BitVec 2) (s : State) : (c.ladder i l s).mem = s.mem := by
  unfold Ctx.ladder
  dsimp only
  split <;> simp

@[simp] theorem enterEngine_mem (s : State) (core opcode : Nat) (ms : List EngineMember) :
    (enterEngine s core opcode ms).mem = s.mem := by
  refine foldl_fst_mem _ (fun u xs m => ?_) _ _ _
  dsimp only
  split <;> rfl

@[simp] theorem arriveLatch_mem (c : Ctx) (opcode : Nat) (m : EngineMember) (s : State) :
    (c.arriveLatch opcode m s).mem = s.mem := by simp (disch := simp) [Ctx.arriveLatch, foldl_mem]

@[simp] theorem formatTrap_mem (c : Ctx) (reason : Nat) (s : State) : (c.formatTrap reason s).mem = s.mem := by
  simp [Ctx.formatTrap]

@[simp] theorem enterMatrix_mem (c : Ctx) (opcode : Nat) (m : EngineMember) (s : State) :
    (c.enterMatrix opcode m s).mem = s.mem := by simp [Ctx.enterMatrix]

@[simp] theorem withLut_mem (c : Ctx) (opcode : Nat) {body : State → State} (hb : ∀ u, (body u).mem = u.mem)
    (s : State) : (c.withLut opcode body s).mem = s.mem := by
  unfold Ctx.withLut
  split <;> simp [hb]

@[simp] theorem matrix_mem (c : Ctx) (i : Instr) (s : State) : (c.matrix i s).mem = s.mem := by
  unfold Ctx.matrix
  dsimp only
  split
  · split <;> simp
  · split
    · simp
    · split
      · simp
      · exact withLut_mem _ _ (by simp) _

/-! #### Completions -/

@[simp] theorem raiseLate_mem (s : State) (t : ThreadRef) (x : LateTrap) : (raiseLate s t x).mem = s.mem := by
  unfold raiseLate
  split <;> simp

@[simp] theorem countCheck_mem (s : State) (core : Nat) (cause : Cause) : (countCheck s core cause).mem = s.mem := by
  simp [countCheck]

@[simp] theorem accessError_mem (s : State) (t : ThreadRef) (space : Space) (xs : List LaneAccess) (ecc : Ecc) :
    (accessError s t space xs ecc).mem = s.mem := by
  unfold accessError
  split
  · rfl
  · rfl
  · split
    · split
      · simp
      · split <;> simp
    · simp

@[simp] theorem armedReads_mem (s : State) (t : ThreadRef) (space : Space) (xs : List LaneAccess) (n : Nat) :
    (armedReads s t space xs n).mem = s.mem := by
  unfold armedReads
  split <;> simp

@[simp] theorem raiseAll_mem (s : State) (t : ThreadRef) (xs : List LateTrap) : (raiseAll s t xs).mem = s.mem :=
  foldl_mem _ (by simp) _ _

@[simp] theorem writeLoad_mem (s : State) (t : ThreadRef) (x : LoadOp) (got : List (LaneAccess × RemoteEnd × List Byte × Bool)) :
    (writeLoad s t x got).mem = s.mem := by simp [writeLoad]

@[simp] theorem loadAfresh_mem (s : State) (w : Waiter) (half : Nat) (x : LoadOp) :
    (loadAfresh s w half x).mem = s.mem := by
  unfold loadAfresh
  split <;> simp

@[simp] theorem endEntry_mem (s : State) (t : ThreadRef) (x : LoadOp) (half e : Nat) (words : List Word)
    (pois failed : Word) : (endEntry s t x half e words pois failed).mem = s.mem := by
  unfold endEntry
  dsimp only
  split
  · rfl
  · split
    · rfl
    · refine (foldl_mem _ (fun u w => ?_) _ _).trans rfl
      split
      · split <;> simp
      · rfl

@[simp] theorem writeKeyed_mem (s : State) (t : ThreadRef) (x : LoadOp)
    (got : List (LaneAccess × RemoteEnd × List Byte × Bool)) : (writeKeyed s t x got).mem = s.mem := by
  refine (raiseAll_mem ..).trans ((foldl_mem _ (fun u y => ?_) _ _).trans rfl)
  dsimp only
  split <;> simp

theorem sendStore_mem {t : ThreadRef} {part : Nat} {xs ys : List LaneStore} {s u : State}
    (h : sendStore s t part xs = some (u, ys)) : u.mem = s.mem := by
  induction xs generalizing s u ys with
  | nil => cases h; rfl
  | cons x rest ih =>
    rw [sendStore] at h
    split at h
    · cases h
    next hs => exact mem_of_map_some h (fun _ => rfl) fun hv => (ih hv).trans (sendParts_mem hs)

@[simp] theorem setLanes_mem (s : State) (t : ThreadRef) (x : StoreOp) (ls : List LaneStore) :
    (setLanes s t x ls).mem = s.mem := rfl

@[simp] theorem dropStore_mem (s : State) (t : ThreadRef) (x : StoreOp) : (dropStore s t x).mem = s.mem := rfl

theorem sendAtomic_mem {t : ThreadRef} {part : Nat} {a : AtomicOp} {xs ys : List LaneStore} {s u : State}
    (h : sendAtomic s t part a xs = some (u, ys)) : u.mem = s.mem := by
  induction xs generalizing s u ys with
  | nil => cases h; rfl
  | cons x rest ih =>
    rw [sendAtomic] at h
    split at h
    · cases h
    next hs => exact mem_of_map_some h (fun _ => rfl) fun hv => (ih hv).trans (sendParts_mem hs)

@[simp] theorem writeResults_mem (s : State) (core block : Nat) (ws : List (Nat × Nat × List Byte)) :
    (writeResults s core block ws).mem = s.mem := foldl_mem _ (by simp) _ _

@[simp] theorem endMember_mem (s : State) (core : Nat) (m : EngineMember) (r : EngineResult) :
    (endMember s core m r).mem = s.mem := by
  unfold endMember
  split <;> simp

@[simp] theorem loadTable_mem (s : State) (core : Nat) (b : Block) (m : EngineMember) (r : EngineResult) :
    (loadTable s core b m r).mem = s.mem := by simp [loadTable]

@[simp] theorem endMatrix_mem (s : State) (core : Nat) (op : EngineOp) (block : Nat) (b : Block) :
    (endMatrix s core op block b).mem = s.mem := by simp (disch := simp) [endMatrix, foldl_mem]

@[simp] theorem endLadder_mem (s : State) (core : Nat) (o : LadderOp) (b : Block) :
    (endLadder s core o b).mem = s.mem := by
  unfold endLadder
  dsimp only
  split <;> simp

/-! #### Launches, placement and images -/

@[simp] theorem withdrawLatch_mem (s : State) (t : ThreadRef) : (withdrawLatch s t).mem = s.mem := by
  simp [withdrawLatch]

@[simp] theorem applyEdits_mem (s : State) (core block : Nat) : (applyEdits s core block).mem = s.mem := by
  unfold applyEdits
  split <;> simp (disch := simp) [foldl_mem]

@[simp] theorem modCounter_mem (s : State) (p i : Nat) (f : Counter → Counter) : (modCounter s p i f).mem = s.mem := by
  simp [modCounter]

@[simp] theorem dropEvicted_mem (s : State) (l : Nat) : (dropEvicted s l).mem = s.mem := by
  unfold dropEvicted
  split <;> simp

@[simp] theorem stopLaunch_mem (s : State) (l : Nat) (ending : LaunchState) (reason : Nat) :
    (stopLaunch s l ending reason).mem = s.mem := by
  unfold stopLaunch
  split <;> simp (disch := simp) [foldl_mem]

@[simp] theorem lookHead_mem (s : State) (p q : Nat) : (lookHead s p q).1.mem = s.mem := by
  unfold lookHead
  split
  · rfl
  · split <;> simp

@[simp] theorem settleHeads_mem (s : State) (p fuel : Nat) : (settleHeads s p fuel).mem = s.mem := by
  induction fuel generalizing s with
  | zero => rfl
  | succ n ih =>
    have hf := foldl_fst_mem (fun (acc : State × Bool) q => ((lookHead acc.1 p q).1, acc.2 || (lookHead acc.1 p q).2))
      (fun u b q => lookHead_mem u p q) (List.range 8) s false
    rw [settleHeads]
    dsimp only
    split
    · exact (ih _).trans hf
    · exact hf

@[simp] theorem settlePart_mem (s : State) (p : Nat) : (settlePart s p).mem = s.mem := by simp [settlePart]

@[simp] theorem endSnapshot_mem (s : State) (launch : Nat) (bank : Option (List Byte)) :
    (endSnapshot s launch bank).mem = s.mem := by
  unfold endSnapshot
  split <;> simp

@[simp] theorem cancelLevel_mem (s : State) (p level i : Nat) : (cancelLevel s p level i).mem = s.mem := by
  simp (disch := simp) [cancelLevel, foldl_mem]

@[simp] theorem stopDeterministic_mem (s : State) (core reason : Nat) :
    (stopDeterministic s core reason).mem = s.mem := foldl_mem _ (by simp) _ _

@[simp] theorem chargeOne_mem (s : State) (p : Nat) : (chargeOne s p).mem = s.mem := by
  unfold chargeOne
  split
  · simp
  · split <;> simp

@[simp] theorem refillOne_mem (s : State) (p : Nat) : (refillOne s p).mem = s.mem := by
  unfold refillOne
  dsimp only
  split
  · rfl
  · refine (foldl_fst_mem _ (fun u n q => ?_) _ _ _).trans rfl
    dsimp only
    split <;> rfl

@[simp] theorem putBlock_mem (s : State) (core slot : Nat) (b : Block) : (putBlock s core slot b).mem = s.mem :=
  foldl_mem _ (by simp) _ _

@[simp] theorem placeBlock_mem (s : State) (core launch blklin cluster rank : Nat) :
    (placeBlock s core launch blklin cluster rank).mem = s.mem := by
  unfold placeBlock
  split
  · rfl
  · dsimp only
    split <;> simp

@[simp] theorem settleDispatch_mem (s : State) (l : Nat) : (settleDispatch s l).mem = s.mem := by
  unfold settleDispatch
  split <;> simp

@[simp] theorem stopIfHeld_mem (s : State) (core : Nat) : (stopIfHeld s core).mem = s.mem := by
  unfold stopIfHeld
  split <;> simp

@[simp] theorem placeCluster_mem (s : State) (w : Waiting) (places : List (Nat × Nat × Nat)) :
    (placeCluster s w places).mem = s.mem := by
  unfold placeCluster
  split <;> simp (disch := simp) [foldl_mem]

@[simp] theorem startLeaving_mem (s : State) (t : ThreadRef) : (startLeaving s t).mem = s.mem := rfl

@[simp] theorem setPlace_mem (s : State) (cluster rank : Nat) (p : Nat × Nat) :
    (setPlace s cluster rank p).mem = s.mem := rfl

@[simp] theorem keepRoom_mem (s : State) (w : Waiting) (start : Nat) (cores : List Nat) :
    (keepRoom s w start cores).mem = s.mem := foldl_mem _ (by simp) _ _

@[simp] theorem giveUp_mem (s : State) (core : Nat) : (giveUp s core).mem = s.mem := rfl

@[simp] theorem startBlockLeaving_mem (s : State) (core block : Nat) (target : Option Nat) :
    (startBlockLeaving s core block target).mem = s.mem := by
  unfold startBlockLeaving
  split <;> simp (disch := simp) [foldl_mem]

@[simp] theorem startAll_mem (s : State) (w : Waiting) (all : List (Nat × Nat)) : (startAll s w all).mem = s.mem :=
  foldl_mem _ (by simp) _ _

@[simp] theorem restoreWave_mem (s : State) (part core slot : Nat) (m : SavedImage) (place : Nat × Nat × Nat) :
    (restoreWave s part core slot m place).1.mem = s.mem := rfl

@[simp] theorem restoreBlock_mem (s : State) (part core : Nat) (m : SavedImage) :
    (restoreBlock s part core m).mem = s.mem := by
  unfold restoreBlock
  split
  · dsimp only
    split
    · rw [abortBlock_mem]
      exact (foldl_fst_mem _ (by simp) _ _ _).trans (by simp)
    · exact (foldl_fst_mem _ (by simp) _ _ _).trans (by simp)
  · rfl

@[simp] theorem restoreImage_mem (s : State) (part : Nat) (m : SavedImage) (core : Nat) :
    (restoreImage s part m core).mem = s.mem := by
  unfold restoreImage
  dsimp only
  split
  · simp
  · split
    · split <;> simp
    · rfl

/-! #### Control flow -/

@[simp] theorem badTarget_mem (c : Ctx) (x : Nat) (s : State) : (c.badTarget x s).mem = s.mem := by
  simp [Ctx.badTarget]

@[simp] theorem link_mem (c : Ctx) (target : Word) (s : State) : (c.link target s).mem = s.mem := rfl

@[simp] theorem split_mem (c : Ctx) (i : Instr) (taken target : Word) (s : State) :
    (c.split i taken target s).mem = s.mem := by
  unfold Ctx.split
  dsimp only
  split
  next hs =>
    have hm := splitSlot_mem hs
    split
    · simpa using hm
    · exact hm
  · simp
  next hs => simpa using splitSlot_waits_mem hs
  · split <;> simp
  · simp

@[simp] theorem branch_mem (c : Ctx) (i : Instr) (taken target : Word) (s : State) :
    (c.branch i taken target s).mem = s.mem := by simp [Ctx.branch]

@[simp] theorem mergePaths_mem (s : State) (t : ThreadRef) : (mergePaths s t).mem = s.mem := by
  unfold mergePaths
  dsimp only
  split
  · split
    · simp
    · split
      · simp
      · split
        · simp
        · simp
        · simp
        · split <;> simp
    · rfl
  · rfl

@[simp] theorem leaveHandler_mem (s : State) (t : ThreadRef) (th : Thread) : (leaveHandler s t th).mem = s.mem := rfl

@[simp] theorem exit_mem (c : Ctx) (s : State) : (c.exit s).mem = s.mem := by
  unfold Ctx.exit
  split
  · split <;> simp
  · simp

@[simp] theorem breakHalt_mem (c : Ctx) (i : BitVec 16) (s : State) : (c.breakHalt i s).mem = s.mem := rfl

@[simp] theorem fetchFault_mem (c : Ctx) (cause : Cause) (synd va : Nat) (s : State) :
    (fetchFault c cause synd va s).mem = s.mem := by simp [fetchFault]

@[simp] theorem moveCopy_mem (c : Ctx) (d a : Reg) (s : State) : (c.moveCopy d a s).mem = s.mem := by
  simp [Ctx.moveCopy]

@[simp] theorem moveBind_mem (c : Ctx) (d a : Reg) (s : State) : (c.moveBind d a s).mem = s.mem := by
  unfold Ctx.moveBind
  split <;> simp

@[simp] theorem raiseBlocks_mem (s : State) (l old n : Nat) : (raiseBlocks s l old n).mem = s.mem := by
  unfold raiseBlocks
  split <;> simp

@[simp] theorem gearStatus_mem (c : Ctx) (d : Reg) (r : Nat) (s : State) : (c.gearStatus d r s).mem = s.mem := by
  simp [Ctx.gearStatus]

/-! #### System words -/

@[simp] theorem putScalars_mem (c : Ctx) (d : Reg) (ws : List Nat) (s : State) : (c.putScalars d ws s).mem = s.mem :=
  rfl

@[simp] theorem replayOne_mem (s : State) (t : ThreadRef) (part : Nat) (e : LogEntry) :
    (replayOne s t part e).mem = s.mem := by simp [replayOne]

@[simp] theorem cancelOne_mem (s : State) (t : ThreadRef) (lanes : Word) (e : LogEntry) :
    (cancelOne s t lanes e).mem = s.mem := by simp [cancelOne]

@[simp] theorem deliverBreak_mem (s : State) (core block : Nat) (skip : Bool) (x : Nat × Bool × TrapInfo) :
    (deliverBreak s core block skip x).mem = s.mem := by
  unfold deliverBreak
  dsimp only
  split <;> simp

@[simp] theorem resumeBlock_mem (s : State) (core block : Nat) (skip : Bool) :
    (resumeBlock s core block skip).mem = s.mem := by
  unfold resumeBlock
  split <;> simp (disch := simp) [foldl_mem]

@[simp] theorem invalidate_mem (s : State) (core part x va : Nat) : (invalidate s core part x va).mem = s.mem := rfl

@[simp] theorem settleReady_mem (s : State) : (settleReady s).mem = s.mem := foldl_mem _ (by simp) _ _

/-! #### Power -/

@[simp] theorem applySample_mem (s : State) (x : CoreSample) : (applySample s x).mem = s.mem := by
  unfold applySample
  split <;> simp

@[simp] theorem applyPoint_mem (s : State) (x : PointWrite) : (applyPoint s x).mem = s.mem := rfl

@[simp] theorem settleAuto_mem (s : State) (core : Nat) : (settleAuto s core).mem = s.mem := by simp [settleAuto]

@[simp] theorem settleRails_mem (s : State) (core : Nat) : (settleRails s core).mem = s.mem := by
  unfold settleRails
  dsimp only
  split <;> simp

/-! #### The host -/

@[simp] theorem completeRecord_mem (s : State) (q hseq : Nat) : (completeRecord s q hseq).mem = s.mem := by
  simp [completeRecord]

@[simp] theorem sendRefused_mem (s : State) (r : HostRecord) (stream status reason : Nat) :
    (sendRefused s r stream status reason).mem = s.mem := rfl

@[simp] theorem sendResponse_mem (s : State) (type queue part stream hseq : Nat) (answer : List Byte) :
    (sendResponse s type queue part stream hseq answer).mem = s.mem := by simp [sendResponse]

@[simp] theorem answerSync_mem (s : State) (stream last : Nat) : (answerSync s stream last).mem = s.mem := rfl

@[simp] theorem movePiece_mem (s : State) (part : Nat) (x : Piece) : (movePiece s part x).1.mem = s.mem := by
  unfold movePiece
  split
  · rfl
  · dsimp only
    split
    · split
      · rfl
      next hs => exact sendRemote_mem hs
    · split <;> simp

@[simp] theorem movePieces_mem (s : State) (part : Nat) (xs : List Piece) : (movePieces s part xs).1.mem = s.mem := by
  induction xs generalizing s with
  | nil => rfl
  | cons x rest ih => exact (ih _).trans (movePiece_mem s part x)

@[simp] theorem finishWork_mem (s : State) (w : HostWork) : (finishWork s w).mem = s.mem := by
  unfold finishWork
  split <;> simp

@[simp] theorem moveWork_mem (s : State) (w : HostWork) : (moveWork s w).1.mem = s.mem := by
  unfold moveWork
  dsimp only
  split <;> simp

@[simp] theorem moveWorks_mem (s : State) (ws : List HostWork) : (moveWorks s ws).1.mem = s.mem := by
  induction ws generalizing s with
  | nil => rfl
  | cons w rest ih => exact (ih _).trans (moveWork_mem s w)

@[simp] theorem settleWork_mem (s : State) : (settleWork s).mem = s.mem := by
  unfold settleWork
  split
  · rfl
  · exact moveWorks_mem _ _

@[simp] theorem startWork_mem (s : State) (w : HostWork) : (startWork s w).mem = s.mem := by simp [startWork]

@[simp] theorem failRma_mem (s : State) (job : Nat) : (failRma s job).mem = s.mem := rfl

@[simp] theorem changeSeals_mem (s : State) (up : Bool) (key frames : Nat) :
    (changeSeals s up key frames).mem = s.mem := rfl

@[simp] theorem forgetLeaves_mem (s : State) (p : Nat) : (forgetLeaves s p).mem = s.mem := rfl

/-! #### The fabric -/

@[simp] theorem setPort_mem (s : State) (port : Nat) (x : Port) : (setPort s port x).mem = s.mem := by simp [setPort]

@[simp] theorem receiveFlit_mem (s : State) (port : Nat) (h : Word) : (receiveFlit s port h).mem = s.mem := by
  simp [receiveFlit]

@[simp] theorem settleResend_mem (s : State) : (settleResend s).mem = s.mem := foldl_mem _ (by simp) _ _

theorem land_mem {s u : State} {via : Landing} {vls : List Nat} {count : Nat}
    (h : s.land via vls count = .dropped u ∨ s.land via vls count = .whole u) : u.mem = s.mem := by
  unfold State.land at h
  dsimp only at h
  split at h
  · simp at h
  · (repeat' split at h) <;> simp at h <;> subst h <;> simp

/-! #### Attestation -/

@[simp] theorem measureUpdates_mem (s : State) : (measureUpdates s).mem = s.mem := by
  unfold measureUpdates
  split <;> simp

@[simp] theorem startExchange_mem (s : State) (r : HostRecord) (stream : Nat) :
    (startExchange s r stream).mem = s.mem := rfl

@[simp] theorem makeExtensions_mem (s : State) : (makeExtensions s).mem = s.mem := foldl_mem _ (by simp) _ _

@[simp] theorem finishExchange_mem (s : State) (x : Exchange) : (finishExchange s x).mem = s.mem := by
  simp [finishExchange]

@[simp] theorem settleSecurity_mem (s : State) : (settleSecurity s).mem = s.mem := by
  unfold settleSecurity
  dsimp only
  split <;> simp

/-! #### Reductions -/

@[simp] theorem passOn_mem (s : State) (c : Contribution) : (passOn s c).mem = s.mem := by simp [passOn]

@[simp] theorem endSums_mem (s : State) (part group : Nat) (past : Nat → Bool) :
    (endSums s part group past).mem = s.mem := foldl_mem _ (by simp) _ _

@[simp] theorem forward_mem (s : State) (c : Contribution) : (forward s c).mem = s.mem := by
  simp (disch := simp) [forward, foldl_mem]

@[simp] theorem sendResult_mem (s : State) (modules : List Nat) (r : ReductionResult) :
    (sendResult s modules r).mem = s.mem := foldl_mem _ (by simp) _ _

@[simp] theorem turnAway_mem (s : State) (c : Contribution) : (turnAway s c).mem = s.mem := by simp [turnAway]

@[simp] theorem reachRoot_mem (s : State) (c : Contribution) : (reachRoot s c).mem = s.mem := by
  unfold reachRoot
  split <;> simp

@[simp] theorem contribute_mem (s : State) (c : Contribution) : (contribute s c).mem = s.mem := by simp [contribute]

@[simp] theorem noteSum_mem (s : State) (c : ContributionIn) : (noteSum s c).mem = s.mem := by simp [noteSum]

theorem readSource_mem {x : CopyAt} {beats : List Beat} {s u : State} {bs acc : List (Byte × Bool)}
    (h : readSource s x beats acc = .ok (u, bs)) : u.mem = s.mem := by
  induction beats generalizing s acc with
  | nil => cases h; rfl
  | cons b rest ih =>
    rw [readSource] at h
    split at h
    · cases h
    next hs => exact (ih h).trans (takeSide_mem hs)

theorem queueResult_mem {s u : State} {core : Nat} {r : ReductionResult} (h : queueResult s core r = some u) :
    u.mem = s.mem := by
  unfold queueResult at h
  dsimp only at h
  split at h
  · cases h; rfl
  · split at h <;> cases h
    rfl

/-! #### Configuration and debug -/

@[simp] theorem clearGroup_mem (s : State) (part group : Nat) : (clearGroup s part group).mem = s.mem := rfl

@[simp] theorem configure_mem (s : State) (r : HostRecord) : (configure s r).mem = s.mem := by simp [configure]

@[simp] theorem debugHalt_mem (s : State) (core slot : Nat) : (debugHalt s core slot).mem = s.mem := by
  unfold debugHalt
  split <;> simp

/-! #### Boot and alarms -/

@[simp] theorem restarted_mem (s : State) (stage : Nat) : (restarted s stage).mem = s.mem := rfl

@[simp] theorem sendAlarm_mem (s : State) (sensor level time : Nat) : (sendAlarm s sensor level time).mem = s.mem :=
  rfl

@[simp] theorem eraseKeys_mem (s : State) : (eraseKeys s).mem = s.mem := rfl

@[simp] theorem actAlarm_mem (s : State) (level : Nat) : (actAlarm s level).mem = s.mem := by simp [actAlarm]

/-! #### Waves, walks and the value store -/

@[simp] theorem yieldWave_mem (s : State) (core quad key : Nat) : (yieldWave s core quad key).mem = s.mem := by
  unfold yieldWave
  split <;> simp

@[simp] theorem parkStuck_mem (s : State) (t : ThreadRef) : (parkStuck s t).mem = s.mem := by
  refine foldl_mem _ (fun u n => ?_) _ _
  split
  · rfl
  · dsimp only
    split
    · rfl
    · split <;> simp

@[simp] theorem abortLate_mem (s : State) (t : ThreadRef) : (abortLate s t).mem = s.mem := by
  unfold abortLate
  split <;> simp

@[simp] theorem endWalk_mem (s : State) (core : Nat) (w : Walk) (r : WalkResult) :
    (endWalk s core w r).mem = s.mem := by
  unfold endWalk
  dsimp only
  split <;> split <;> simp

@[simp] theorem formPrivately_mem (s : State) (e : Nat) (w : Waiter) (rs : Results) (fails : Bool) (lost : Word) :
    (formPrivately s e w rs fails lost).mem = s.mem := rfl

@[simp] theorem consumeLate_mem (s : State) (w : Waiter) (eaten : Word) : (consumeLate s w eaten).mem = s.mem := by
  unfold consumeLate
  split <;> simp

@[simp] theorem reform_mem (s : State) (e : Nat) (p : Pending) (rs : Results) (lost eaten : Word) (w : Waiter) :
    (reform s e p rs lost eaten w).mem = s.mem := by
  unfold reform
  split <;> simp

@[simp] theorem abandonEntry_mem (s : State) (core e : Nat) (x : Entry) (p : Pending) :
    (abandonEntry s core e x p).mem = s.mem := by simp (disch := simp) [abandonEntry, foldl_mem]

@[simp] theorem deadSource_mem (s : State) (core e : Nat) (p : Pending) : (deadSource s core e p).mem = s.mem :=
  foldl_mem _ (by simp) _ _

/-! #### Time -/

@[simp] theorem settleAll_mem (s : State) : (settleAll s).mem = s.mem := by
  simp (disch := simp) [settleAll, foldl_mem]

@[simp] theorem close_mem (s : State) : (close s).mem = s.mem := by simp [close]

@[simp] theorem idle_mem (s : State) : (idle s).mem = s.mem := by simp [idle]

@[simp] theorem handOn_mem (t : ThreadRef) (quad position : Nat) (issued : Bool) (s : State) :
    (handOn t quad position issued s).mem = s.mem := by
  unfold handOn
  dsimp only
  split <;> simp

/-! ### Operations that write memory -/

theorem kept_of_mem {s t : State} (h : t.mem = s.mem) (hs : s.MemoryKept) : t.MemoryKept := by
  rw [State.MemoryKept, h]
  exact hs

theorem ite_kept {p : Prop} [Decidable p] {s t : State} (hs : s.MemoryKept) (ht : t.MemoryKept) :
    (if p then s else t).MemoryKept := by
  split
  · exact hs
  · exact ht

theorem ite_fst_kept {α : Type} {p : Prop} [Decidable p] {x y : State × α} (hx : x.1.MemoryKept)
    (hy : y.1.MemoryKept) : (if p then x else y).1.MemoryKept := by
  split
  · exact hx
  · exact hy

theorem foldl_kept {α : Type} {f : State → α → State} (hf : ∀ s x, s.MemoryKept → (f s x).MemoryKept) (xs : List α)
    {s : State} (hs : s.MemoryKept) : (xs.foldl f s).MemoryKept :=
  List.foldlRecOn xs f hs fun u hu x _ => hf u x hu

theorem foldl_fst_kept {α β : Type} {f : State × β → α → State × β}
    (hf : ∀ s b x, s.MemoryKept → (f (s, b) x).1.MemoryKept) (xs : List α) {s : State} (hs : s.MemoryKept) (b : β) :
    (xs.foldl f (s, b)).1.MemoryKept :=
  List.foldlRecOn xs f (motive := fun u => u.1.MemoryKept) hs fun u hu x _ => hf u.1 u.2 x hu

/-! #### Stores and atomics -/

theorem writeLane_kept {s : State} (hs : s.MemoryKept) (t : ThreadRef) (part : Nat) (space : Space) (a : LaneAccess)
    (bs : List Byte) : (writeLane s t part space a bs).MemoryKept := by
  unfold writeLane
  split
  · refine foldl_kept (fun u x hu => ?_) _ hs
    split
    · exact memoryKept_writeBytes _ _ _ _ hu
    · exact hu
  · exact hs

theorem performLanes_kept {s : State} (hs : s.MemoryKept) (t : ThreadRef) (part : Nat) (space : Space)
    (ls : List LaneStore) : (performLanes s t part space ls).MemoryKept := by
  have hw : (ls.foldl (fun s x => writeLane s t part space x.access x.bytes) s).MemoryKept :=
    foldl_kept (fun u x hu => writeLane_kept hu t part space x.access x.bytes) ls hs
  unfold performLanes
  dsimp only
  split <;> exact hw

@[simp] theorem endLoad_mem (s : State) (t : ThreadRef) (x : LoadOp) (ecc : Ecc) : (endLoad s t x ecc).mem = s.mem := by
  unfold endLoad
  dsimp only
  split <;> simp

theorem endStore_kept {s : State} (hs : s.MemoryKept) (t : ThreadRef) (x : StoreOp) : (endStore s t x).MemoryKept := by
  have hw := performLanes_kept hs t (partOf s t) x.space (x.lanes.filter fun y => laneEnd s y.access = .data)
  exact kept_of_mem (by simp [endStore]) hw

theorem atomicLane_kept {s : State} (hs : s.MemoryKept) (t : ThreadRef) (part : Nat) (space : Space) (a : AtomicOp)
    (y : LaneStore) : (atomicLane s t part space a y).1.MemoryKept := by
  unfold atomicLane
  dsimp only
  split
  · exact hs
  · split
    · exact hs
    · exact performLanes_kept hs _ _ _ _

theorem atomicEnd_kept {s : State} (hs : s.MemoryKept) (t : ThreadRef) (part : Nat) (space : Space) (a : AtomicOp)
    (y : LaneStore) : (atomicEnd s t part space a y).1.MemoryKept := by
  unfold atomicEnd
  split
  · split
    · exact atomicLane_kept hs t part space a y
    · split <;> exact hs
  · exact hs

theorem endAtomic_kept {s : State} (hs : s.MemoryKept) (t : ThreadRef) (x : StoreOp) (a : AtomicOp) (ecc : Ecc) :
    (endAtomic s t x a ecc).MemoryKept := by
  have hr : (armedReads (accessError s t x.space (x.lanes.map (·.access)) ecc) t x.space (x.lanes.map (·.access))
      a.size).MemoryKept := kept_of_mem (by simp) hs
  unfold endAtomic
  dsimp only
  simp only [State.MemoryKept, raiseAll_mem, ite_mem, raiseLate_mem, State.modThread_mem, dropStore_mem,
    forgetAnswers_mem, ite_self]
  split
  · exact hr
  · exact foldl_fst_kept (fun _ _ y hu => atomicEnd_kept hu t _ _ a y) _ hr _

/-! #### Images and pages -/

theorem writeImage_kept {s : State} (hs : s.MemoryKept) (part o : Nat) (bs : List Byte) :
    (writeImage s part o bs).MemoryKept := memoryKept_writeMem _ _ _ _ _ hs

theorem writeImages_kept {s : State} (hs : s.MemoryKept) (part : Nat) (os : List (Nat × Nat)) (bss : List (List Byte)) :
    (writeImages s part os bss).MemoryKept := by
  induction os generalizing s bss with
  | nil => exact hs
  | cons o os ih =>
    cases bss with
    | nil => exact hs
    | cons bs rest => exact ih (writeImage_kept hs part o.1 bs) rest

theorem saveWave_kept {s : State} (hs : s.MemoryKept) (t : ThreadRef) (th : Thread) : (saveWave s t th).MemoryKept := by
  unfold saveWave
  split
  · exact hs
  next b hb =>
    dsimp only
    split
    · exact hs
    next o ho =>
      refine ite_kept (kept_of_mem (by simp) hs) ?_
      rw [State.MemoryKept, State.modCore_mem, State.modBlock_mem, State.modPart_mem]
      exact writeImage_kept hs _ _ _

theorem saveBlock_kept {s u : State} (hs : s.MemoryKept) {core block : Nat} {m : SavedImage}
    (h : saveBlock s core block = some (u, m)) : u.MemoryKept := by
  unfold saveBlock at h
  split at h
  · cases h
  · dsimp only at h
    split at h
    · cases h
    · cases h
      exact kept_of_mem (by simp; rfl) (writeImages_kept hs _ _ _)

theorem saveBlocks_kept {xs : List (Nat × Nat)} {s u : State} (hs : s.MemoryKept) (h : saveBlocks s xs = some u) :
    u.MemoryKept := by
  induction xs generalizing s with
  | nil => cases h; exact hs
  | cons x rest ih =>
    rw [saveBlocks] at h
    split at h
    · cases h
    next hb => exact ih (saveBlock_kept hs hb) h

theorem mapFirstTouch_kept {s : State} (hs : s.MemoryKept) (part va : Nat) : (mapFirstTouch s part va).1.MemoryKept := by
  unfold mapFirstTouch
  refine ite_fst_kept hs ?_
  split
  · exact hs
  · refine ite_fst_kept hs (ite_fst_kept hs (ite_fst_kept hs (ite_fst_kept hs ?_)))
    exact memoryKept_writeMem _ _ _ _ _ (memoryKept_zeroFrame _ _ _ (memoryKept_writeMem _ _ _ _ _ hs))

theorem putPiece_kept {s : State} (hs : s.MemoryKept) (part : Nat) (x : Nat × List Byte) :
    (putPiece s part x).1.MemoryKept := by
  unfold putPiece
  dsimp only
  split
  · exact memoryKept_writeMem _ _ _ _ _ hs
  · exact hs

theorem putPieces_kept {s : State} (hs : s.MemoryKept) (part : Nat) (xs : List (Nat × List Byte)) :
    (putPieces s part xs).1.MemoryKept := by
  induction xs generalizing s with
  | nil => exact hs
  | cons x rest ih => exact ih (putPiece_kept hs part x)

theorem sealLeaf_kept {s : State} (hs : s.MemoryKept) (part : Nat) (up : Bool) (x : Nat × Nat × Nat) :
    (sealLeaf s part up x).1.MemoryKept := by
  obtain ⟨a, e, level⟩ := x
  have hw := memoryKept_writeBytes s (s.partAt part).key a (leBytes 8 (sealedEntry e up)) hs
  unfold sealLeaf
  exact ite_fst_kept (kept_of_mem (changeSeals_mem ..) hw) hw

theorem sealLeaves_kept {s : State} (hs : s.MemoryKept) (part : Nat) (up : Bool) (xs : List (Nat × Nat × Nat)) :
    (sealLeaves s part up xs).1.MemoryKept := by
  induction xs generalizing s with
  | nil => exact hs
  | cons x rest ih => exact ih (sealLeaf_kept hs part up x)

/-! #### Requests of other modules -/

theorem homeAtomic_kept {s : State} (hs : s.MemoryKept) (key a n : Nat) (new : Nat → Option Nat) :
    (homeAtomic s key a n new).1.MemoryKept := by
  unfold homeAtomic
  dsimp only
  split
  · exact hs
  · split
    · exact memoryKept_writeMem _ _ _ _ _ hs
    · exact hs

theorem performRemote_kept {s : State} (hs : s.MemoryKept) (m : RemoteMsg) : (performRemote s m).1.MemoryKept := by
  unfold performRemote
  dsimp only
  split
  · exact hs
  · exact memoryKept_writeMem _ _ _ _ _ hs
  · exact homeAtomic_kept hs _ _ _ _
  · exact homeAtomic_kept hs _ _ _ _
  · exact kept_of_mem (by simp) hs

theorem answerRequest_kept {s : State} (hs : s.MemoryKept) (m : RemoteMsg) : (answerRequest s m).1.MemoryKept := by
  have hp := performRemote_kept hs m
  unfold answerRequest
  generalize performRemote s m = p at hp ⊢
  refine ite_fst_kept ?_ (ite_fst_kept hs (ite_fst_kept hs hp))
  split
  · exact ite_fst_kept hp hs
  · exact hs
  · exact hs
  · exact hs

/-- A request is answered, and its reply sent. The definition is unfolded as a function, before it meets its arguments:
the kernel would evaluate the answer to compare it with a match on it. -/
theorem serveRequest_eq {s u : State} {m : RemoteMsg} {r : RemoteReply} (h : answerRequest s m = (u, r)) :
    serveRequest m s = dispatchMessage { u with fabric := { u.fabric with sent := u.fabric.sent ++ [r] } }
      { vl := 1, home := m.source, number := m.number, count := flitCount r.bytes.length } := by
  obtain ⟨f, hf⟩ : ∃ f, f = serveRequest := ⟨_, rfl⟩
  rw [← hf]
  delta serveRequest at hf
  simp -zeta -iota -proj only [hf]
  rw [h]

theorem serveRequest_kept {s : State} (hs : s.MemoryKept) (m : RemoteMsg) : (serveRequest m s).MemoryKept := by
  have hu := answerRequest_kept hs m
  obtain ⟨⟨u, r⟩, h⟩ : ∃ a, answerRequest s m = a := ⟨_, rfl⟩
  rw [h] at hu
  rw [serveRequest_eq h]
  exact kept_of_mem (dispatchMessage_mem ..) hu

/-! #### Copies -/

theorem writeLocal_kept {s : State} (hs : s.MemoryKept) (part : Nat) (parts : List (Nat × List (Byte × Bool))) :
    (writeLocal s part parts).MemoryKept := by
  have hw := foldl_kept (f := fun u (p : Nat × List (Byte × Bool)) =>
    u.writeBytes (u.partAt part).key (physKey p.1) (p.2.map (·.1)))
    (fun _ _ hu => memoryKept_writeBytes _ _ _ _ hu) (parts.filter fun p => isLocal s p.1) hs
  unfold writeLocal
  dsimp only
  generalize List.foldl _ s _ = u at hw ⊢
  exact hw

/-- The state that the end of a beat leaves, where there is one, keeps memory's form. -/
@[simp] def BeatEnd.Kept : BeatEnd → Prop
  | .done s _ | .sent s _ | .stop s _ _ _ => s.MemoryKept
  | .blocked => True

/-- See `BeatEnd.Kept`. -/
@[simp] def Ran.Kept : Ran → Prop
  | .sent s _ | .limit s _ | .finished s _ | .stopped s _ _ _ => s.MemoryKept
  | .blocked => True

/-- See `BeatEnd.Kept`. -/
@[simp] def Left.Kept : Left → Prop
  | .ended s | .gone s => s.MemoryKept
  | .waits => True

/-- See `BeatEnd.Kept`. -/
@[simp] def Finished.Kept : Finished → Prop
  | .goes s | .stops s _ => s.MemoryKept
  | .notDue => True

theorem writeBeat_kept {s : State} (hs : s.MemoryKept) (x : CopyAt) (b : Beat) (bs : List (Byte × Bool)) (whole : Bool) :
    (writeBeat s x b bs whole).Kept := by
  unfold writeBeat
  dsimp only
  split
  · exact kept_of_mem (foldl_mem _ (by simp) _ _) hs
  · split
    · exact hs
    · split
      · exact writeLocal_kept hs _ _
      · split
        · trivial
        next hm => exact kept_of_mem (sendAll_mem hm) hs

theorem finishWrite_kept {s : State} (hs : s.MemoryKept) (x : CopyAt) (b : Beat) : (finishWrite s x b).Kept := by
  have hf : (forgetAnswers s x.cmd.asked).MemoryKept := kept_of_mem (by simp) hs
  unfold finishWrite
  dsimp only
  split
  · trivial
  · split
    · exact hf
    · exact writeLocal_kept hf _ _
  · exact hf

theorem carryBeat_kept {s : State} (hs : s.MemoryKept) (x : CopyAt) (b : Beat) (first : Nat) (bs : List (Byte × Bool)) :
    (carryBeat s x b first bs).Kept := by
  have hc : ∀ ys, (corrupt s x first ys).1.MemoryKept := fun ys => kept_of_mem (by simp) hs
  unfold carryBeat
  split
  · exact hs
  · split
    · dsimp only
      split
      · exact writeBeat_kept (hc _) _ _ _ _
      · split
        · exact hc _
        · split
          next hw => exact (congrArg BeatEnd.Kept hw).mp (writeBeat_kept (hc _) ..)
          · exact writeBeat_kept (hc _) _ _ _ _
    · exact writeBeat_kept (hc _) _ _ _ _

theorem runBeat_kept {s : State} (hs : s.MemoryKept) (x : CopyAt) (b : Beat) (first : Nat) : (runBeat s x b first).Kept := by
  unfold runBeat
  split
  · exact finishWrite_kept hs x b
  · split
    · exact carryBeat_kept hs _ _ _ _
    · split
      · exact hs
      · split
        · split
          · exact hs
          next ht => exact carryBeat_kept (kept_of_mem (takeSide_mem ht) hs) _ _ _ _
        · dsimp only
          split
          · split
            · trivial
            next hm => exact kept_of_mem (sendAll_mem hm) hs
          · have hf : (forgetAnswers s x.cmd.asked).MemoryKept := kept_of_mem (by simp) hs
            split
            · trivial
            · exact carryBeat_kept hf _ _ _ _
            · exact hf

theorem runBeats_kept {plan : Plan} {beats : List Beat} {s : State} (hs : s.MemoryKept) (x : CopyAt) (past limit : Nat) :
    (runBeats s x plan beats past limit).Kept := by
  induction beats generalizing s x past limit with
  | nil =>
    rw [runBeats]
    split <;> exact hs
  | cons b rest ih =>
    have hb := runBeat_kept hs x b (firstByteOf x plan.beats b past)
    rw [runBeats]
    split
    · exact hs
    · split
      · trivial
      next hr => rw [hr] at hb; exact hb
      next hr => rw [hr] at hb; exact hb
      next hr => rw [hr] at hb; exact ih hb _ _ _

theorem runCopy_kept {s : State} (hs : s.MemoryKept) (x : CopyAt) (limit : Nat) : (runCopy s x limit).Kept := by
  unfold runCopy
  split
  · split
    · trivial
    · split
      · split
        · trivial
        · exact kept_of_mem (by simp) hs
      · split
        · trivial
        · split
          · trivial
          · exact runBeats_kept (kept_of_mem (by simp) hs) _ _ _
  · trivial

theorem cancelCommand_kept {s : State} (hs : s.MemoryKept) (t : ThreadRef) (n : Nat) : (cancelCommand s t n).MemoryKept := by
  unfold cancelCommand
  split
  · exact hs
  next x hx =>
    have hr := runCopy_kept hs x (beatsToStop s x)
    split
    · exact hs
    · split
      · exact kept_of_mem (by simp) hs
      · split
        · exact kept_of_mem (by simp) hs
        · split <;> rename_i he <;> rw [he] at hr
          · exact kept_of_mem (by simp) hr
          · exact kept_of_mem (by simp) hr
          · split <;> exact kept_of_mem (by simp) hr
          · exact kept_of_mem (by simp) hr
          · exact kept_of_mem (by simp) hs

theorem contributeCommand_kept {s : State} (hs : s.MemoryKept) (x : CopyAt) : (contributeCommand s x).Kept := by
  unfold contributeCommand
  dsimp only
  split
  · exact kept_of_mem (by simp) hs
  · split
    · trivial
    · split
      · exact kept_of_mem (by simp) hs
      next hr =>
        split
        · trivial
        · exact kept_of_mem (by simp) (kept_of_mem (readSource_mem hr) hs)

theorem finishCopy_kept {s : State} (hs : s.MemoryKept) (t : ThreadRef) (n : Nat) : (finishCopy s t n).Kept := by
  unfold finishCopy
  split
  next x th hx _ =>
    split
    · trivial
    · split
      · split
        · exact kept_of_mem (by simp) hs
        · trivial
      · split
        · split
          · trivial
          · have hc := contributeCommand_kept hs x
            split <;> rename_i he <;> rw [he] at hc
            · trivial
            · exact hc
            · exact hc
        · have hr := runCopy_kept hs x allBeats
          split <;> rename_i he <;> rw [he] at hr
          · exact kept_of_mem (by simp) hr
          · exact kept_of_mem (by simp) hr
          · split <;> exact kept_of_mem (by simp) hr
          · trivial
          · exact kept_of_mem (by simp) hr
  · trivial

theorem writeBeats_kept {status : Nat} {beats : List Beat} {s : State} (hs : s.MemoryKept) (x : CopyAt) (first : Nat)
    (bs : List (Byte × Bool)) : (writeBeats s x status beats first bs).MemoryKept := by
  induction beats generalizing s x first bs with
  | nil => exact kept_of_mem (by simp [writeBeats]) hs
  | cons b rest ih =>
    have hc : (corrupt s x first (bs.take b.size)).1.MemoryKept := kept_of_mem (by simp) hs
    have hw := writeBeat_kept hc x b (corrupt s x first (bs.take b.size)).2 true
    rw [writeBeats]
    dsimp only
    split
    next he => rw [he] at hw; exact ih hw _ _ _
    next he => rw [he] at hw; exact kept_of_mem (by simp) hw
    · exact hc

theorem receiveResult_kept {s : State} (hs : s.MemoryKept) (r : ReductionResult) (t : ThreadRef) (c : Command) :
    (receiveResult s r t c).MemoryKept := by
  unfold receiveResult
  split
  · exact kept_of_mem (by simp) hs
  · exact writeBeats_kept hs _ _ _

theorem deliverResult_kept {s u : State} (hs : s.MemoryKept) {r : ReductionResult} (h : deliverResult r s = some u) :
    u.MemoryKept := by
  have hf : ∀ v, deliverResult r s = some v → v.MemoryKept := by
    unfold deliverResult
    refine List.foldlRecOn (motive := fun o : Option State => ∀ v, o = some v → v.MemoryKept) _ _ ?_ ?_
    · intro v hv
      cases hv
      exact kept_of_mem (by simp) hs
    · intro o ho x _ v hv
      obtain ⟨w, hw, hv⟩ := Option.bind_eq_some_iff.mp hv
      split at hv
      · exact kept_of_mem (queueResult_mem hv) (ho w hw)
      · cases hv
        exact receiveResult_kept (ho w hw) _ _ _
  exact hf u h

/-! ### What an instruction keeps -/

/-- What an instruction answers keeps memory's form. -/
def Keeps (o : Host.Outcome State Fault Refusal) : Prop := ∀ t, o = .next t → t.MemoryKept

theorem keeps_next {t : State} (ht : t.MemoryKept) : Keeps (.next t) := by
  intro u h
  cases h
  exact ht

theorem keeps_fault (f : Fault) : Keeps (.fault f) := by
  intro u h
  cases h

theorem keeps_refused (r : Refusal) : Keeps (.refused r) := by
  intro u h
  cases h

theorem keeps_ite {p : Prop} [Decidable p] {x y : Host.Outcome State Fault Refusal} (hx : Keeps x) (hy : Keeps y) :
    Keeps (if p then x else y) := by
  split
  · exact hx
  · exact hy

theorem keeps_event {due : Bool} {t : State} (ht : t.MemoryKept) : Keeps (event due t) :=
  keeps_ite (keeps_next ht) (keeps_refused _)

theorem keeps_runGate {g : Gate} {i : Instr} {body : Ctx → State → State} {s : State} (hs : s.MemoryKept)
    (hb : ∀ c u, u.MemoryKept → (body c u).MemoryKept) : Keeps (runGate g i body s) := by
  unfold runGate
  split
  · exact keeps_refused _
  · exact keeps_next (kept_of_mem (by simp) hs)
  · exact keeps_next (kept_of_mem (by simp) hs)
  · exact keeps_next (kept_of_mem (by simp) hs)
  · exact keeps_next (kept_of_mem (by simp) hs)
  · exact keeps_next (hb _ _ (kept_of_mem (begun_mem ..) hs))

theorem keeps_issue {i : Instr} {body : Ctx → State → State} {s : State} (hs : s.MemoryKept)
    (hb : ∀ c u, u.MemoryKept → (body c u).MemoryKept) : Keeps (issue i body s) := keeps_runGate hs hb

theorem keeps_perform {i : Instr} {body : Ctx → State → State} {s : State} (hs : s.MemoryKept)
    (hb : ∀ c u, u.MemoryKept → (body c u).MemoryKept) : Keeps (perform i body s) :=
  fun _ h => perform_kept hs hb h

theorem keeps_issue_frame {i : Instr} {body : Ctx → State → State} {s : State} (hs : s.MemoryKept)
    (hb : ∀ c u, (body c u).mem = u.mem) : Keeps (issue i body s) := keeps_issue hs fun c u hu => kept_of_mem (hb c u) hu

theorem keeps_perform_frame {i : Instr} {body : Ctx → State → State} {s : State} (hs : s.MemoryKept)
    (hb : ∀ c u, (body c u).mem = u.mem) : Keeps (perform i body s) :=
  keeps_perform hs fun c u hu => kept_of_mem (hb c u) hu

theorem keeps_performEach_frame {i : Instr} {d : Reg} {body : Ctx → State → State} {s : State} (hs : s.MemoryKept)
    (hb : ∀ c u, (body c u).mem = u.mem) : Keeps (performEach i d body s) :=
  fun _ h => performEach_kept hs (fun c u hu => kept_of_mem (hb c u) hu) h

theorem keeps_laneWord {s : State} (hs : s.MemoryKept) (i : Instr) : Keeps (laneWord i s) :=
  keeps_runGate hs fun c u hu => kept_of_mem (by simp) hu

theorem keeps_respond {core : Nat} {i : Instr} {bytes : Nat} {due : Bool} {s t : State} (hs : s.MemoryKept)
    (ht : t.MemoryKept) : Keeps (respond core i bytes due s t) :=
  keeps_ite (keeps_event (kept_of_mem (by simp) hs)) (keeps_event ht)

theorem keeps_bring {s : State} {via : Landing} {vls : List Nat} {count : Nat}
    {f : State → Host.Outcome State Fault Refusal} (hs : s.MemoryKept) (hf : ∀ u, u.MemoryKept → Keeps (f u)) :
    Keeps (bring s via vls count f) := by
  refine keeps_ite (keeps_fault _) ?_
  split
  · exact keeps_refused _
  next hl => exact keeps_next (kept_of_mem (land_mem (.inl hl)) hs)
  next hl => exact hf _ (kept_of_mem (land_mem (.inr hl)) hs)

/-! #### Records of the host -/

/-- The state that an accepted record leaves keeps memory's form. -/
@[simp] def Acted.Kept : Acted → Prop
  | .ok s _ | .later s => s.MemoryKept
  | .no _ _ => True

theorem Acted.ite_kept {p : Prop} [Decidable p] {x y : Acted} (hx : x.Kept) (hy : y.Kept) :
    (if p then x else y).Kept := by
  split
  · exact hx
  · exact hy

theorem carryOut_kept {r : HostRecord} {stream : Nat} {act : Nat → State → Acted} {s : State} (hs : s.MemoryKept)
    (ha : (act stream s).Kept) : (carryOut r stream act s).MemoryKept := by
  unfold carryOut
  split <;> rename_i he
  · rw [he] at ha
    exact kept_of_mem (by simp) ha
  · exact kept_of_mem (by simp) hs
  · rw [he] at ha
    exact ha

theorem receive_kept {r : HostRecord} {x : Sender} {act : Nat → State → Acted} {s : State} (hs : s.MemoryKept)
    (ha : ∀ stream u, u.MemoryKept → (act stream u).Kept) : (receive r x act s).MemoryKept := by
  unfold receive
  refine ite_kept (kept_of_mem (by simp) hs) (ite_kept (kept_of_mem (by simp) hs) (ite_kept hs (ite_kept ?_ ?_)))
  · have hq := kept_of_mem
      (State.modQueue_mem s r.queue fun q => { q with accepted := r.hseq, open_ := setAdd q.open_ r.hseq }) hs
    exact carryOut_kept hq (ha _ _ hq)
  · exact kept_of_mem (by simp) hs

theorem keeps_hostRecord {type : Nat} {r : HostRecord} {act : Nat → State → Acted} {s : State} (hs : s.MemoryKept)
    (ha : ∀ stream u, u.MemoryKept → (act stream u).Kept) : Keeps (hostRecord type r act s) := by
  unfold hostRecord
  split
  · exact keeps_refused _
  · exact keeps_event (receive_kept hs ha)

theorem sealSegmentAct_kept {s : State} (hs : s.MemoryKept) (up : Bool) (r : HostRecord) (stream : Nat) :
    (sealSegmentAct up r stream s).Kept := by
  unfold sealSegmentAct
  refine Acted.ite_kept trivial (Acted.ite_kept trivial ?_)
  split
  · trivial
  next leaves _ => exact kept_of_mem (by cases up <;> simp) (sealLeaves_kept hs r.part up leaves)

theorem launchAct_kept {s : State} (hs : s.MemoryKept) (r : HostRecord) : (launchAct r s).Kept := by
  unfold launchAct
  dsimp only
  split
  · trivial
  · exact kept_of_mem (by simp) hs

theorem keeps_delivered {s : State} (hs : s.MemoryKept) {r : ReductionResult} :
    Keeps (delivered (deliverResult r s)) := by
  unfold delivered
  split
  next h => exact keeps_next (deliverResult_kept hs h)
  · exact keeps_refused _

/-! #### Instructions -/

theorem execLdgk_keeps {s : State} (hs : s.MemoryKept) (d o : Reg) (x w : BitVec 3) (h : BitVec 2) :
    Keeps (execLdgk d o x w h s) := by
  refine keeps_issue_frame hs fun c u => ?_
  dsimp only
  split
  · simp
  · refine access_mem _ _ (fun r v => ?_) _
    split
    · simp
    · exact finishAccess_mem _ _ _ _ (by simp) _

theorem execPrf_keeps {s : State} (hs : s.MemoryKept) (o : Reg) (x : BitVec 3) (h : BitVec 2) :
    Keeps (execPrf o x h s) := by
  refine keeps_issue_frame hs fun c u => ?_
  dsimp only
  split
  · simp
  · split <;> simp

theorem execArrive_keeps {s : State} (hs : s.MemoryKept) (d : Reg) (n : BitVec 3) : Keeps (execArrive d n s) :=
  keeps_perform_frame hs fun _ _ => by split <;> simp

theorem execRawait_keeps {s : State} (hs : s.MemoryKept) (d : Reg) (n : BitVec 4) : Keeps (execRawait d n s) :=
  keeps_perform_frame hs fun _ _ => by split <;> simp

theorem execRrel_keeps {s : State} (hs : s.MemoryKept) (n : BitVec 4) : Keeps (execRrel n s) :=
  keeps_perform_frame hs fun _ _ => by split <;> simp

theorem execRpost_keeps {s : State} (hs : s.MemoryKept) (a : Reg) (n : BitVec 4) : Keeps (execRpost a n s) :=
  keeps_perform_frame hs fun _ _ => by split <;> simp

theorem execRinit_keeps {s : State} (hs : s.MemoryKept) (n : BitVec 4) (a : Reg) : Keeps (execRinit n a s) :=
  keeps_perform_frame hs fun _ _ => by (repeat' split) <;> simp

theorem execCcan_keeps {s : State} (hs : s.MemoryKept) (a : Reg) : Keeps (execCcan a s) :=
  keeps_perform hs fun _ _ hu =>
    kept_of_mem (stepOn_mem ..) (foldl_kept (fun _ _ h => cancelCommand_kept h _ _) _ hu)

theorem execRfill_keeps {s : State} (hs : s.MemoryKept) (a : Reg) : Keeps (execRfill a s) := by
  refine keeps_perform_frame hs fun c u => ?_
  dsimp only
  (repeat' split) <;> simp

theorem execLoadComplete_keeps {s : State} (hs : s.MemoryKept) (t : ThreadRef) (ecc : Ecc) :
    Keeps (execLoadComplete t ecc s) := by
  unfold execLoadComplete
  split
  · exact keeps_refused _
  · split
    · exact keeps_refused _
    · refine keeps_ite (keeps_ite (keeps_refused _) ?_) (keeps_respond hs (kept_of_mem (endLoad_mem ..) hs))
      split
      · exact keeps_refused _
      next hr => exact keeps_next (kept_of_mem ((State.modThread_mem ..).trans (sendReads_mem hr)) hs)

theorem execStorePerformed_keeps {s : State} (hs : s.MemoryKept) (t : ThreadRef) : Keeps (execStorePerformed t s) := by
  unfold execStorePerformed
  split
  · exact keeps_refused _
  · refine keeps_ite (keeps_refused _) (keeps_ite ?_ (keeps_ite ?_ ?_))
    · split
      · exact keeps_refused _
      next hr => exact keeps_next (kept_of_mem ((setLanes_mem ..).trans (sendStore_mem hr)) hs)
    · exact keeps_respond hs (endStore_kept hs _ _)
    · exact keeps_next (endStore_kept hs _ _)

theorem execAtomicComplete_keeps {s : State} (hs : s.MemoryKept) (t : ThreadRef) (ecc : Ecc) :
    Keeps (execAtomicComplete t ecc s) := by
  unfold execAtomicComplete
  split
  · exact keeps_refused _
  · split
    · exact keeps_refused _
    · refine keeps_ite ?_ (keeps_respond hs (endAtomic_kept hs _ _ _ _))
      split
      · exact keeps_refused _
      next hr => exact keeps_next (kept_of_mem ((setLanes_mem ..).trans (sendAtomic_mem hr)) hs)

theorem execPostWrite_keeps {s : State} (hs : s.MemoryKept) (t : ThreadRef) : Keeps (execPostWrite t s) := by
  unfold execPostWrite
  split
  · split
    · exact keeps_refused _
    · exact keeps_next (kept_of_mem (by simp) hs)
  · exact keeps_refused _

theorem execMatrixComplete_keeps {s : State} (hs : s.MemoryKept) (core : Nat) : Keeps (execMatrixComplete core s) := by
  unfold execMatrixComplete
  split
  · exact keeps_refused _
  · exact keeps_next (kept_of_mem (by simp) hs)

theorem execLadderComplete_keeps {s : State} (hs : s.MemoryKept) (core : Nat) : Keeps (execLadderComplete core s) := by
  unfold execLadderComplete
  split
  · exact keeps_refused _
  · exact keeps_next (kept_of_mem (by simp) hs)

theorem execConstantSnapshot_keeps {s : State} (hs : s.MemoryKept) (launch : Nat) :
    Keeps (execConstantSnapshot launch s) := by
  unfold execConstantSnapshot
  split
  · exact keeps_refused _
  · split
    · exact keeps_next (kept_of_mem (by simp) hs)
    · refine keeps_ite ?_ (keeps_event (kept_of_mem (by simp) hs))
      split
      · exact keeps_refused _
      next hr => exact keeps_next (kept_of_mem ((State.modLaunch_mem ..).trans (sendReads_mem hr)) hs)

theorem execLaunchRetire_keeps {s : State} (hs : s.MemoryKept) (launch : Nat) : Keeps (execLaunchRetire launch s) := by
  unfold execLaunchRetire
  split
  · exact keeps_refused _
  · exact keeps_next (kept_of_mem ((settlePart_mem ..).trans ((sendLaunchDone_mem ..).trans
      ((foldl_mem _ (by simp) _ _).trans (by simp)))) hs)

theorem execTokenCharge_keeps {s : State} (hs : s.MemoryKept) : Keeps (execTokenCharge s) := by
  refine keeps_next (foldl_kept (fun u p hu => ite_kept (kept_of_mem (by simp) hu) hu) _ (foldl_kept (fun u x hu => ?_) _ hs))
  dsimp only
  split
  · exact kept_of_mem (by simp) hu
  · exact hu

theorem execTokenRefill_keeps {s : State} (hs : s.MemoryKept) : Keeps (execTokenRefill s) :=
  keeps_next (foldl_kept (fun u p hu => kept_of_mem (refillOne_mem u p) hu) _ hs)

theorem execWaveEviction_keeps {s : State} (hs : s.MemoryKept) (launch core : Nat) :
    Keeps (execWaveEviction launch core s) := by
  unfold execWaveEviction
  split
  · exact keeps_next (saveWave_kept hs _ _)
  · refine keeps_ite (keeps_refused _) ?_
    split
    · exact keeps_refused _
    · split
      · exact keeps_event (kept_of_mem (by simp) hs)
      · exact keeps_event (foldl_kept (fun u t hu => kept_of_mem (startLeaving_mem u t) hu) _ (kept_of_mem (by simp) hs))

theorem execEvictionAbandon_keeps {s : State} (hs : s.MemoryKept) (t : ThreadRef) :
    Keeps (execEvictionAbandon t s) := by
  unfold execEvictionAbandon
  split
  · refine keeps_ite (keeps_refused _) (keeps_ite (keeps_next ?_) (keeps_next (kept_of_mem (by simp) hs)))
    exact kept_of_mem (foldl_mem _ (by simp) _ _) hs
  · exact keeps_refused _

theorem execTimeSliceExpiry_keeps {s : State} (hs : s.MemoryKept) (core block : Nat) :
    Keeps (execTimeSliceExpiry core block s) := by
  unfold execTimeSliceExpiry
  split
  · exact keeps_refused _
  · exact keeps_event (kept_of_mem (by simp) hs)

theorem execBlockEviction_keeps {s : State} (hs : s.MemoryKept) (core block : Nat) :
    Keeps (execBlockEviction core block s) := by
  unfold execBlockEviction
  split
  · exact keeps_refused _
  · split
    · exact keeps_refused _
    · refine keeps_ite (keeps_refused _) ?_
      split
      · exact keeps_next (kept_of_mem (by simp) hs)
      next all _ _ _ =>
        refine keeps_next ?_
        cases hb : saveBlocks s (leavesWith s core block _) with
        | none => exact kept_of_mem (foldl_mem _ (by simp) _ _) hs
        | some u => exact saveBlocks_kept hs hb
    · split
      · exact keeps_refused _
      · exact keeps_event (kept_of_mem (by simp) hs)

theorem execRestore_keeps {s : State} (hs : s.MemoryKept) (partition core : Nat) :
    Keeps (execRestore partition core s) := by
  unfold execRestore
  refine keeps_ite (keeps_refused _) ?_
  split
  · exact keeps_refused _
  · exact keeps_next (foldl_kept (fun u x hu => kept_of_mem (restoreImage_mem ..) hu) _ hs)

theorem execMigration_keeps {s : State} (hs : s.MemoryKept) (core block target : Nat) :
    Keeps (execMigration core block target s) := by
  unfold execMigration
  refine keeps_ite (keeps_fault _) ?_
  split
  · exact keeps_refused _
  · dsimp only
    split
    · refine keeps_ite (keeps_refused _) (keeps_ite (keeps_next (kept_of_mem (by simp) hs)) (keeps_ite (keeps_refused _)
        (keeps_ite (keeps_next (kept_of_mem (by simp) hs)) (keeps_ite (keeps_next (kept_of_mem (by simp) hs)) ?_))))
      split
      · exact keeps_next (kept_of_mem (by simp) hs)
      next hb => exact keeps_next (kept_of_mem (restoreImage_mem ..) (saveBlock_kept hs hb))
    · exact keeps_refused _
    · exact keeps_ite (keeps_refused _) (keeps_ite (keeps_next hs) (keeps_next (kept_of_mem (by simp) hs)))

theorem execBlockPlacement_keeps {s : State} (hs : s.MemoryKept) (launch core : Nat) :
    Keeps (execBlockPlacement launch core s) := by
  unfold execBlockPlacement
  refine keeps_ite (keeps_fault _) ?_
  split
  · exact keeps_refused _
  · exact keeps_next (kept_of_mem (by simp) hs)

theorem execBrp_keeps {s : State} (hs : s.MemoryKept) (p : BitVec 3) (n : Bool) (o : BitVec 20) :
    Keeps (execBrp p n o s) :=
  keeps_issue_frame hs (by simp)

theorem execCmp_keeps {s : State} (hs : s.MemoryKept) (c : BitVec 4) (p : BitVec 3) (a b : Reg) :
    Keeps (execCmp c p a b s) :=
  keeps_issue_frame hs (by simp)

theorem execSel_keeps {s : State} (hs : s.MemoryKept) (d a b : Reg) : Keeps (execSel d a b s) :=
  keeps_issue_frame hs (by simp)

theorem execMov_keeps {s : State} (hs : s.MemoryKept) (d a : Reg) : Keeps (execMov d a s) := by
  unfold execMov
  refine keeps_runGate hs fun c u hu => kept_of_mem ?_ hu
  split
  · simp
  · split <;> simp

theorem execTagof_keeps {s : State} (hs : s.MemoryKept) (d a : Reg) : Keeps (execTagof d a s) :=
  keeps_issue_frame hs (by simp)

theorem execVsdrop_keeps {s : State} (hs : s.MemoryKept) (d : Reg) : Keeps (execVsdrop d s) :=
  keeps_issue_frame hs (by simp)

theorem execGear_keeps {s : State} (hs : s.MemoryKept) (d a : Reg) : Keeps (execGear d a s) := by
  refine keeps_perform_frame hs fun c u => ?_
  dsimp only
  (repeat' split) <;> simp

theorem execFltq_keeps {s : State} (hs : s.MemoryKept) (d : Reg) : Keeps (execFltq d s) :=
  keeps_perform_frame hs fun _ _ => by (repeat' split) <;> simp

theorem execMapft_keeps {s : State} (hs : s.MemoryKept) (d a : Reg) : Keeps (execMapft d a s) := by
  refine keeps_perform hs fun c u hu => ?_
  have hm := mapFirstTouch_kept hu c.part (c.pair a)
  obtain ⟨⟨v, status⟩, h⟩ : ∃ x, mapFirstTouch u c.part (c.pair a) = x := ⟨_, rfl⟩
  rw [h] at hm
  rw [h]
  exact kept_of_mem (by simp) hm

theorem execReplay_keeps {s : State} (hs : s.MemoryKept) : Keeps (execReplay s) := by
  refine keeps_perform_frame hs fun c u => ?_
  dsimp only
  split
  · simp
  · split
    · simp
    · exact (stepOn_mem ..).trans (foldl_mem _ (by simp) _ _)

theorem execCancel_keeps {s : State} (hs : s.MemoryKept) (a : Reg) : Keeps (execCancel a s) := by
  refine keeps_perform_frame hs fun c u => ?_
  split
  · simp
  · exact (stepOn_mem ..).trans (foldl_mem _ (by simp) _ _)

theorem execResumeb_keeps {s : State} (hs : s.MemoryKept) (a : Reg) : Keeps (execResumeb a s) :=
  keeps_perform_frame hs fun c u => (stepOn_mem ..).trans (foldl_mem _ (by simp) _ _)

theorem execErrinj_keeps {s : State} (hs : s.MemoryKept) (a : Reg) : Keeps (execErrinj a s) :=
  keeps_perform_frame hs fun _ _ => by split <;> simp

theorem execLdoDroop_keeps {s : State} (hs : s.MemoryKept) (core : Nat) : Keeps (execLdoDroop core s) :=
  keeps_ite (keeps_fault _) (keeps_next (kept_of_mem (by simp) hs))

theorem execPowerInterval_keeps {s : State} (hs : s.MemoryKept) (samples : List CoreSample) (points : List PointWrite) :
    Keeps (execPowerInterval samples points s) := by
  refine keeps_ite (keeps_next ?_) (keeps_refused _)
  refine foldl_kept (fun u x hu => kept_of_mem (by simp) hu) _ (foldl_kept (fun u x hu => kept_of_mem (by simp) hu) _ ?_)
  refine kept_of_mem rfl (foldl_kept (f := fun u c => u.modCore c applyIdle) (fun u x hu => kept_of_mem (by simp) hu) _
    (foldl_kept (f := applySample) (fun u x hu => kept_of_mem (by simp) hu) _ hs))

theorem execGearShiftStart_keeps {s : State} (hs : s.MemoryKept) (core : Nat) : Keeps (execGearShiftStart core s) := by
  refine keeps_ite (keeps_fault _) (keeps_ite (keeps_refused _) (keeps_next (kept_of_mem ?_ hs)))
  dsimp only
  split <;> simp

theorem execGearShiftEnd_keeps {s : State} (hs : s.MemoryKept) (core : Nat) : Keeps (execGearShiftEnd core s) := by
  unfold execGearShiftEnd
  dsimp only
  split
  · exact keeps_refused _
  · exact keeps_next (kept_of_mem (by simp) hs)

theorem execThermalLimit_keeps {s : State} (hs : s.MemoryKept) (core celsius : Nat) :
    Keeps (execThermalLimit core celsius s) :=
  keeps_ite (keeps_fault _) (keeps_next (kept_of_mem (by simp) hs))

theorem execSync_keeps {s : State} (hs : s.MemoryKept) (r : HostRecord) : Keeps (execSync r s) := by
  unfold execSync
  split
  · exact keeps_refused _
  · exact keeps_event (kept_of_mem (by simp) hs)

theorem execUnknownRecord_keeps {s : State} (hs : s.MemoryKept) (r : HostRecord) : Keeps (execUnknownRecord r s) := by
  unfold execUnknownRecord
  split
  · exact keeps_refused _
  · exact keeps_event (kept_of_mem (by simp) hs)

theorem execRmaPut_keeps {s : State} (hs : s.MemoryKept) (job : Nat) (secured : Bool) (va : Nat) (bytes : List Byte) :
    Keeps (execRmaPut job secured va bytes s) := by
  unfold execRmaPut
  split
  · exact keeps_refused _
  next p _ =>
    split
    · exact keeps_next (kept_of_mem (by simp) hs)
    next parts _ => exact keeps_next (kept_of_mem (startWork_mem ..) (putPieces_kept hs p (shareBytes parts bytes)))

theorem execRmaGet_keeps {s : State} (hs : s.MemoryKept) (job : Nat) (secured : Bool) (va length : Nat) :
    Keeps (execRmaGet job secured va length s) := by
  unfold execRmaGet
  split
  · exact keeps_refused _
  · split
    · exact keeps_next (kept_of_mem (by simp) hs)
    · exact keeps_next (kept_of_mem (by simp) hs)

theorem execSealSegment_keeps {s : State} (hs : s.MemoryKept) (r : HostRecord) : Keeps (execSealSegment r s) :=
  keeps_hostRecord hs fun stream _ hu => sealSegmentAct_kept hu true r stream

theorem execUnsealSegment_keeps {s : State} (hs : s.MemoryKept) (r : HostRecord) : Keeps (execUnsealSegment r s) :=
  keeps_hostRecord hs fun stream _ hu => sealSegmentAct_kept hu false r stream

theorem execRemoteRequest_keeps {s : State} (hs : s.MemoryKept) (via : Landing) (m : RemoteMsg) :
    Keeps (execRemoteRequest via m s) :=
  keeps_bring hs fun _ hu => keeps_event (serveRequest_kept hu m)

theorem execRemoteResponse_keeps {s : State} (hs : s.MemoryKept) (via : Landing) (r : RemoteReply) :
    Keeps (execRemoteResponse via r s) := by
  refine keeps_bring hs fun u hu => ?_
  split
  · exact keeps_next hu
  · exact keeps_event (kept_of_mem (by simp) hu)

theorem execRemoteTimeout_keeps {s : State} (hs : s.MemoryKept) (home number : Nat) :
    Keeps (execRemoteTimeout home number s) := by
  unfold execRemoteTimeout
  split
  · exact keeps_refused _
  · exact keeps_next (kept_of_mem (by simp) hs)

theorem execReductionContribution_keeps {s : State} (hs : s.MemoryKept) (c : ContributionIn) :
    Keeps (execReductionContribution c s) :=
  keeps_bring hs fun u hu => keeps_event (ite_kept (kept_of_mem (by simp) hu) hu)

theorem execReductionResult_keeps {s : State} (hs : s.MemoryKept) (r : ResultIn) : Keeps (execReductionResult r s) := by
  unfold execReductionResult
  split
  · exact keeps_ite (keeps_refused _) (keeps_delivered hs)
  · exact keeps_bring hs fun u hu => keeps_delivered hu

theorem execCopyComplete_keeps {s : State} (hs : s.MemoryKept) (core block cmd : Nat) :
    Keeps (execCopyComplete core block cmd s) := by
  have hf := finishCopy_kept hs ⟨core, block, ccpThread⟩ cmd
  refine keeps_ite (keeps_respond hs hs) ?_
  split
  next he => rw [he] at hf; exact keeps_next hf
  · exact keeps_refused _

theorem execCopyStop_keeps {s : State} (hs : s.MemoryKept) (core block cmd : Nat) (fabric : Bool) :
    Keeps (execCopyStop core block cmd fabric s) := by
  have hf := finishCopy_kept hs ⟨core, block, ccpThread⟩ cmd
  unfold execCopyStop
  split
  next he => rw [he] at hf; exact keeps_event hf
  · exact keeps_refused _

theorem execLaunch_keeps {s : State} (hs : s.MemoryKept) (r : HostRecord) : Keeps (execLaunch r s) :=
  keeps_hostRecord hs fun _ _ hu => launchAct_kept hu r

theorem execStatsread_keeps {s : State} (hs : s.MemoryKept) (r : HostRecord) : Keeps (execStatsread r s) :=
  keeps_hostRecord hs fun _ _ hu => Acted.ite_kept trivial (Acted.ite_kept trivial (kept_of_mem (by simp) hu))

theorem execRedgrp_keeps {s : State} (hs : s.MemoryKept) (r : HostRecord) : Keeps (execRedgrp r s) :=
  keeps_hostRecord hs fun _ _ hu => Acted.ite_kept trivial (Acted.ite_kept
    (Acted.ite_kept (kept_of_mem (by simp) hu) trivial) (Acted.ite_kept trivial (kept_of_mem (by simp) hu)))

theorem execPartcfg_keeps {s : State} (hs : s.MemoryKept) (r : HostRecord) : Keeps (execPartcfg r s) :=
  keeps_hostRecord hs fun _ _ hu => Acted.ite_kept trivial (Acted.ite_kept trivial (kept_of_mem (by simp) hu))

theorem execRailmap_keeps {s : State} (hs : s.MemoryKept) (r : HostRecord) : Keeps (execRailmap r s) :=
  keeps_hostRecord hs fun _ _ hu =>
    Acted.ite_kept trivial (foldl_kept (fun _ _ hv => kept_of_mem (by simp) hv) _ hu)

theorem execRackcap_keeps {s : State} (hs : s.MemoryKept) (r : HostRecord) : Keeps (execRackcap r s) :=
  keeps_hostRecord hs fun _ _ hu => Acted.ite_kept hu hu

theorem execModid_keeps {s : State} (hs : s.MemoryKept) (r : HostRecord) : Keeps (execModid r s) :=
  keeps_hostRecord hs fun _ _ hu => Acted.ite_kept trivial (Acted.ite_kept trivial hu)

theorem execMaintWindowClose_keeps {s : State} (hs : s.MemoryKept) (core ppm : Nat) :
    Keeps (execMaintWindowClose core ppm s) := by
  refine keeps_ite (keeps_fault _) ?_
  dsimp only
  split
  · exact keeps_refused _
  · exact keeps_ite (keeps_refused _) (keeps_next (kept_of_mem (by simp) hs))

theorem execExtend_keeps {s : State} (hs : s.MemoryKept) (r : HostRecord) : Keeps (execExtend r s) :=
  keeps_hostRecord hs fun _ _ hu => Acted.ite_kept trivial (Acted.ite_kept hu hu)

theorem execSpdm_keeps {s : State} (hs : s.MemoryKept) (r : HostRecord) : Keeps (execSpdm r s) :=
  keeps_hostRecord hs fun _ _ hu => Acted.ite_kept hu (kept_of_mem (by simp) hu)

theorem execDhalt_keeps {s : State} (hs : s.MemoryKept) (r : HostRecord) : Keeps (execDhalt r s) :=
  keeps_hostRecord hs fun _ _ hu => Acted.ite_kept trivial
    (Acted.ite_kept trivial (foldl_kept (fun _ _ hv => kept_of_mem (debugHalt_mem ..) hv) _ hu))

theorem execDresume_keeps {s : State} (hs : s.MemoryKept) (r : HostRecord) : Keeps (execDresume r s) :=
  keeps_hostRecord hs fun _ _ hu => Acted.ite_kept trivial
    (Acted.ite_kept trivial (foldl_kept (fun _ _ hv => kept_of_mem (resumeBlock_mem ..) hv) _ hu))

theorem execDread_keeps {s : State} (hs : s.MemoryKept) (r : HostRecord) : Keeps (execDread r s) := by
  refine keeps_hostRecord hs fun _ _ hu => Acted.ite_kept trivial ?_
  split
  · trivial
  · exact Acted.ite_kept trivial hu

theorem execDwrite_keeps {s : State} (hs : s.MemoryKept) (r : HostRecord) : Keeps (execDwrite r s) := by
  refine keeps_hostRecord hs fun _ _ hu => Acted.ite_kept trivial ?_
  split
  · trivial
  · exact Acted.ite_kept trivial (kept_of_mem (by simp) hu)

theorem execPowerLoss_keeps {s : State} : Keeps (execPowerLoss s) := keeps_event rfl

theorem execSecurityAlarm_keeps {s : State} (hs : s.MemoryKept) (sensors : List Sensor) (time : Nat) :
    Keeps (execSecurityAlarm sensors time s) :=
  keeps_event (kept_of_mem ((actAlarm_mem ..).trans (foldl_mem _ (by simp) _ _)) hs)

theorem execRecoveryImage_keeps {s : State} (hs : s.MemoryKept) (image : List Byte) :
    Keeps (execRecoveryImage image s) := by
  unfold execRecoveryImage
  refine keeps_event ?_
  split
  · exact hs
  · exact hs

theorem execBootMemoryTrain_keeps {s : State} (hs : s.MemoryKept) (trained : Bool) (memoryDigest fuseDigest : List Byte) :
    Keeps (execBootMemoryTrain trained memoryDigest fuseDigest s) :=
  keeps_ite (keeps_event hs) (keeps_event (kept_of_mem (by simp) hs))

theorem execActiveSetExchange_keeps {s : State} (hs : s.MemoryKept) (core quad : Nat) :
    Keeps (execActiveSetExchange core quad s) := by
  unfold execActiveSetExchange
  dsimp only
  split
  · exact keeps_next (kept_of_mem (by simp) hs)
  · exact keeps_refused _

theorem execPendingPromotion_keeps {s : State} (hs : s.MemoryKept) (core quad : Nat) :
    Keeps (execPendingPromotion core quad s) := by
  unfold execPendingPromotion
  dsimp only
  split
  · exact keeps_next (kept_of_mem (by simp) hs)
  · exact keeps_refused _

theorem execBlockDeadlock_keeps {s : State} (hs : s.MemoryKept) (core block : Nat) :
    Keeps (execBlockDeadlock core block s) := by
  unfold execBlockDeadlock
  split
  · exact keeps_refused _
  · exact keeps_event (kept_of_mem (foldl_mem _ (by simp) _ _) hs)

theorem execFaultRecordEnqueue_keeps {s : State} (hs : s.MemoryKept) (t : ThreadRef) :
    Keeps (execFaultRecordEnqueue t s) := by
  unfold execFaultRecordEnqueue
  split
  · exact keeps_refused _
  · exact keeps_event (kept_of_mem (by simp) hs)

theorem execTrapEntry_keeps {s : State} (hs : s.MemoryKept) (t : ThreadRef) : Keeps (execTrapEntry t s) := by
  unfold execTrapEntry
  split
  · exact keeps_refused _
  · exact keeps_next (kept_of_mem (by simp) hs)

theorem execTrapWaitLimit_keeps {s : State} (hs : s.MemoryKept) (t : ThreadRef) : Keeps (execTrapWaitLimit t s) := by
  unfold execTrapWaitLimit
  split
  · exact keeps_refused _
  · exact keeps_next (kept_of_mem (by simp) hs)

theorem execPageWalkComplete_keeps {s : State} (hs : s.MemoryKept) (core walk : Nat) :
    Keeps (execPageWalkComplete core walk s) := by
  unfold execPageWalkComplete
  split
  · exact keeps_refused _
  · exact keeps_next (kept_of_mem (by simp) hs)

theorem execValuePublish_keeps {s : State} (hs : s.MemoryKept) (core : Nat) (entry : EntryRead) :
    Keeps (execValuePublish core entry s) := by
  unfold execValuePublish
  dsimp only
  split
  · exact keeps_ite (keeps_next (kept_of_mem (by simp) hs)) (keeps_refused _)
  · refine keeps_ite (keeps_next (kept_of_mem (by simp) hs)) (keeps_ite (keeps_next (kept_of_mem (by simp) hs)) ?_)
    exact keeps_next (foldl_kept (fun u w hu => ite_kept (kept_of_mem (by simp) hu) hu) _ (kept_of_mem (by simp) hs))

/-- Every instruction keeps memory's form: the groups are by what an instruction is made of. -/
theorem exec_keeps {s : State} (hs : s.MemoryKept) (i : Instr) : Keeps (exec i s) := by
  cases i with
  | nop | bra | joinat | call | callx | ret | exit | loop | brx | yield | sleep | bkpt | trap
  | illegalInstruction | vote | pmovToScalar | pmovToPredicate | mode | setf | mts | xlat | graise | phase
  | rgn | rgnend | fence | bar | waitb | testb | waitc | gang | mma | mmaz | mmas | epi | rowsum | cmpr
  | cbld | qacc | clrt | mtrn | ldef | lpush | lread | lrung | lsetr | lstep | lstepw | lclr | cpy | cpy2
  | cpyx | cpym | cpye | cpyg | redx | cwait | cstat | rft | haltb | drain | tlbinv | mtsv | vsflush =>
    exact keeps_perform_frame hs (by simp)
  | ldg | stg | lds | sts | ldb | stb | atomg | atomg64 | casg | atoms | cass =>
    exact keeps_issue_frame hs (by simp)
  | iadd | isub | imul | imulh | imad | imin | imax | iabs | ineg | iaddi | movi | movhi | and | or | xor
  | not | shl | shr | sar | rol | popc | clz | brev | bfe | bfi | prmt | fadd | fsub | fmul | fma | fmin
  | fmax | fabs | fneg | rcp | rsq | sqrt | ex2 | lg2 | sin | cos | frnd | cvt | pk2 | pk4 | upk | bscl
  | shfl | shflu | shfld | shflx | rdlane | wrlane | redadd | redmin | redmax | scan | liw | ldk =>
    exact keeps_laneWord hs _
  | mfs | mfsv =>
    exact keeps_performEach_frame hs (by simp)
  | joinMerge | sleepExpiry | operandsConsumed | pageFaultLog | regionRestart | waveEnd | rackcapLeaseExpiry
  | powerOn | moduleReset | bootRom | bootImageLoad | bootComputeRails | bootTempAlarm | bootPortsUp
  | recoveryStatusRead =>
    exact keeps_event (kept_of_mem (by simp) hs)
  | autoProof | flitNak | flitAck | linkDown | uncorrectableCodeword | linkTrainingComplete | droppedPacket =>
    exact keeps_ite (keeps_fault _) (keeps_event (kept_of_mem (by simp) hs))
  | lifetimeSave =>
    exact keeps_next (kept_of_mem (by simp) hs)
  | ctrread | route | window | liferead | seccfg =>
    exact keeps_hostRecord hs fun _ _ hu => Acted.ite_kept trivial hu
  | mbasinCancel | ctrwrite | budget | ctxarea | maint | darm =>
    exact keeps_hostRecord hs fun _ _ hu => Acted.ite_kept trivial (kept_of_mem (by simp) hu)
  | brp p n o => exact execBrp_keeps hs p n o
  | cmp c p a b => exact execCmp_keeps hs c p a b
  | sel d a b => exact execSel_keeps hs d a b
  | mov d a => exact execMov_keeps hs d a
  | tagof d a => exact execTagof_keeps hs d a
  | vsdrop d => exact execVsdrop_keeps hs d
  | gear d a => exact execGear_keeps hs d a
  | ldgk d o x w h => exact execLdgk_keeps hs d o x w h
  | prf o x h => exact execPrf_keeps hs o x h
  | arrive d n => exact execArrive_keeps hs d n
  | rawait d n => exact execRawait_keeps hs d n
  | rrel n => exact execRrel_keeps hs n
  | rpost a n => exact execRpost_keeps hs a n
  | rinit n a => exact execRinit_keeps hs n a
  | ccan a => exact execCcan_keeps hs a
  | rfill a => exact execRfill_keeps hs a
  | fltq d => exact execFltq_keeps hs d
  | mapft d a => exact execMapft_keeps hs d a
  | replay => exact execReplay_keeps hs
  | cancel a => exact execCancel_keeps hs a
  | errinj a => exact execErrinj_keeps hs a
  | resumeb a => exact execResumeb_keeps hs a
  | valuePublish core entry => exact execValuePublish_keeps hs core entry
  | activeSetExchange core quad => exact execActiveSetExchange_keeps hs core quad
  | pendingPromotion core quad => exact execPendingPromotion_keeps hs core quad
  | blockDeadlock core block => exact execBlockDeadlock_keeps hs core block
  | loadComplete t ecc => exact execLoadComplete_keeps hs t ecc
  | storePerformed t => exact execStorePerformed_keeps hs t
  | atomicComplete t ecc => exact execAtomicComplete_keeps hs t ecc
  | postWrite t => exact execPostWrite_keeps hs t
  | matrixComplete core => exact execMatrixComplete_keeps hs core
  | ladderComplete core => exact execLadderComplete_keeps hs core
  | copyComplete core block cmd => exact execCopyComplete_keeps hs core block cmd
  | copyStop core block cmd fabric => exact execCopyStop_keeps hs core block cmd fabric
  | faultRecordEnqueue t => exact execFaultRecordEnqueue_keeps hs t
  | trapEntry t => exact execTrapEntry_keeps hs t
  | trapWaitLimit t => exact execTrapWaitLimit_keeps hs t
  | constantSnapshot launch => exact execConstantSnapshot_keeps hs launch
  | blockPlacement launch core => exact execBlockPlacement_keeps hs launch core
  | launchRetire launch => exact execLaunchRetire_keeps hs launch
  | tokenCharge => exact execTokenCharge_keeps hs
  | tokenRefill => exact execTokenRefill_keeps hs
  | timeSliceExpiry core block => exact execTimeSliceExpiry_keeps hs core block
  | waveEviction launch core => exact execWaveEviction_keeps hs launch core
  | evictionAbandon t => exact execEvictionAbandon_keeps hs t
  | blockEviction core block => exact execBlockEviction_keeps hs core block
  | restore partition core => exact execRestore_keeps hs partition core
  | migration core block target => exact execMigration_keeps hs core block target
  | powerInterval samples points => exact execPowerInterval_keeps hs samples points
  | gearShiftStart core => exact execGearShiftStart_keeps hs core
  | gearShiftEnd core => exact execGearShiftEnd_keeps hs core
  | thermalLimit core celsius => exact execThermalLimit_keeps hs core celsius
  | launch r => exact execLaunch_keeps hs r
  | sealSegment r => exact execSealSegment_keeps hs r
  | unsealSegment r => exact execUnsealSegment_keeps hs r
  | statsread r => exact execStatsread_keeps hs r
  | redgrp r => exact execRedgrp_keeps hs r
  | spdm r => exact execSpdm_keeps hs r
  | partcfg r => exact execPartcfg_keeps hs r
  | railmap r => exact execRailmap_keeps hs r
  | rackcap r => exact execRackcap_keeps hs r
  | modid r => exact execModid_keeps hs r
  | maintWindowClose core ppm => exact execMaintWindowClose_keeps hs core ppm
  | extend r => exact execExtend_keeps hs r
  | dhalt r => exact execDhalt_keeps hs r
  | dread r => exact execDread_keeps hs r
  | dwrite r => exact execDwrite_keeps hs r
  | dresume r => exact execDresume_keeps hs r
  | sync r => exact execSync_keeps hs r
  | unknownRecord r => exact execUnknownRecord_keeps hs r
  | rmaPut job secured va bytes => exact execRmaPut_keeps hs job secured va bytes
  | rmaGet job secured va length => exact execRmaGet_keeps hs job secured va length
  | remoteRequest via m => exact execRemoteRequest_keeps hs via m
  | remoteResponse via r => exact execRemoteResponse_keeps hs via r
  | remoteTimeout home number => exact execRemoteTimeout_keeps hs home number
  | reductionContribution c => exact execReductionContribution_keeps hs c
  | reductionResult r => exact execReductionResult_keeps hs r
  | bootMemoryTrain trained memoryDigest fuseDigest => exact execBootMemoryTrain_keeps hs trained memoryDigest fuseDigest
  | recoveryImage image => exact execRecoveryImage_keeps hs image
  | securityAlarm sensors time => exact execSecurityAlarm_keeps hs sensors time
  | pageWalkComplete core walk => exact execPageWalkComplete_keeps hs core walk
  | powerLoss => exact execPowerLoss_keeps
  | ldoDroop core => exact execLdoDroop_keeps hs core

/-! ### What a step keeps -/

theorem takeStep_keeps {s : State} (hs : s.MemoryKept) (i : Instr) : Keeps (takeStep i s) := by
  unfold takeStep
  split
  next h => exact keeps_next (kept_of_mem (close_mem ..) (exec_keeps hs i _ h))
  · exact keeps_fault _
  · exact keeps_refused _

theorem tryWord_keeps {s : State} (hs : s.MemoryKept) : Keeps (tryWord s) := by
  unfold tryWord
  split
  · exact keeps_next hs
  · split
    · exact exec_keeps hs _
    · exact keeps_next (kept_of_mem (fetchFault_mem ..) hs)

theorem issueWord_keeps {s : State} (hs : s.MemoryKept) : Keeps (issueWord s) := by
  unfold issueWord
  split
  next h => exact keeps_next (kept_of_mem (handOn_mem ..) (tryWord_keeps hs _ h))
  · exact keeps_fault _
  · exact keeps_refused _

theorem keeps_idle {s : State} (hs : s.MemoryKept) : Keeps (.next (idle s)) :=
  keeps_next (kept_of_mem (idle_mem s) hs)

theorem issueStep_keeps {s : State} (hs : s.MemoryKept) : Keeps (issueStep s) := by
  refine keeps_ite (issueWord_keeps hs) ?_
  split
  · exact issueWord_keeps (kept_of_mem rfl hs)
  · exact keeps_idle hs

theorem agendaStep_keeps {s : State} (hs : s.MemoryKept) (i : Instr) (rest : List Instr) :
    Keeps (agendaStep i rest s) := by
  have hr : State.MemoryKept { s with agenda := rest } := hs
  refine keeps_ite (keeps_idle hr) ?_
  split
  · exact keeps_idle hr
  · exact takeStep_keeps hr i

theorem ownStep_keeps {s : State} (hs : s.MemoryKept) : Keeps (ownStep s) := by
  unfold ownStep
  split
  · exact takeStep_keeps hs _
  · refine keeps_ite ?_ (issueStep_keeps hs)
    split
    next i _ =>
      have ht : State.MemoryKept { s with phase := false, turn := s.turn + 1 } := hs
      exact takeStep_keeps ht i
    · exact issueStep_keeps hs

theorem nextStep_keeps {s : State} (hs : s.MemoryKept) : Keeps (nextStep s) := by
  unfold nextStep
  split
  · exact agendaStep_keeps hs _ _
  · exact keeps_ite (ownStep_keeps hs) (keeps_idle hs)

/-- Settles O6: every step is the idling of a module, a word, or a step of a unit, and each instruction keeps the form. -/
theorem memoryStaysCanonical : Obligations.MemoryStaysCanonical := fun _ t hs h => nextStep_keeps hs t h

/-- Settles O7: memory at reset lists no byte, and a byte that is not listed reads as 0 under every key. -/
theorem resetMemoryCanonical : Obligations.ResetMemoryCanonical := ⟨memoryKept_reset, fun _ _ => rfl⟩

end Sys2Proof.Machine

/-! ## The issue of matrix words

A matrix word changes at most its own thread and, on its own core, the engine's queue or the latch. A wait and a trap change
the thread alone; an entry into the queue and an arrival at the latch are each a change of the thread together with a change of
the core that keeps the core's blocks, so that no byte of a region moves. -/

namespace Sys2Proof.Machine
open Sys2Proof

/-! ### Changes inside one core that leave every byte alone -/

theorem SameOutside.trans {s t u : State} (h : SameOutside s t) (k : SameOutside t u) : SameOutside s u := by
  unfold SameOutside at *
  exact (congrArg (fun x : State => { x with cores := s.cores, seq := s.seq }) k).trans h

theorem OnlyCore.trans {core : Nat} {s t u : State} (h : OnlyCore core s t) (k : OnlyCore core t u) : OnlyCore core s u :=
  ⟨h.1.trans k.1, fun c hc => (k.2 c hc).trans (h.2 c hc)⟩

theorem SameMemory.trans {s t u : State} (h : SameMemory s t) (k : SameMemory t u) : SameMemory s u :=
  ⟨fun key a => (k.1 key a).trans (h.1 key a), k.2.1.trans h.2.1, fun c b code o => (k.2.2 c b code o).trans (h.2.2 c b code o)⟩

/-- Nothing has changed but one core and issue numbers, and every byte of memory and of a region reads as before. -/
def WithinCore (core : Nat) (s t : State) : Prop := OnlyCore core s t ∧ SameMemory s t

theorem WithinCore.trans {core : Nat} {s t u : State} (h : WithinCore core s t) (k : WithinCore core t u) :
    WithinCore core s u := ⟨h.1.trans k.1, h.2.trans k.2⟩

theorem withinCore_modThread (s : State) (t : ThreadRef) (f : Thread → Thread) : WithinCore t.core s (s.modThread t f) :=
  have ⟨⟨hcore, _⟩, hmem, _⟩ := onlyThread_modThread s s.seq t f
  ⟨hcore, hmem⟩

theorem withinCore_seq (core : Nat) (s : State) (n : Nat) : WithinCore core s { s with seq := n } :=
  ⟨⟨rfl, fun _ _ => rfl⟩, fun _ _ => rfl, rfl, fun _ _ _ _ => rfl⟩

/-- A change of a core that keeps its blocks shows in no block. -/
theorem blockAt_modCore_blocks (s : State) (core : Nat) {f : Core → Core} (hf : ∀ k, (f k).blocks = k.blocks) (c b : Nat) :
    (s.modCore core f).blockAt c b = s.blockAt c b := by
  by_cases h : c = core
  · subst h; simp [State.blockAt, hf]
  · exact blockAt_modCore_other s b f h

theorem threadAt_modCore_blocks (s : State) (core : Nat) {f : Core → Core} (hf : ∀ k, (f k).blocks = k.blocks)
    (t : ThreadRef) : (s.modCore core f).threadAt t = s.threadAt t := by
  simp only [State.threadAt, blockAt_modCore_blocks s core hf]

theorem withinCore_modCore_blocks (s : State) (core : Nat) {f : Core → Core} (hf : ∀ k, (f k).blocks = k.blocks) :
    WithinCore core s (s.modCore core f) := by
  refine ⟨onlyCore_modCore s core f, fun _ _ => rfl, rfl, fun c b code o => ?_⟩
  simp only [State.regionByte, blockAt_modCore_blocks s core hf]

/-- A change of a thread leaves every core but for its blocks. -/
theorem coreAt_modThread_blocks (s : State) (t : ThreadRef) (f : Thread → Thread) (c : Nat) :
    { (s.modThread t f).coreAt c with blocks := (s.coreAt c).blocks } = s.coreAt c := by
  by_cases h : c = t.core
  · subst h; simp only [State.modThread, coreAt_modBlock_same]
  · simp only [State.modThread, coreAt_modBlock_other _ _ _ h]

@[simp] theorem engine_modThread (s : State) (t : ThreadRef) (f : Thread → Thread) (c : Nat) :
    ((s.modThread t f).coreAt c).engine = (s.coreAt c).engine := by
  have h := congrArg Core.engine (coreAt_modThread_blocks s t f c)
  exact h

@[simp] theorem ladderQ_modThread (s : State) (t : ThreadRef) (f : Thread → Thread) (c : Nat) :
    ((s.modThread t f).coreAt c).ladderQ = (s.coreAt c).ladderQ := by
  have h := congrArg Core.ladderQ (coreAt_modThread_blocks s t f c)
  exact h

@[simp] theorem arrivals_modThread (s : State) (t : ThreadRef) (f : Thread → Thread) (c : Nat) :
    ((s.modThread t f).coreAt c).arrivals = (s.coreAt c).arrivals := by
  have h := congrArg Core.arrivals (coreAt_modThread_blocks s t f c)
  exact h

theorem coreAt_seq (s : State) (n c : Nat) : ({ s with seq := n }).coreAt c = s.coreAt c := rfl

/-! ### What the bookkeeping of an issue leaves -/

theorem withinCore_begun (c : Ctx) (s : State) : WithinCore c.ref.core s (c.begun s) :=
  (withinCore_modThread s c.ref _).trans (withinCore_seq _ _ _)

@[simp] theorem engine_begun (c : Ctx) (s : State) (k : Nat) : ((c.begun s).coreAt k).engine = (s.coreAt k).engine := by
  rw [begun_eq]; exact engine_modThread ..

@[simp] theorem ladderQ_begun (c : Ctx) (s : State) (k : Nat) : ((c.begun s).coreAt k).ladderQ = (s.coreAt k).ladderQ := by
  rw [begun_eq]; exact ladderQ_modThread ..

@[simp] theorem arrivals_begun (c : Ctx) (s : State) (k : Nat) : ((c.begun s).coreAt k).arrivals = (s.coreAt k).arrivals := by
  rw [begun_eq]; exact arrivals_modThread ..

/-- Holding a slot whose word had begun to issue takes the bookkeeping of the issue back (R148). -/
theorem holdAt_issued {s : State} {c : Ctx} (a : Agent s c) (h : Hold) {u : State} (hu : u.threadAt c.ref = some c.issued) :
    (c.holdAt h u).threadAt c.ref = some (c.heldAt h) := by
  simp only [Ctx.holdAt, threadAt_modThread_same, hu, Option.map_some, Option.some.injEq]
  simp only [Ctx.issued, Ctx.heldAt, Thread.modSlot, Slot.issued, slot_setSlot, setSlot_setSlot, a.cur]

/-- A word that waits leaves its slot held at it, and nothing else (R148). -/
theorem holdAt_begun {s : State} {c : Ctx} (a : Agent s c) (h : Hold) :
    OnlyThread c.ref s (c.holdAt h (c.begun s)) ∧ (c.holdAt h (c.begun s)).threadAt c.ref = some (c.heldAt h) :=
  ⟨(begun_modThread a _).1, holdAt_issued a h (threadAt_begun a)⟩

/-- Giving up walks changes no block, so it commutes with a change of a thread. -/
theorem cancelWalks_modThread (s : State) (r t : ThreadRef) (f : Thread → Thread) (h : r.core = t.core) :
    cancelWalks (s.modThread t f) r = (cancelWalks s r).modThread t f := by
  simp only [cancelWalks, State.modThread, State.modBlock, h, modCore_modCore]

/-- A precise trap whose lanes are the whole slot parks it, and changes nothing else (R252). -/
theorem raise_begun {s : State} {c : Ctx} (a : Agent s c) (hccp : c.thread.ccp = false) (hm : c.eff = c.cur.mask)
    (cause : Cause) (synd : Word) (va : Nat) :
    let info : TrapInfo := { cause := cause, lanes := c.cur.mask, synd := synd, va := va, pc := c.cur.pc, seq := c.seq }
    OnlyThread c.ref (cancelWalks s c.ref) (c.raise cause c.eff synd va (c.begun s)) ∧
      (c.raise cause c.eff synd va (c.begun s)).threadAt c.ref = some (c.parkedWhole info) := by
  intro info
  have hmask : info.lanes = (c.issued.paths.slot c.slot).mask := by
    simp [info, Ctx.issued, Slot.issued, ← a.cur]
  have hpark := parkLanes_whole (info := info) (next := c.next) (threadAt_begun a) hccp hmask
  have hraise : c.raise cause c.eff synd va (c.begun s) = parkLanes (c.begun s) c.ref c.slot info info.lanes c.next := by
    rw [Ctx.raise, hm]
  rw [hraise, hpark]
  constructor
  · rw [begun_eq]
    change OnlyThread c.ref _ { (cancelWalks (s.modThread c.ref _) c.ref).modThread c.ref _ with seq := s.seq + 1 }
    rw [cancelWalks_modThread _ _ _ _ rfl, modThread_modThread]
    exact onlyThread_modThread (cancelWalks s c.ref) (s.seq + 1) c.ref _
  · rw [threadAt_modThread_same, threadAt_cancelWalks, threadAt_begun a]
    rfl

/-! ### Entering the engine's queue (R133) -/

/-- A core whose engine's queue has gained an operation of a number. -/
def Core.queueOp (k : Core) (n opcode : Nat) (ms : List EngineMember) : Core :=
  { k with engine := k.engine ++ [{ seq := n, opcode := opcode, members := ms }], engineSeq := n + 1 }

theorem queueOp_blocks (k : Core) (n opcode : Nat) (ms : List EngineMember) : (k.queueOp n opcode ms).blocks = k.blocks := rfl

theorem queueOp_engine (k : Core) (n opcode : Nat) (ms : List EngineMember) :
    (k.queueOp n opcode ms).engine = k.engine ++ [{ seq := n, opcode := opcode, members := ms }] := rfl

theorem queueOp_ladderQ (k : Core) (n opcode : Nat) (ms : List EngineMember) : (k.queueOp n opcode ms).ladderQ = k.ladderQ := rfl

/-- Taking armed checks changes the arms of the thread alone. -/
theorem armMember_thread (opcode : Nat) (th : Thread) (m : EngineMember) :
    ∃ arms, (armMember opcode th m).1 = { th with arms := arms } := by
  simp only [armMember]
  split
  · exact ⟨_, rfl⟩
  · exact ⟨_, rfl⟩

section
variable {s : State} {core opcode : Nat} {m : EngineMember} {th : Thread} (h : s.threadAt m.thread = some th)
include h

/-- An operation of one member enters at the end of the queue; its thread gives up the armed checks that it takes (R364). -/
theorem enterEngine_single :
    enterEngine s core opcode [m] =
      { (s.modThread m.thread fun _ => (armMember opcode th { m with seq := s.seq }).1).modCore core fun k =>
          k.queueOp (s.coreAt core).engineSeq opcode [(armMember opcode th { m with seq := s.seq }).2] with
        seq := s.seq + 1 } := by
  simp only [enterEngine, List.foldl_cons, List.foldl_nil, h, List.nil_append]
  rfl

theorem engine_enterEngine :
    ((enterEngine s core opcode [m]).coreAt core).engine = (s.coreAt core).engine ++
      [{ seq := (s.coreAt core).engineSeq, opcode := opcode, members := [(armMember opcode th { m with seq := s.seq }).2] }] := by
  rw [enterEngine_single h, coreAt_seq, coreAt_modCore_same, queueOp_engine, engine_modThread]

theorem ladderQ_enterEngine : ((enterEngine s core opcode [m]).coreAt core).ladderQ = (s.coreAt core).ladderQ := by
  rw [enterEngine_single h, coreAt_seq, coreAt_modCore_same, queueOp_ladderQ, ladderQ_modThread]

theorem threadAt_enterEngine : ∃ arms, (enterEngine s core opcode [m]).threadAt m.thread = some { th with arms := arms } := by
  obtain ⟨arms, harms⟩ := armMember_thread opcode th { m with seq := s.seq }
  refine ⟨arms, ?_⟩
  rw [enterEngine_single h, threadAt_seq, threadAt_modCore_blocks _ _ fun k => queueOp_blocks k _ _ _,
    threadAt_modThread_same, h, Option.map_some, harms]

theorem withinCore_enterEngine : WithinCore m.thread.core s (enterEngine s m.thread.core opcode [m]) := by
  rw [enterEngine_single h]
  exact ((withinCore_modThread s m.thread _).trans
    (withinCore_modCore_blocks _ _ fun k => queueOp_blocks k _ _ _)).trans (withinCore_seq _ _ _)

end

/-! ### Arriving at the latch (R130) -/

/-- A core whose latch has gained an arrival. -/
def Core.latchArrival (k : Core) (x : Arrival) : Core := { k with arrivals := k.arrivals ++ [x] }

/-- Where the block has no arrival, a gang instruction whose gang has another wave, and whose waves can all still come, is
held at the latch. -/
theorem arriveLatch_first {c : Ctx} {opcode : Nat} {m : EngineMember} {s : State} (hm : m.thread = c.ref)
    (hme : hasLane c.thread.gang c.ref.thread = true) (hhere : ∀ w ∈ lanesOf c.thread.gang, waveGone c.block w = false)
    (hother : ∃ w ∈ lanesOf c.thread.gang, w ≠ c.ref.thread)
    (hnone : ∀ e ∈ (s.coreAt c.ref.core).arrivals, e.member.thread.block ≠ c.ref.block) :
    c.arriveLatch opcode m s = c.holdAt .latch (s.modCore c.ref.core fun k =>
      k.latchArrival { slot := c.slot, gang := c.thread.gang, opcode := opcode, member := m }) := by
  have hheld : ((s.coreAt c.ref.core).arrivals.filter fun a => a.member.thread.block = c.ref.block) = [] := by
    simpa using hnone
  have hcome : (lanesOf c.thread.gang).any (waveGone c.block) = false := by simpa using hhere
  have hmine : ∀ a ∈ byWave [{ slot := c.slot, gang := c.thread.gang, opcode := opcode, member := m }],
      a.member.thread.thread = c.ref.thread := by
    intro a ha
    obtain ⟨w, -, hw⟩ := List.mem_filterMap.mp ha
    rw [List.mem_singleton.mp (List.mem_of_find?_eq_some hw), hm]
  have hmissing : ((lanesOf c.thread.gang).all fun w =>
      (byWave [{ slot := c.slot, gang := c.thread.gang, opcode := opcode, member := m }]).any fun a =>
        a.member.thread.thread = w) = false := by
    obtain ⟨w, hw, hne⟩ := hother
    rw [List.all_eq_false]
    refine ⟨w, hw, fun hany => ?_⟩
    obtain ⟨a, ha, haw⟩ := List.any_eq_true.mp hany
    exact hne ((of_decide_eq_true haw).symm.trans (hmine a ha))
  simp [Ctx.arriveLatch, Core.latchArrival, hheld, hcome, hme, hmissing]

/-! ### What a matrix word does once its checks are known (R120, R126) -/

/-- The ten matrix words of a register. -/
def matrixInstrs (a : Reg) : List Instr :=
  [.mma a, .mmaz a, .mmas a, .epi a, .rowsum a, .cmpr a, .cbld a, .qacc a, .clrt a, .mtrn a]

/-- Each matrix word that runs has the one meaning of matrix words, by its own opcode. -/
theorem exec_matrix {i : Instr} {a : Reg} {s : State} {c : Ctx} (hi : i ∈ matrixInstrs a) (h : Runs i s c) :
    exec i s = .next (c.matrix i (c.begun s)) := by
  simp only [matrixInstrs, List.mem_cons, List.not_mem_nil, or_false] at hi
  rcases hi with rfl | rfl | rfl | rfl | rfl | rfl | rfl | rfl | rfl | rfl <;> exact perform_runs h

theorem member_thread (c : Ctx) (op : Nat) (i : Instr) : (c.member op i).thread = c.ref := rfl

theorem wordLength_matrix {i : Instr} {a : Reg} (hi : i ∈ matrixInstrs a) : wordLength i = 4 := by
  simp only [matrixInstrs, List.mem_cons, List.not_mem_nil, or_false] at hi
  rcases hi with rfl | rfl | rfl | rfl | rfl | rfl | rfl | rfl | rfl | rfl <;> rfl

section
variable {c : Ctx} {i : Instr} {op : Nat} {s : State} (hop : op = (opcodeOf i).getD 0)
include hop

theorem matrix_format {r : Nat} (h : formatReason c.core c.thread.regs op c.cur.fmt (c.member op i).rowsum = some r)
    (hr : r ≠ 4 ∨ c.tableComing = false) : c.matrix i s = c.formatTrap r s := by
  subst hop
  have : ¬((r = 4 && c.tableComing) = true) := by rcases hr with hr | hr <;> simp [hr]
  simp only [Ctx.matrix, h, if_neg this]

theorem matrix_table_coming
    (h : formatReason c.core c.thread.regs op c.cur.fmt (c.member op i).rowsum = some 4) (ht : c.tableComing = true) :
    c.matrix i s = c.holdAt .queue s := by
  subst hop
  simp [Ctx.matrix, h, ht]

variable (h : formatReason c.core c.thread.regs op c.cur.fmt (c.member op i).rowsum = none)
include h

theorem matrix_fields (hf : fieldsBad op (c.member op i) = true) : c.matrix i s = c.formatTrap 5 s := by
  subst hop
  simp only [Ctx.matrix, h, hf, if_true]

theorem matrix_place (hf : fieldsBad op (c.member op i) = false) {x : Span}
    (hp : placeBad c.launch op (c.member op i) = some x) :
    c.matrix i s = c.raise .address c.eff (BitVec.ofNat 32 x.code) x.offset s := by
  subst hop
  simp [Ctx.matrix, h, hf, hp]

theorem matrix_checked (hf : fieldsBad op (c.member op i) = false) (hp : placeBad c.launch op (c.member op i) = none) :
    c.matrix i s = c.withLut op (c.enterMatrix op (c.member op i)) s := by
  subst hop
  simp [Ctx.matrix, h, hf, hp]

end

/-- A codebook that the word does not read, or that is ready and sound, stands in no way (R52, R76, R359). -/
theorem withLut_ready {c : Ctx} {op : Nat} {body : State → State} {s : State}
    (h : readsLut op c.cur.fmt = true → ∀ r, c.lutReg = some r →
      c.lutWaits r = false ∧ c.lutDead r = false ∧ c.poison r = 0) :
    c.withLut op body s = body s := by
  unfold Ctx.withLut
  split
  · rfl
  next r hr =>
    split at hr
    next hreads =>
      obtain ⟨hwaits, hdead, hpoison⟩ := h hreads r hr
      simp [hwaits, hdead, hpoison]
    · cases hr

theorem enterMatrix_solo {c : Ctx} {op : Nat} {m : EngineMember} {s : State} (hw : c.matrixWaits op m = false)
    (hsolo : c.thread.gang = 0 ∨ 0x92 < op) : c.enterMatrix op m s = c.stepOn (enterEngine s c.ref.core op [m]) := by
  have : ¬((op ≤ 0x92 && c.thread.gang ≠ 0) = true) := by
    rcases hsolo with hg | ho
    · simp [hg]
    · simp; omega
  simp only [Ctx.enterMatrix, hw, Bool.false_eq_true, if_false, if_neg this]

theorem enterMatrix_gang {c : Ctx} {op : Nat} {m : EngineMember} {s : State} (hw : c.matrixWaits op m = false)
    (hg : c.thread.gang ≠ 0) (ho : op ≤ 0x92) : c.enterMatrix op m s = c.arriveLatch op m s := by
  have : (op ≤ 0x92 && c.thread.gang ≠ 0) = true := by
    rw [Bool.and_eq_true]
    exact ⟨decide_eq_true ho, decide_eq_true hg⟩
  simp only [Ctx.enterMatrix, hw, Bool.false_eq_true, if_false, if_pos this]

/-! ### What a matrix word leaves -/

section
variable {s : State} {c : Ctx} {i : Instr} (ag : Agent s c)
include ag

/-- A word that waits completes with its slot held. -/
theorem leaves_of_holdAt {h : Hold} (he : exec i s = .next (c.holdAt h (c.begun s))) : Leaves i s c (c.heldAt h) :=
  ⟨_, he, holdAt_begun ag h⟩

/-- A word that traps its whole slot parks it. -/
theorem parks_of_raise {cause : Cause} {synd : Word} {va : Nat} (he : exec i s = .next (c.raise cause c.eff synd va (c.begun s)))
    (hccp : c.thread.ccp = false) (hm : c.eff = c.cur.mask) :
    Parks i s c { cause := cause, lanes := c.cur.mask, synd := synd, unit := 0, tile := 0, va := va, pc := c.cur.pc,
                  seq := c.seq } :=
  ⟨_, he, raise_begun ag hccp hm cause synd va⟩

/-- A matrix word that enters the queue: the operation it adds, what it read at issue, and that its thread only goes on. -/
theorem stepOn_enterEngine {op : Nat} (hl : wordLength i = 4) (hb : c.below i) :
    let t := c.stepOn (enterEngine (c.begun s) c.ref.core op [c.member op i])
    ∃ e n x y, WithinCore c.ref.core s t ∧ (t.coreAt c.ref.core).engine = c.core.engine ++ [e] ∧ e.opcode = op ∧
      e.members = [{ c.member op i with seq := n, failEngine := x, failWeights := y }] ∧
      (t.coreAt c.ref.core).ladderQ = c.core.ladderQ ∧
      ∃ arms, t.threadAt c.ref = some { c.passed i with arms := arms } := by
  intro t
  have hissued : (c.begun s).threadAt (c.member op i).thread = some c.issued := threadAt_begun ag
  obtain ⟨arms, hth⟩ := threadAt_enterEngine (core := c.ref.core) (opcode := op) hissued
  have ht : t = (enterEngine (c.begun s) c.ref.core op [c.member op i]).modThread c.ref
      fun th => th.modSlot c.slot fun x => { x with pc := c.cur.pc + 4 } := stepOn_below hb hl
  refine ⟨{ seq := ((c.begun s).coreAt c.ref.core).engineSeq, opcode := op,
            members := [(armMember op c.issued { c.member op i with seq := (c.begun s).seq }).2] },
    _, _, _, ?_, ?_, rfl, rfl, ?_, arms, ?_⟩
  · rw [ht]
    exact ((withinCore_begun c s).trans (withinCore_enterEngine hissued)).trans (withinCore_modThread _ c.ref _)
  · rw [ht, engine_modThread, engine_enterEngine hissued, engine_begun, ag.core]
  · rw [ht, ladderQ_modThread, ladderQ_enterEngine hissued, ladderQ_begun, ag.core]
  · rw [member_thread] at hth
    rw [ht, threadAt_modThread_same, hth, Ctx.passed, hl]
    rfl

/-- A gang's first arrival: it stands at the latch, and its slot is held at the word. -/
theorem holdAt_latch (x : Arrival) :
    let t := c.holdAt .latch ((c.begun s).modCore c.ref.core fun k => k.latchArrival x)
    WithinCore c.ref.core s t ∧ (t.coreAt c.ref.core).engine = c.core.engine ∧
      (t.coreAt c.ref.core).arrivals = c.core.arrivals ++ [x] ∧ t.threadAt c.ref = some (c.heldAt .latch) := by
  have hblocks : ∀ k : Core, (k.latchArrival x).blocks = k.blocks := fun _ => rfl
  refine ⟨?_, ?_, ?_, ?_⟩
  · exact ((withinCore_begun c s).trans (withinCore_modCore_blocks _ _ hblocks)).trans (withinCore_modThread _ c.ref _)
  · rw [Ctx.holdAt, engine_modThread, coreAt_modCore_same, ag.core, ← engine_begun c s]
    rfl
  · rw [Ctx.holdAt, arrivals_modThread, coreAt_modCore_same, ag.core, ← arrivals_begun c s]
    rfl
  · apply holdAt_issued ag
    rw [threadAt_modCore_blocks _ _ hblocks, threadAt_begun ag]

end

/-- Settles O48: the checks of R126 and R121 come first, and each traps the whole slot, but for the hold behind a CBLD of the wave
that is still queued (R54); of several bad addresses the first in the descriptor is reported (log 94). A word that passes its checks
enters the queue, or stands as the first of its gang at the latch. -/
theorem matrixWords : Obligations.MatrixWords := by
  intro s c i a hrun hi op m trap reason
  have ag : Agent s c := (gate_go hrun.1).1
  have hexec : exec i s = .next (c.matrix i (c.begun s)) := exec_matrix hi hrun
  refine ⟨?_, ?_, ?_, ?_, fun hr hf hp hlut hwaits => ?_⟩
  · intro r hr hready hccp hm
    exact parks_of_raise ag (by rw [hexec, matrix_format rfl hr hready, Ctx.formatTrap]) hccp hm
  · intro hr hcoming
    exact leaves_of_holdAt ag (by rw [hexec, matrix_table_coming rfl hr hcoming])
  · intro hr hf hccp hm
    exact parks_of_raise ag (by rw [hexec, matrix_fields rfl hr hf, Ctx.formatTrap]) hccp hm
  · intro x hr hf hp hccp hm
    exact parks_of_raise ag (by rw [hexec, matrix_place rfl hr hf hp]) hccp hm
  have enters : exec i s = .next (c.enterMatrix op m (c.begun s)) := by
    rw [hexec, matrix_checked rfl hr hf hp, withLut_ready hlut]
  constructor
  · intro hsolo hbelow
    obtain ⟨e, n, x, y, hin, hengine, hop, hmem, hladder, arms, hth⟩ :=
      stepOn_enterEngine ag (op := op) (wordLength_matrix hi) hbelow
    refine ⟨_, e, { m with seq := n, failEngine := x, failWeights := y },
      by rw [enters, enterMatrix_solo hwaits hsolo], hin.1, hin.2, hengine, hop, hmem, rfl, rfl, rfl, rfl, rfl, rfl, hladder, ?_⟩
    rw [hth]
    rfl
  · intro hg ho hme hhere hother hnone
    obtain ⟨hin, hengine, harrivals, hth⟩ :=
      holdAt_latch ag { slot := c.slot, gang := c.thread.gang, opcode := op, member := m }
    have hfirst : ∀ e ∈ ((c.begun s).coreAt c.ref.core).arrivals, e.member.thread.block ≠ c.ref.block := by
      rw [arrivals_begun, ← ag.core]
      exact hnone
    refine ⟨_, ?_, hin.1, hin.2, hengine, harrivals, ?_⟩
    · rw [enters, enterMatrix_gang hwaits hg ho, arriveLatch_first rfl hme hhere hother hfirst]
    · rw [hth]
      simp [Ctx.heldAt, ag.cur]

end Sys2Proof.Machine
